-- ==== Sys2Proof/Word.lean ====
section
/-! DEFINITION. The words of the machine: their widths and the plainest names for them. -/

namespace Sys2Proof

/-- A token payload (R25). -/
abbrev W256 := BitVec 256
/-- A slot word or queue word (R273, R291), and the width of most registers. -/
abbrev W64 := BitVec 64
/-- A tag: context in bits 31 to 12, iteration in bits 11 to 0 (R31). -/
abbrev Tag := BitVec 32
/-- One byte. -/
abbrev Byte := BitVec 8

/-- The context of a tag (R31). -/
def Tag.ctx (t : Tag) : Nat := t.toNat / 4096

/-- The iteration of a tag (R31). -/
def Tag.iter (t : Tag) : Nat := t.toNat % 4096

/-- The tag of a context and an iteration, the iteration taken modulo 4,096 (R31, R33). -/
def Tag.mk (ctx iter : Nat) : Tag := BitVec.ofNat 32 (ctx * 4096 + iter % 4096)

/-- The tag with its iteration advanced by n, modulo 4,096 (R32, R75). -/
def Tag.adv (t : Tag) (n : Nat) : Tag := Tag.mk t.ctx (t.iter + n)

end Sys2Proof
end

