-- ==== Sys2Proof/Machine/Types.lean ====
section
/-! DEFINITION. The plain data that the state and the events are made of: coordinates, tokens, placed blocks, requests,
fabric messages, and the records of the hub. Rule numbers are those of spec/. -/

namespace Sys2Proof.Machine

/-! ## Coordinates -/

/-- A package of the link domain (R20). -/
structure Pkg where
  px : Nat
  py : Nat
deriving DecidableEq, Repr

/-- A cell in the package cell coordinates of R191: x and y from 0 to 127. -/
structure CellId where
  pkg : Pkg
  x : Nat
  y : Nat
deriving DecidableEq, Repr

/-- A cluster in the package cluster coordinates of R9: X and Y from 0 to 31. -/
structure Clu where
  pkg : Pkg
  X : Nat
  Y : Nat
deriving DecidableEq, Repr

/-- A bent's place: its package and origin (R191). -/
structure Origin where
  pkg : Pkg
  x : Nat
  y : Nat
deriving DecidableEq, Repr

/-- The compute die of a cell (R8, R191). -/
def CellId.die (c : CellId) : Nat := 2 * (c.y / 64) + c.x / 64
/-- The vault index of a cluster in its package: 256 times DIE plus VAULT (R9, R61). -/
def Clu.vault (c : Clu) : Nat :=
  256 * (2 * (c.Y / 16) + c.X / 16) + 16 * (c.Y % 16) + c.X % 16
/-- The cluster of a vault index (R9, R61). -/
def Clu.ofVault (p : Pkg) (v : Nat) : Clu :=
  { pkg := p, X := 16 * (v / 256 % 2) + v % 16, Y := 16 * (v / 512) + v % 256 / 16 }

/-- One bent of a raising: the raising's number and the bent's index in it (R24). -/
structure BentRef where
  rid : Nat
  bent : Nat
deriving DecidableEq, Repr

/-- A unit of a bent, in canonical coordinates (R191): an element at a canonical cell, or a shared unit of the cluster at
a canonical cluster (R12). -/
inductive UnitLoc where
  | elem (cx cy : Nat)
  | station (cX cY : Nat)
deriving DecidableEq, Repr

/-- The virtual device vd of a partition (R222). -/
structure VdRef where
  part : Nat
  vd : Nat
deriving DecidableEq, Repr

/-! ## Tokens -/

/-- The SHAPE of a token (R25). -/
inductive Shape where
  | scalar
  | vector
  | null
  | tileHead
deriving DecidableEq, Repr

/-- An operand port (R27). -/
inductive Port where
  | a
  | b
  | p
deriving DecidableEq, Repr

/-- A token (R25). `seq` is its header SEQ (the kept count of a mask token, R165). `body` holds the body tokens of a tile
burst, which travels as one token here. -/
structure Token where
  pay : W256
  tag : Tag
  shape : Shape
  seq : Nat
  body : List W256
deriving DecidableEq, Repr

/-- A slot's port inside a raising: bent, block-table index, slot and port (R25, R51, R191). -/
structure Dest where
  bent : Nat
  blk : Nat
  slot : Nat
  port : Port
deriving DecidableEq, Repr

/-- A waiting token: a Mortise row (R35), an entry of the spill ring (R36), or an operand of a ready entry (R452). `at_` is
its arrival time at the Mortise (R37); `frozen` is the mark of R30. -/
structure WaitTok where
  blk : Nat
  slot : Nat
  port : Port
  tok : Token
  at_ : Nat
  frozen : Bool
deriving DecidableEq, Repr

/-- An entry of the ready buffer: an instruction whose required ports all hold a token of one tag (R27, R452). -/
structure Ready where
  blk : Nat
  slot : Nat
  tag : Tag
  a : Option WaitTok
  b : Option WaitTok
  p : Option WaitTok
deriving DecidableEq, Repr

/-! ## Placed blocks -/

/-- One entry of a fan list (R51). -/
structure FanEntry where
  rmt : Bool
  bent : Nat
  blk : Nat
  port : Port
  slot : Nat
deriving DecidableEq, Repr

/-- One slot of a placed block: its slot word (R273), the canonical cell it stands on (for a tile-class slot, a cell of its
cluster, R284), and whether a target or fan-list entry of the raising names its port B (R275). -/
structure PSlot where
  word : W64
  cx : Nat
  cy : Nat
  bNamed : Bool
deriving DecidableEq, Repr

/-- A placed block: its header (R283), slots, fan lists (R51), descriptors (R73) and constants (R284). -/
structure PBlock where
  ordered : Bool
  timeline : Nat
  entry : Bool
  bent : Nat
  stmask : Nat
  wrmask : Nat
  nexit : Nat
  nread : Nat
  slots : List PSlot
  fans : List (List FanEntry)
  descs : List (BitVec 512)
  consts : List W64
deriving DecidableEq, Repr

/-- The role of a canonical cell (R11, R287). -/
inductive Role where
  | cp
  | ag
  | rd
deriving DecidableEq, Repr

/-! ## Faults and frozen work -/

/-- The fault codes of R188. -/
inductive Cause where
  | tagxRoot | kbndUnderflow | blockIndex | exitTwice | exitNone | joinArc | cmbMember | spillExhausted | blockStall
  | strayToken
  | laPerm | vaCanon | misaligned | storeHomeRemote | streamOverrun | shadowNone | atomHost | atomIst | iwriteTwice
  | xlInvalid | xlRead | xlWrite | refaultLoop | winForged
  | mmaConfig | scrbMember | tileWait
  | remoteTimeout | remoteFault | remoteBusy | trimExhausted | staleReplay | tagRange
  | eccUncorr
  | queueUndefined | queueMisaligned
deriving DecidableEq, Repr

/-- The number of a fault code (R188). -/
def Cause.code : Cause → Nat
  | .tagxRoot => 0x0101 | .kbndUnderflow => 0x0102 | .blockIndex => 0x0103 | .exitTwice => 0x0104
  | .exitNone => 0x0105 | .joinArc => 0x0106 | .cmbMember => 0x0107 | .spillExhausted => 0x0108
  | .blockStall => 0x0109 | .strayToken => 0x010A
  | .laPerm => 0x0201 | .vaCanon => 0x0202 | .misaligned => 0x0203 | .storeHomeRemote => 0x0204
  | .streamOverrun => 0x0205 | .shadowNone => 0x0206 | .atomHost => 0x0207 | .atomIst => 0x0208
  | .iwriteTwice => 0x0209
  | .xlInvalid => 0x0301 | .xlRead => 0x0302 | .xlWrite => 0x0303 | .refaultLoop => 0x0304 | .winForged => 0x0305
  | .mmaConfig => 0x0401 | .scrbMember => 0x0402 | .tileWait => 0x0403
  | .remoteTimeout => 0x0501 | .remoteFault => 0x0502 | .remoteBusy => 0x0503 | .trimExhausted => 0x0504
  | .staleReplay => 0x0505 | .tagRange => 0x0506
  | .eccUncorr => 0x0601
  | .queueUndefined => 0x0701 | .queueMisaligned => 0x0702

/-- Whether a cause is one that a walk finds in the page tables (R172): a replay that meets it again counts in REFAULTCNT (R180). -/
def Cause.walked : Cause → Bool
  | .xlInvalid | .xlRead | .xlWrite => true
  | _ => false

/-- A fault as its unit finds it, before it is placed in a record: the cause and the fields of R187 that the unit supplies; `port` numbers the
port whose token fired. -/
structure FaultInfo where
  cause : Cause
  addr : Nat := 0
  level : Nat := 0
  wr : Bool := false
  aux : Nat := 0
  j : Nat := 0
  park : Bool := false
  port : Nat := 0
deriving DecidableEq, Repr

/-- A record of the fault ring (R187), by its fields. `eng` with `unit` names a shared unit. -/
structure FaultRec where
  cause : Nat
  part : Nat
  vdid : Nat
  bent : Nat
  raiseid : Nat
  ecx : Nat
  ecy : Nat
  eng : Bool
  unit : Nat
  blk : Nat
  slot : Nat
  port : Nat
  tag : Tag
  addr : Nat
  level : Nat
  wr : Bool
  park : Bool
  j : Nat
  refc : Nat
  fire : Nat
  sub : Nat
  grp : Nat
  kstep : Nat
  acc : Nat
  seq : Nat
  aux : Nat
  cycle : Nat
deriving DecidableEq, Repr

/-- A frozen instruction, stream element, copy or batch (R30, R179, R180): where it stands, its tag, the information of its
last fault, the count of refaults, and whether the Sill holds the fault (R47). -/
structure Frozen where
  blk : Nat
  slot : Nat
  tag : Tag
  info : FaultInfo
  refc : Nat
  held : Bool
  work : Option Nat
deriving DecidableEq, Repr

/-! ## Translation -/

/-- A window: an entry of a window token (R176) held by an AG, a Lahar or a vent port (R177, R179). -/
structure Window where
  gen : Nat
  big : Bool
  ptea : Nat
  leaf : W64
  vbase : Nat
  at_ : Nat
deriving DecidableEq, Repr

/-! ## The Sill -/

/-- A buffered store of an ORDERED activation (R46): its LSID, its slot and cell, its address as the program gave it, the translation it was
made under (R173), the parity of the generation it goes to (R100), its home address, its page's key (R266) and its bytes; `frozen` says that
its commit met a fault that Kiln has not repaired. -/
structure SillStore where
  lsid : Nat
  slot : Nat
  cx : Nat
  cy : Nat
  loc : Bool
  va : Nat
  tgen : Nat
  shadow : Bool
  ga : Nat
  key : Nat
  bytes : List Byte
  frozen : Bool
deriving DecidableEq, Repr

/-- An entry of a timeline's commit window (R42 to R48, R454). `ts` is the whole timestamp; `writes` holds the value of
each executed WRITE, and none for a nullified one; `lsids` the accounted LSIDs; `reads` the read set of address ranges; `faults` the faults that the
Sill holds, in the order they were raised (R47); `charged` what its firings and accesses have been charged (R236). -/
structure WinEntry where
  ts : Nat
  blk : Nat
  start : Token
  exits : Nat
  exitNull : Nat
  lsids : List Nat
  stores : List SillStore
  writes : List (Nat × Option W64)
  held : List (Dest × Token)
  reads : List (Nat × Nat)
  faults : List (FaultInfo × Nat × Nat)
  charged : Nat
deriving DecidableEq, Repr

/-- A start token waiting at the Sill (R43), or to be delivered again after an abort (R47). -/
structure StartTok where
  ts : Nat
  blk : Nat
  tok : Token
deriving DecidableEq, Repr

/-- One timeline of a bent (R42). -/
structure Timeline where
  win : List WinEntry
  waiting : List StartTok
  aborted : List Nat
  redeliver : Option StartTok
  g : List W64
  chain : Bool
deriving DecidableEq, Repr

/-! ## Element-held state of the instructions -/

/-- The count of a CTR slot for a context (R327). -/
structure CtrCtx where
  blk : Nat
  slot : Nat
  ctx : Nat
  count : Nat
deriving DecidableEq, Repr

/-- The live count of a KBND slot for a context, with the context's first admitted iteration (R34, R358). -/
structure KbndCtx where
  blk : Nat
  slot : Nat
  ctx : Nat
  live : Nat
  first : Nat
deriving DecidableEq, Repr

/-- The opening of a GATE slot for a context (R55, R349): open, and whether by a null token. -/
structure GateCtx where
  blk : Nat
  slot : Nat
  ctx : Nat
  null : Bool
deriving DecidableEq, Repr

/-- The next iteration due of a REORD slot for a context (R56, R406). -/
structure ReordCtx where
  blk : Nat
  slot : Nat
  ctx : Nat
  due : Nat
deriving DecidableEq, Repr

/-- The row of a JOIN slot for a tag (R53, R356): arcs seen, null arcs, counter modulo 2^48, and the P token if it has come. -/
structure JoinRow where
  blk : Nat
  slot : Nat
  tag : Tag
  arcs : List Nat
  nulls : Nat
  counter : Nat
  p : Option Token
deriving DecidableEq, Repr

/-- The row of a CMB slot for a key (R54, R319). `vals` holds the contributions of FADD with AM = 0 by member number (none:
predicated off); `acc` the running value of every other operation; `seen` the contributions counted; `flags` and `warn` what its contributions
raised, which the element's words take when CMB emits (R131, R294). -/
structure CmbRow where
  blk : Nat
  slot : Nat
  key : Tag
  seen : Nat
  vals : List (Nat × Option W256)
  acc : Option W256
  null : Bool
  vector : Bool
  flags : BitVec 8
  warn : BitVec 30
deriving DecidableEq, Repr

/-- What a STAD or STSNK slot holds (R136, R422, R423): a STAD's arrivals since it last forwarded and their merge; a STSNK's token that
waits for its update, and whether a fault froze it. `warn` is what its tokens raised, which the element's word takes when they go on (R294). -/
structure StatRow where
  blk : Nat
  slot : Nat
  count : Nat
  pay : W256
  tag : Tag
  a : Option WaitTok
  frozen : Bool
  warn : BitVec 30
deriving DecidableEq, Repr

/-! ## Streams -/

/-- What a stream in progress is (R75, R76, R77, R78, R80). -/
inductive StreamKind where
  | srd | swr | csrd
deriving DecidableEq, Repr

/-- The value of one stream element that has been read and not yet emitted. -/
structure StreamVal where
  j : Nat
  tok : Token
deriving DecidableEq, Repr

/-- A stream in progress of an AG (R75, R76, R80, R419, R426, R427): its descriptor, base, A token, next element to issue,
next element to emit, values read and held, elements parked (R179), those of the parked ones that lie in the spill area for want of a row (R36,
R179), the generations it took of shadowed buffers, by VBASE (R101), the pointers that a CSRD has read (R80), and the WARN bits that it sets when
it emits (R294). -/
structure Stream where
  id : Nat
  kind : StreamKind
  blk : Nat
  slot : Nat
  tag : Tag
  atok : Token
  base : Nat
  next : Nat
  emit : Nat
  count : Nat
  held : List StreamVal
  parked : List Nat
  done : List Nat
  spilled : List Nat
  gens : List (Nat × Nat)
  ptrs : List (Nat × Nat)
  stalled : Bool
  badrows : Nat
  warn : BitVec 30
deriving DecidableEq, Repr

/-- One element of a SCAT batch: its position in its context, index and value (R78). -/
structure ScatElem where
  pos : Nat
  idx : Int
  val : Nat
deriving DecidableEq, Repr

/-- The SCAT state of one slot and context (R78, R412): elements numbered so far, and the open batch. `total` counts toward EXT1, and `warn`
holds what its tokens raised for the count token (R294). -/
structure ScatCtx where
  blk : Nat
  slot : Nat
  ctx : Nat
  total : Nat
  batch : List ScatElem
  warn : BitVec 30
deriving DecidableEq, Repr

/-- A closed SCAT batch waiting to be applied (R78, R79): `rnd` is the rounding mode its combine took as it closed (R125), coded as MOD, and
`warn` the WARN bits that its count token sets. -/
structure ScatBatch where
  id : Nat
  blk : Nat
  slot : Nat
  tag : Tag
  base : Nat
  elems : List ScatElem
  rnd : BitVec 3
  warn : BitVec 30
  pos : Nat
  frozen : Bool
deriving DecidableEq, Repr

/-! ## Requests -/

/-- The atomic operations (R309, R396). -/
inductive AtomOp where
  | add | or | swap | cas
deriving DecidableEq, Repr

/-- What a request does at its home (R60, R65, R83, R105, R106, R395). `xlate` only walks. -/
inductive AccKind where
  | ld | st | ldi | sti | stiClr
  | atom (op : AtomOp)
  | xlate (wr : Bool)
  | rld | rst | rstp
  | ratm (op : AtomOp)
  | late (sh : Bool)
  | gath
  | agrp
  | publ
  | mfsHub (n : Nat)
  | enrg
  | wqini
  | wqnx
  | trap
deriving DecidableEq, Repr

/-- Whether a request outlives the firing that issued it: a posted store (R96, R214), and the write of an MCST's member that was declared absent
before it was performed (R369). -/
def AccKind.detached : AccKind → Bool
  | .rstp => true
  | .late _ => true
  | _ => false

/-- The answer a request carries back. -/
inductive Reply where
  | val (v : W256)
  | ack
  | err (i : FaultInfo)
deriving DecidableEq, Repr

/-- The stages of a request: its walk (R172), the dirty logger (R183), on its way to its home, forwarded by the ingress that translated it (R197), at its
home, deferred in a word's list (R83), parked in a fault queue (R184), turned away by a busy notice to go again (R184, R206), on its way back, arrived
at its issuer, and frozen there (R30). -/
inductive ReqStage where
  | walk | dirty | toHome | forward | home | deferred | parked | turned | toIssuer | reply | frozen
deriving DecidableEq, Repr

/-- A sequence space (R197): VC 1, 3 and 4 by partition and dies, VC 5 down by group, MCUP leaves by member and root die. A
die is named by its package and number. -/
inductive Space where
  | vc (part : Nat) (sp : Pkg) (sd : Nat) (dp : Pkg) (dd : Nat) (vc : Nat)
  | group (part : Nat) (sp : Pkg) (sd : Nat) (g : Nat)
  | leaf (part : Nat) (mp : Pkg) (md : Nat) (rp : Pkg) (rd : Nat)
deriving DecidableEq, Repr

/-- A request of an AG in progress (R15, R172, R179, R185, R190). `wr` operands: `data` is stored or the atomic operand,
`data2` the compare operand. `size` is in bytes. `ga` is the home address once translated. `ops` keeps the operand tokens
of the instruction; `big` is the page size of its leaf; `shadow` the parity of the generation it takes (R101); `posted` says that it has
emitted, `vdr` the virtual device it acts for, `resendAt` when it goes again after a busy notice (R184), 0 for never, and `warn` the WARN
bits that its instruction sets when it emits (R294). -/
structure Req where
  id : Nat
  br : BentRef
  cx : Nat
  cy : Nat
  blk : Nat
  slot : Nat
  tag : Tag
  kind : AccKind
  stage : ReqStage
  loc : Bool
  va : Nat
  size : Nat
  ty : Nat
  data : W256
  data2 : W256
  scope : Nat
  a : Option WaitTok
  b : Option WaitTok
  p : Option WaitTok
  tgen : Nat
  big : Bool
  ptea : Nat
  leaf : W64
  ga : Option Nat
  reply : Option Reply
  deadline : Nat
  busy : Nat
  space : Option Space
  seq : Nat
  pinned : Bool
  shadow : Bool
  posted : Bool
  target : Pkg
  vdr : VdRef
  resendAt : Nat
  warn : BitVec 30
deriving DecidableEq, Repr

/-- A deferred reader of a write-once word (R83, R84): the word's address and the request that waits. -/
structure Deferred where
  ga : Nat
  req : Nat
  pool : Bool
deriving DecidableEq, Repr

/-! ## The fabric -/

/-- The four package edges (R8, R19). -/
inductive Edge where
  | north | south | west | east
deriving DecidableEq, Repr

/-- A router: that of a cell (R10), that of half an edge of a package (R196), or a hub unit's own on the hub die's edge to a compute die (R13), the
unit numbered as R192 does. -/
inductive Node where
  | cell (c : CellId)
  | edge (p : Pkg) (e : Edge) (half : Nat)
  | hub (p : Pkg) (unit die : Nat)
deriving DecidableEq, Repr

/-- The message kinds of R193. -/
inductive MKind where
  | token | rdreq | wrreq | atreq | rdreqP | wrreqP | atreqP | rdrep | wrack | atrep | sack
  | bulk | bulkH | bulkT | bulkHT | post | mcdata | mcrq | mcup | mgmt | config
  | rereq | keepwait | busy | error
  | reserved (code : Nat)
deriving DecidableEq, Repr

/-- The virtual channel of a kind (R193); 0 stands for a reserved one, which no channel has. -/
def MKind.vc : MKind → Nat
  | .token => 0
  | .rdreq | .wrreq | .atreq | .rdreqP | .wrreqP | .atreqP => 1
  | .rdrep | .wrack | .atrep | .sack => 2
  | .bulk | .bulkH | .bulkT | .bulkHT => 3
  | .post => 4
  | .mcdata | .mcrq | .mcup => 5
  | .mgmt | .config => 6
  | .rereq | .keepwait | .busy | .error => 7
  | .reserved _ => 0

/-- The code of a kind in a header (R193). -/
def MKind.code : MKind → Nat
  | .token => 0x00
  | .rdreq => 0x01
  | .wrreq => 0x02
  | .atreq => 0x03
  | .rdreqP => 0x04
  | .wrreqP => 0x05
  | .atreqP => 0x06
  | .rdrep => 0x08
  | .wrack => 0x09
  | .atrep => 0x0A
  | .sack => 0x0B
  | .bulk => 0x0C
  | .bulkH => 0x0D
  | .bulkT => 0x0E
  | .bulkHT => 0x0F
  | .post => 0x10
  | .mcdata => 0x11
  | .mcrq => 0x12
  | .mcup => 0x13
  | .mgmt => 0x14
  | .config => 0x15
  | .rereq => 0x18
  | .keepwait => 0x19
  | .busy => 0x1A
  | .error => 0x1B
  | .reserved c => c

/-- The units that PORT = 11 addresses (R192), with the port of a slot for every other flit. -/
inductive FUnit where
  | slot (rid : Nat) (d : Dest)
  | cont (req : Nat)
  | vault
  | lahar
  | truss
  | vent (n : Nat)
  | hbm (n : Nat)
  | egress
  | ingress
  | hubUnit (n : Nat)
  | reserved (code : Nat)
deriving DecidableEq, Repr

/-- The slot code of a unit that PORT = 11 names (R192). -/
def FUnit.code : FUnit → Nat
  | .slot _ d => d.slot
  | .cont _ => 0
  | .vault => 0x00
  | .lahar => 0x01
  | .truss => 0x02
  | .vent n => 0x10 + n
  | .hbm n => 0x18 + n
  | .egress => 0x1A
  | .ingress => 0x1B
  | .hubUnit n => 0x40 + n
  | .reserved c => c

/-- A contribution on its way up a reduction tree (R212): the range of ranks [first, first + 2^k), the mode, operation and type of its MCRED, its
lanes and flags. -/
structure McNode where
  req : Nat
  first : Nat
  k : Nat
  rnd : BitVec 3
  op : Nat
  ty : Nat
  lanes : W256
  flags : BitVec 8
deriving DecidableEq, Repr

/-- The payload of a message. A tile burst of more than 16 flits travels as several messages (R189): `burst` is an earlier one with its payloads, and
the last is the `tok`, with which the token is there. -/
inductive MBody where
  | tok (rid : Nat) (d : Dest) (t : Token)
  | burst (rid : Nat) (d : Dest) (pays : List W256)
  | req (id : Nat)
  | rep (id : Nat) (r : Reply)
  | bulk (id : Nat)
  | err (req : Option Nat) (rank : Option Nat) (code : Nat) (cause : Nat) (addr : Nat)
  | mcq (id : Nat) (rank : Nat)
  | mcd (id : Nat) (rank : Nat)
  | mcu (n : McNode) (group : Nat)
  | install (req : Nat)
  | notice (id : Nat)
  | empty
deriving DecidableEq, Repr

/-- A message (R189, R190): the fields of its header, its dateline subchannel `sub` (R196), the partition and sequence space it belongs to, and
what its payload holds. `hubDst` says that its destination is a unit of the hub, and `hubSrc` names the unit of the hub that sends it, if one does. -/
structure Msg where
  mid : Nat
  kind : MKind
  vc : Nat := kind.vc
  vrel : Bool := false
  shape : Shape := .scalar
  src : CellId
  dst : CellId
  unit : FUnit
  hubDst : Bool
  tag : Tag
  len : Nat
  trim : Bool
  gen : Nat
  seq : Nat
  space : Option Space
  part : Nat
  sub : Nat
  body : MBody
  hubSrc : Option Nat := none
deriving DecidableEq, Repr

/-- What a bulk message serves (R325, R387): a copy of a cluster's Lahar, or a queue's QCOPY. -/
inductive BulkOwner where
  | copy (br : BentRef) (cX cY : Nat) (id : Nat)
  | qcopy (v : VdRef) (q : Nat) (id : Nat)
deriving DecidableEq, Repr

/-- A 32-byte unit of a copy on its way between dies as bulk on VC 3 (R202, R325, R387): bytes for the Lahar's buffer at `places`, or for the homes
`dst` names by address and key, found from the virtual addresses `vas` (none of a local destination) in the shadow when `sh`, else in the sets visible
at the generations `gens` (R100). `at_` is the unit that a record names, `done` says that it has been performed, `lost` that an error ended
it. -/
structure Bulk where
  id : Nat
  owner : BulkOwner
  at_ : Nat
  places : List Nat
  dst : List (Nat × Nat)
  vas : List Nat
  sh : Bool
  gens : List (Nat × Nat)
  bytes : List Byte
  kind : MKind
  src : CellId
  hubSrc : Option Nat
  goal : CellId
  space : Space
  seq : Nat
  done : Bool
  lost : Bool
deriving DecidableEq, Repr

/-- One queue of a router output (R194, R195): the router, the next router, VC and subchannel; messages in order. -/
structure FQueue where
  node : Node
  out : Node
  vc : Nat
  sub : Nat
  msgs : List Msg
deriving DecidableEq, Repr

/-- TRIMTH of one output and VC where it differs from the default (R194, R199). -/
structure TrimTh where
  node : Node
  out : Node
  vc : Nat
  th : Nat
deriving DecidableEq, Repr

/-- A retransmit copy held for a partition (R198). -/
structure TxCopy where
  part : Nat
  pkg : Pkg
  space : Space
  seq : Nat
  msg : Msg
  vd : Nat
  waiting : List Nat
deriving DecidableEq, Repr

/-- A sequence counter and its outstanding messages (R197). -/
structure SeqSpace where
  space : Space
  next : Nat
  outstanding : List Nat
deriving DecidableEq, Repr

/-- An entry of a die ingress's trimmed-header table (R201): due is the time of its REREQ, none once sent. -/
structure TrimEntry where
  pkg : Pkg
  die : Nat
  space : Option Space
  seq : Nat
  n : Nat
  due : Option Nat
  msg : Msg
deriving DecidableEq, Repr

/-- The reorder window of a VC 3 or VC 4 space at its die ingress (R204): next SEQ due, messages held, SACK state. -/
structure Reorder where
  space : Space
  next : Nat
  held : List Msg
  unsacked : Nat
  oldest : Nat
  ended : List Nat
deriving DecidableEq, Repr

/-- An entry of a deduplication table (R205): reply is none while PENDING. -/
structure DedupEntry where
  seq : Nat
  req : Nat
  reply : Option Reply
deriving DecidableEq, Repr

/-- A deduplication table (R205, R206). -/
structure Dedup where
  pkg : Pkg
  die : Nat
  part : Nat
  spkg : Pkg
  sdie : Nat
  hi : Nat
  entries : List DedupEntry
deriving DecidableEq, Repr

/-- The TAG_RANGE drops of a die ingress (R224): how many since its last record, and when it may write the next. -/
structure RangeLog where
  pkg : Pkg
  die : Nat
  count : Nat
  next : Nat
deriving DecidableEq, Repr

/-- The port counters of R203 and the RAS counters of R269. -/
inductive RasName where
  | trimmed | rereq | resent | exhaust | dupdrop | cached | stale | busyn | pindemote | misroute
  | eccc | eccu | linkretry | gendrop | ingdrop | hostbad | fenced
deriving DecidableEq, Repr

/-- One RAS counter (R269): its name, its package and a number that names the cell, class, window or die; of the counters of R203, 8 times the port plus
the VC. -/
structure RasCounter where
  name : RasName
  pkg : Pkg
  idx : Nat
  count : BitVec 48
deriving DecidableEq, Repr

/-- A multicast message held by a router with its pending-port mask (R209). -/
structure McCopy where
  node : Node
  msg : Msg
  pending : List Node
deriving DecidableEq, Repr

/-- A group entry of a router (R210): the outputs toward the members, the output toward the root, N, and the ranks below each input; `came` says that
the CONFIG message has reached the router, `acked` that the router holds the entry. -/
structure GroupEntry where
  part : Nat
  group : Nat
  owner : BentRef
  cx : Nat
  cy : Nat
  node : Node
  outs : List Node
  root : Node
  n : Nat
  below : List (Node × List Nat)
  came : Bool
  acked : Bool
deriving DecidableEq, Repr

/-- One member of an address group (R210), with the die of its page. -/
structure Member where
  pkg : Pkg
  die : Nat
  abs : Bool
  va : Nat
deriving DecidableEq, Repr

/-- A reduction slot of an edge router (R212): a contribution that waits for its sibling since `since`, with its dateline subchannel. -/
structure RedSlot where
  node : Node
  sub : Nat
  group : Nat
  root : CellId
  n : McNode
  since : Nat
deriving DecidableEq, Repr

/-- A link that is down (R208). -/
structure DownLink where
  pkg : Pkg
  edge : Edge
  half : Nat
deriving DecidableEq, Repr

/-! ## Host, management and platform -/

/-- What a layout says of one partition (R222, R223, R237, R266): clusters, context range, row quota, keys, envelope in watts, the quotas of HBM,
vault and Sinter capacity in bytes of a package, the queue sequencers, and the semaphore range. -/
structure PartLayout where
  part : Nat
  clusters : List Clu
  ctxBase : Nat
  ctxLim : Nat
  quota : Nat
  keys : List Nat
  envelope : Nat
  hbm : Nat
  vault : Nat
  sinter : Nat
  sequencers : List Nat
  semBase : Nat
  semCount : Nat
deriving DecidableEq, Repr

/-- A partition layout (R267). -/
structure Layout where
  parts : List PartLayout
deriving DecidableEq, Repr

/-- The intent record of R267. -/
structure Intent where
  seq : Nat
  bankB : Bool
  digest : BitVec 256
  valid : Bool
deriving DecidableEq, Repr

/-- What built-in test and training report (R2, R21, R262): failed cells, clusters whose shared unit failed, failed HBM4 stacks, the GiB of each fitted
Sinter channel, and the Scarf links that do not train. -/
structure BistReport where
  cells : List (Nat × Nat)
  clusters : List (Nat × Nat)
  lostStacks : List Nat
  sinter : List Nat
  links : List (Edge × Nat) := []
deriving DecidableEq, Repr

end Sys2Proof.Machine
end

