-- ==== Sys2Proof/Machine/Units.lean ====
section
/-! DEFINITION. The plain data of a bent's units (element, cluster, Truss, Lahar, Jointer), of the hub, of partitions and
virtual devices, and of the host side. Rule numbers are those of spec/. -/

namespace Sys2Proof.Machine

/-! ## Elements -/

/-- One element of a bent, at its canonical cell (R10, R191), with all it holds for the bent (R231). `link` is its incoming
link: tokens delivered by the router and not yet taken (R449). -/
structure Elem where
  cx : Nat
  cy : Nat
  link : List (Nat × WaitTok)
  rows : List WaitTok
  ready : List Ready
  flags : BitVec 8
  rmode : BitVec 3
  warn : BitVec 30
  nondet : BitVec 2
  pwin : List (Option Window)
  own : List Window
  ctr : List CtrCtx
  kbnd : List KbndCtx
  gate : List GateCtx
  reord : List ReordCtx
  join : List JoinRow
  cmb : List CmbRow
  stats : List StatRow
  streams : List Stream
  scat : List ScatCtx
  batches : List ScatBatch
  eccFrozen : Bool
  strayCount : Nat
  strayNext : Nat
  rangeCount : Nat
  rangeNext : Nat
deriving DecidableEq, Repr

/-! ## Clusters -/

/-- The state of one ring slot (R66). -/
inductive SlotState where
  | empty | fill | full
deriving DecidableEq, Repr

/-- A configured ring (R66, R68, R407). `notices` are freed-slot notices on their way, `written` the FILL slots from the tail whose last
byte is written (R67). `prod` is none for the Lahar, else the block and slot of the producing tile node. -/
structure Ring where
  k : Nat
  base : Nat
  slotsz : Nat
  nslot : Nat
  prod : Option (Nat × Nat)
  cons : Nat × Nat
  head : Nat
  tail : Nat
  states : List SlotState
  credits : Nat
  notices : Nat
  written : Nat
deriving DecidableEq, Repr

/-- An entry of the range scoreboard (R71): the write that holds it and its destination range in the home address space. -/
structure ScoreEntry where
  owner : Nat
  lo : Nat
  len : Nat
deriving DecidableEq, Repr

/-- A tile mark at a home (R104): held by a tile write, or by a whole-tile read in progress. -/
structure TileMark where
  owner : Nat
  write : Bool
  lo : Nat
  len : Nat
deriving DecidableEq, Repr

/-- A configured tile node (R154, R161, R434): its configuration token, firings left, and the counters FIRE and SUB (R157).
`mask` is the mask in use and `js` its kept tiles not yet done (R166); `warn` is what its configuration raised, and `mwarn` what the mask in use and
the operands read under it did, which the engine word takes as the node emits (R294). -/
structure TNode where
  blk : Nat
  slot : Nat
  cfg : Token
  left : Nat
  fire : Nat
  sub : Nat
  mask : Option Token
  js : List Nat
  readyAt : Nat
  warn : BitVec 30
  mwarn : BitVec 30 := 0
deriving DecidableEq, Repr

/-- The firing that holds the Truss (R151, R157): its node, the counters GRP, KSTEP and ACC, the accumulators as raw lane values in
row-major order, the flags not yet reported, and whether a fault stops it (R437). For the row instructions `kstep` is the row, and `grp`
the 32-byte units written to memory. `id` owns its tile marks, and `rnd` is the rounding mode resolved as it began (R125), coded as MOD. -/
structure Firing where
  id : Nat
  blk : Nat
  slot : Nat
  grp : Nat
  kstep : Nat
  acc : Nat
  accs : List (List Nat)
  flags : BitVec 8
  rnd : BitVec 3
  stopped : Bool
deriving DecidableEq, Repr

/-- A key in progress of the Scribe (R164): scores by tile index, the force mask, and the WARN bits that its inputs raised (R294). -/
structure ScribeKey where
  blk : Nat
  slot : Nat
  key : Tag
  scores : List (Nat × Option W256)
  force : Option (Option W256)
  warn : BitVec 30
deriving DecidableEq, Repr

/-- A copy of the Lahar (R323, R324, R325): the AG and slot that issued it, its tokens, the units to copy in order, the unit
in progress and the 32-byte units of it that are written, whether that unit has begun, the bytes of it that are read and not written, by their
place in it, the generations taken of shadowed sources, by VBASE (R101), and the WARN bits that its token sets in its AG's word and in the engine
word (R294). -/
structure Copy where
  id : Nat
  cx : Nat
  cy : Nat
  blk : Nat
  slot : Nat
  tag : Tag
  atok : Token
  btok : Option Token
  units : List Nat
  pos : Nat
  off : Nat
  begun : Bool
  buf : List (Nat × Byte)
  gens : List (Nat × Nat)
  frozen : Bool
  warn : BitVec 30
  ewarn : BitVec 30
deriving DecidableEq, Repr

/-- A function token whose lanes take the second phase (R144, R145, R147): lanes still queued and lanes held by the Jointer
with the time each ends, and the token, flags and warnings to emit when none is left. `fastEnd` is the end of its fast path, from which its lanes
may enter (R145). `frozen` withholds it (R186). -/
structure JTok where
  id : Nat
  cx : Nat
  cy : Nat
  blk : Nat
  slot : Nat
  out : Token
  flags : BitVec 8
  warn : BitVec 30
  fastEnd : Nat
  queued : Nat
  heldTo : List Nat
  tile : Bool
  frozen : Bool := false
deriving DecidableEq, Repr

/-- The shared units of one cluster of a bent, at its canonical cluster (R12). -/
structure Cluster where
  cX : Nat
  cY : Nat
  link : List (Nat × WaitTok)
  rows : List WaitTok
  ready : List Ready
  rings : List Ring
  score : List ScoreEntry
  nodes : List TNode
  firing : Option Firing
  scribe : List ScribeKey
  copies : List Copy
  laharWin : List Window
  jointer : List JTok
  jlast : Nat
deriving DecidableEq, Repr

/-! ## Bents and raisings -/

/-- A pool context in use (R31, R429): its parent tag and whether it is closing. -/
structure CtxEntry where
  ctx : Nat
  parent : Tag
  closing : Bool
deriving DecidableEq, Repr

/-- The age of an activation that the watchdog counts (R58). -/
structure Age where
  blk : Nat
  tag : Tag
  start : Nat
  told : Bool
deriving DecidableEq, Repr

/-- A placed bent (R24, R191), its displacement in clusters since its placement (R232), with its registers, its table of contexts, its Sill, its elements and clusters. `runFrom` is
the time since which its cycles count, none while they do not (R229); `cycAcc` what it counted before. -/
structure Bent where
  pkg : Pkg
  x0 : Nat
  y0 : Nat
  w : Nat
  h : Nat
  roles : List Role
  claims : List (Nat × Nat)
  grant : List Nat
  vdx : Int
  vdy : Int
  rootCtx : Nat
  tlCtx : List Nat
  pool : List Nat
  ctxs : List CtxEntry
  bentId : W64
  engFlags : BitVec 8
  engWarn : BitVec 30
  engRmode : BitVec 3
  spillCnt : W64
  trimCnt : W64
  refaultCnt : W64
  lostPosted : Nat
  cycAcc : Nat
  runFrom : Option Nat
  wdInterval : Nat
  ages : List Age
  spillSize : Nat
  spill : List WaitTok
  completions : Nat
  frozen : Bool
  isSealed : Bool
  timelines : List Timeline
  frozenTags : List (UnitLoc × Frozen)
  elems : List Elem
  clus : List Cluster
deriving DecidableEq, Repr

/-- A HALT that has fired and is not yet applied (R353, R354). -/
structure HaltReq where
  code : Nat
  stop : Bool
  bent : Nat
  blk : Nat
  slot : Nat
  at_ : Nat
deriving DecidableEq, Repr

/-- A BRK that holds its emission, with the WARN bits that it sets then (R294, R315). -/
structure BrkHold where
  bent : Nat
  loc : UnitLoc
  blk : Nat
  slot : Nat
  tok : Token
  code : Nat
  warn : BitVec 30
deriving DecidableEq, Repr

/-- Whether a raising runs, is drained and saved between its slots, is held by QSAVE (R394), or is ended. -/
inductive RaisState where
  | running | drained | held
deriving DecidableEq, Repr

/-- A placed raising (R24, R220) and its phase (R385): the queue that launched it, reservation and charges (R238), HALTs
pending, BRKs held, and whether it is stopped at a BRK (R315). `stats` are the routes of the Fumarole (R134): a converter's block and
slot, and the block and slot its tokens go to. -/
structure Raising where
  rid : Nat
  raiseId : W64
  vdr : VdRef
  queue : Nat
  image : W64
  blocks : List PBlock
  bents : List Bent
  state : RaisState
  brkStop : Bool
  brks : List BrkHold
  halts : List HaltReq
  stats : List (Nat × Nat × Nat × Nat)
  resv : Nat
  used : Nat
  admitted : Nat
deriving DecidableEq, Repr

/-! ## Multicast and fences -/

/-- What is known of a member of an MCRED or MCST (R211, R213, R369): its request is on its way, has arrived, has been performed and its answer
is on its way, is done, or the member is absent. -/
inductive McState where
  | waiting | arrived | answered | done | absent
deriving DecidableEq, Repr

/-- A member's request turned away by a full fault queue (R184): how often, and when it goes again, none once it has gone. -/
structure MemberBusy where
  rank : Nat
  count : Nat
  at_ : Option Nat
deriving DecidableEq, Repr

/-- An MCRED or MCST in progress (R211, R369): its operands, the rounding mode as MOD codes it (R125), members by rank, the nodes of the
reduction that have come, and the time at which silent members become absent. `data` is what an MCST writes. -/
structure McOp where
  id : Nat
  br : BentRef
  cx : Nat
  cy : Nat
  blk : Nat
  slot : Nat
  tag : Tag
  a : Option WaitTok
  b : Option WaitTok
  p : Option WaitTok
  data : Option W256
  group : Nat
  off : Nat
  rnd : BitVec 3
  members : List McState
  deadlines : List Nat
  nodes : List McNode
  space : Option Space
  seq : Nat
  busy : List MemberBusy
  frozen : Bool
deriving DecidableEq, Repr

/-- A FENCE that waits (R347): the requests, copies, streams and batches it covers, its posted stores, those of them lost, and the WARN bits
it sets when it emits (R294). -/
structure Fence where
  id : Nat
  br : BentRef
  cx : Nat
  cy : Nat
  blk : Nat
  slot : Nat
  tag : Tag
  scope : Nat
  covers : List Nat
  posted : List Nat
  lost : Nat
  warn : BitVec 30
deriving DecidableEq, Repr

/-! ## Images and loads -/

/-- A bent as RAISE declares it (R287). -/
structure BentDecl where
  w : Nat
  h : Nat
  pool : Nat
  claims : List (Nat × Nat)
  roles : List Role
deriving DecidableEq, Repr

/-- A ring declaration (R287). -/
structure RingDecl where
  bent : Nat
  cX : Nat
  cY : Nat
  k : Nat
deriving DecidableEq, Repr

/-- Initial bytes of a granted vault or a scratchpad (R287). `vault` true: `index` is a claim; false: a cell, column plus 32
times row. -/
structure DataDecl where
  bent : Nat
  vault : Bool
  index : Nat
  off : Nat
  bytes : List Byte
deriving DecidableEq, Repr

/-- A place entry (R284): none for ANY. -/
abbrev Place := Option (Nat × Nat)

/-- A block as the loader reads it, before placement (R283, R284). -/
structure BlockImg where
  ordered : Bool
  timeline : Nat
  entry : Bool
  bent : Nat
  stmask : Nat
  wrmask : Nat
  nexit : Nat
  nread : Nat
  words : List W64
  places : List Place
  fans : List (List FanEntry)
  descs : List (BitVec 512)
  consts : List W64
deriving DecidableEq, Repr

/-- A resident image (R242 to R245, R287). -/
structure Image where
  id : W64
  bents : List BentDecl
  blocks : List BlockImg
  rings : List RingDecl
  datas : List DataDecl
  queues : List (List W64)
  stats : List (Nat × Nat × Nat × Nat)
  rowreq : Nat
  spillsz : Nat
deriving DecidableEq, Repr

/-- An image being read by the loader (R245, R253, R393): for a queue (launch or QLOAD with its report address) or for an
ingress window. -/
structure LoadReq where
  vdr : VdRef
  id : W64
  va : Nat
  queue : Option Nat
  report : Option Nat
  ingress : Bool
deriving DecidableEq, Repr

/-- A load report (R256). -/
structure LoadReport where
  vdr : VdRef
  id : W64
  code : Nat
  section_ : Nat
  blk : Nat
  slot : Nat
  opc : Nat
  off : Nat
deriving DecidableEq, Repr

/-! ## Queues -/

/-- The states of a queue (R216). -/
inductive QState where
  | ready | exec | wait | admitting | run | stopped
deriving DecidableEq, Repr

/-- The phase or word that a queue in ADMIT, RUN, WAIT or EXEC stands on (R216, R386 to R394). -/
inductive QWork where
  | launch (id : W64) (va arg : Nat)
  | copy (src dst len : Nat) (sh : Bool) (pos : Nat) (frozen : Bool) (id : Nat) (gens : List (Nat × Nat))
  | load (id : W64) (va report : Nat)
  | save (qn : Nat)
  | rest (qn : Nat)
  | waitGe (sem : Nat) (v : W64)
  | waitEq (sem : Nat) (v : W64)
  | sig (sem : Nat) (v : W64) (scope : Nat)
  | semOp (sem : Nat)
  | fence (scope : Nat)
  | intr (vec : Nat) (code : Nat)
deriving DecidableEq, Repr

/-- An armed timer of a queue (R391). -/
structure QTimer where
  tid : Nat
  due : Nat
  sem : Nat
deriving DecidableEq, Repr

/-- What Kiln receives when a phase ends (R131, R353, R385): the OR of the raising's FLAGS words, and, of a HALT, its CODE and where it
stands. -/
structure PhaseReport where
  flags : BitVec 8
  code : Option Nat
  bent : Nat
  blk : Nat
  slot : Nat
deriving DecidableEq, Repr

/-- A queue (R215, R216, R219, R238): the sequencer of its package that serves it, QBASE, the program loaded from there, QPTR, state, what it stands on, the semaphore to signal at completion, its
reservations and excess, its timers, and what Kiln received when its last phase ended. -/
structure Queue where
  vdr : VdRef
  q : Nat
  sequencer : Nat
  qbase : Nat
  prog : List W64
  qptr : Nat
  state : QState
  prio : Nat
  work : Option QWork
  sig : Option (Nat × Nat)
  admitAt : Nat
  pendResv : Option Nat
  defResv : Nat
  excess : Nat
  timers : List QTimer
  rid : Option Nat
  resv : Nat
  used : Nat
  endCode : Nat
  report : Option PhaseReport
deriving DecidableEq, Repr

/-- A semaphore operation that waits at a hub (R218). `signal` is the add at the completion of a queue's phase (R386), after which the
queue is READY or, when `stop` is true, STOPPED (R353). -/
inductive SemOp where
  | add (v : W64)
  | signal (v : W64) (stop : Bool)
  | set (v : W64)
  | jnz (dec : Bool) (target : Nat)
deriving DecidableEq, Repr

/-- An operation with the package whose hub performs it, the semaphore of that hub, and the queue that asked (if one did). -/
structure SemReq where
  pkg : Pkg
  n : Nat
  op : SemOp
  vdr : VdRef
  queue : Option Nat
deriving DecidableEq, Repr

/-- A semaphore of a hub that is not 0 (R217). -/
structure SemCell where
  pkg : Pkg
  n : Nat
  val : W64
deriving DecidableEq, Repr

/-! ## Virtual devices and partitions -/

/-- A range of the Auger (R239) and the raising whose WQINI set it, with whose phase it is discarded (R385). -/
structure AugerRange where
  rng : Nat
  rid : Nat
  n : Nat
  wid : Nat
  next : Nat
deriving DecidableEq, Repr

/-- A shadowed buffer (R100, R416). -/
structure ShadowBuf where
  vbase : Nat
  sbase : Nat
  len : Nat
  g : Nat
deriving DecidableEq, Repr

/-- An entry of the interrupt mailbox (R390). -/
structure MailRec where
  part : Nat
  vd : Nat
  queue : Nat
  index : Nat
  code : Nat
deriving DecidableEq, Repr

/-- What an ingress window is bound to (R261): the image, the queue of QSEL, and the raising once one is bound. `rejected`
drops every record up to the next OPEN. -/
structure Binding where
  image : W64
  qsel : Option Nat
  rid : Option Nat
  ended : Bool
  rejected : Bool
  since : Nat
deriving DecidableEq, Repr

/-- An ingress window (R260, R261): the records written and not consumed, in slot order from INGHEAD; TOKEN records that wait. -/
structure Ingress where
  head : Nat
  slots : List (Nat × BitVec 512)
  binding : Option Binding
  waiting : List (BitVec 512)
deriving DecidableEq, Repr

/-- A virtual device (R222, R223) with its registers and its hub-held state. `troot` and `tgen` are per package (R169, R173); `libAt` is where Kiln has put
its library for the loader to read through translation, address and length, none for the firmware image's own (R253). -/
structure Vdev where
  vdr : VdRef
  vdId : W64
  home : Pkg
  ctxBase : Nat
  ctxLim : Nat
  semBase : Nat
  semCount : Nat
  energy : Int
  ealot : Nat
  depcount : W64
  depctl : W64
  depArmed : Bool
  dbgen : Bool
  pinq : Nat
  troot : List (Pkg × Nat)
  tgen : List (Pkg × Nat)
  posted : Nat
  lost : List Nat
  ranges : List AugerRange
  shadows : List ShadowBuf
  images : List Image
  libAt : Option (Nat × Nat)
  mailbox : List MailRec
  ingress : Ingress
  saveBase : Nat
  savedClus : List (Clu × Nat)
deriving DecidableEq, Repr

/-- The phases of a slot (R226, R227): the quantum, the grace window, the guard after the drain, and rounds not started. -/
inductive SlotPhase where
  | idle | quantum | grace | guard | saved
deriving DecidableEq, Repr

/-- The dirty-page log of a partition (R183). -/
structure DirtyLog where
  base : Nat
  size : Nat
  wr : Nat
  rd : Nat
  ovf : Bool
deriving DecidableEq, Repr

/-- What the catch buffer holds (R230): a token for a sealed bent, or a message for one of its units. -/
structure CatchEntry where
  rid : Nat
  dest : Dest
  tok : Token
deriving DecidableEq, Repr

/-- A partition's fault ring in HBM (R187): its first byte on each package, how many records it holds, none until Kiln gives it memory, and how many have
been written. -/
structure FaultRing where
  base : Nat
  cap : Nat
  wr : Nat
deriving DecidableEq, Repr

/-- The tokens that a bent left in its region (R235): its virtual device, the bent, the clusters of the region, and the tokens swept into its spill area
there, with those that have arrived since. -/
structure Stray where
  vdr : VdRef
  br : BentRef
  clusters : List Clu
  toks : List CatchEntry
deriving DecidableEq, Repr

/-- A checkpoint that Kiln takes (R268): where it stands in the Sinter store of each package, the frames it copies, how many bytes of tables stand behind
them, and whether they are copied. -/
structure CheckpointPlan where
  base : Nat
  frames : List (Pkg × Nat)
  tails : List (Pkg × Nat)
  copied : Bool
deriving DecidableEq, Repr

/-- A partition as it stands (R222, R226): the layout applied, its quotas and round, its rings, the tokens left in regions that no bent has taken since,
the sum of its virtual devices' charges (R236), and the checkpoint that Kiln is taking of it. -/
structure Partition where
  lay : PartLayout
  shares : List (Pkg × PartLayout)
  partId : W64
  qtOff : W64
  quota : Nat
  q : Nat
  g : Nat
  w : Nat
  round : Nat
  slot : Nat
  slotStart : Nat
  phase : SlotPhase
  suspended : Bool
  dirty : DirtyLog
  faults : List FaultRec
  ring : FaultRing
  strays : List Stray
  catch_ : List CatchEntry
  txSize : Nat
  charged : Nat
  ckpt : Option CheckpointPlan
deriving DecidableEq, Repr

/-! ## Translation and memory ports -/

/-- The state of a migration record (R182). -/
inductive MigState where
  | pending | active | done
deriving DecidableEq, Repr

/-- A migration record of a memory port (R182): the new frame (home address), the old frame and the line bits. -/
structure MigRec where
  pkg : Pkg
  new_ : Nat
  old : Nat
  state : MigState
  bits : List Bool
deriving DecidableEq, Repr

/-- A page-table sync point that waits (R173). -/
structure SyncPoint where
  pkg : Pkg
  vdr : VdRef
  waits : List Nat
deriving DecidableEq, Repr

/-- The windows of a vent port for a virtual device (R179). -/
structure VentWin where
  pkg : Pkg
  port : Nat
  vdr : VdRef
  wins : List Window
deriving DecidableEq, Repr

/-- A request parked in a package's fault queue (R184): the request and the time of its next KEEP-WAIT. -/
structure ParkRec where
  pkg : Pkg
  req : Nat
  cause : Nat
  next : Nat
  rank : Option Nat
deriving DecidableEq, Repr

/-- The encryption of a 32-byte unit as it was last written (R266): the key it was written under. -/
structure EncUnit where
  unit : Nat
  key : Nat
deriving DecidableEq, Repr

/-- An uncorrectable error standing at a unit (R186): the home address of an aligned 32-byte unit. -/
abbrev EccUnit := Nat

/-! ## Host and platform -/

/-- The thermal condition (R270). -/
inductive Thermal where
  | cool | warm | hot | off
deriving DecidableEq, Repr

/-- The host-visible and management state of one package (R258 to R270). `keys` holds each assigned ENC with its partition and the number of the
key generated for it, `keyEpoch` how many keys have been generated, `boots` the cold resets, `hostRead` what the last host read returned, and
`layoutBusy` whether the last commit was refused, `spdm` what the SPDM responder has answered and `session` the key of its session (R265). -/
structure Platform where
  pkg : Pkg
  ready : Bool
  recovery : Bool
  recfail : Bool
  recstack : Nat
  reclen : Nat
  apbase : Nat
  bar2 : Bool
  kiln : Bool
  flash : List Byte
  running : List Byte
  fusedMin : Nat
  bankA : Layout
  bankB : Layout
  activeB : Bool
  intent : Intent
  applied : Layout
  fenced : List (Nat × Nat)
  fencedClus : List (Nat × Nat)
  failedStacks : List Nat
  sinter : List Nat
  thermal : Thermal
  admitStop : Bool
  power : Bool
  held : Bool
  cxl : Bool
  msix : List Nat
  msixSent : List (Nat × Nat)
  driverIntr : List (VdRef × W64)
  keys : List (Nat × Nat × Nat)
  keyEpoch : Nat
  boots : Nat
  hostRead : List Byte
  layoutBusy : Bool
  faultSeq : W64
  gens : List (Nat × Nat × Nat)
  cycles0 : Nat
  library : List Byte
  spdm : List (Nat × List Byte)
  session : Option (BitVec 128)
deriving DecidableEq, Repr

/-- A service request that TRAP posts to Kiln (R438), or a BRK posted to its debug queue (R315). -/
structure KilnPost where
  br : BentRef
  blk : Nat
  slot : Nat
  tag : Tag
  code : Nat
  pay : W256
  debug : Bool
deriving DecidableEq, Repr

/-- A checkpoint held in the Sinter store (R268): where it stands there on each of its packages, the frames it copied, the bytes of tables behind them, the
presence bits of their words, and the partition's tables; `drained` says that Kiln has drained it to host storage. -/
structure Checkpoint where
  part : Nat
  at_ : Nat
  pkgs : List Pkg
  base : Nat
  frames : List (Pkg × Nat)
  tails : List (Pkg × Nat)
  drained : Bool
  presence : List Nat
  sems : List SemCell
  queues : List Queue
  ranges : List (VdRef × List AugerRange)
  raisings : List Raising
  faults : List FaultRec
  catch_ : List CatchEntry
  dirty : DirtyLog
deriving DecidableEq, Repr

end Sys2Proof.Machine
end

