-- ==== Sys2Proof/Syntax.lean ====
section
/-! DEFINITION. The instructions and events of the machine: one constructor for each row of spec/opcode_table.json. Element
instructions carry the operand fields of their slot word (R273), queue instructions the operand fields of their words (R384),
and events what the environment or the schedule decides about them. An event about one package, one virtual device or one
numbered thing (a partition, raising, request or message) takes it from the latch of the step, as a firing takes its operands. -/

namespace Sys2Proof

open Sys2Proof.Machine

/-- The fields of a slot word other than OPC (R273). -/
structure SlotOps where
  ty : BitVec 4
  mod : BitVec 3
  pr : BitVec 2
  t0 : BitVec 9
  t1 : BitVec 9
  x : BitVec 29
deriving DecidableEq, Repr

/-- A BAR0 register that the host reads (R259, R260, R264, R269): INGHEAD of a window, APBASE, STATUS, or a RAS counter by name and number. -/
inductive HostReg where
  | inghead (v : VdRef)
  | apbase
  | status
  | ras (name : RasName) (idx : Nat)
deriving DecidableEq, Repr

/-- What is asked of the SPDM responder (R265): its certificate, a measurement block with the requester's nonce, or an SM2 key exchange with the peer's
share. -/
inductive SpdmAsk where
  | certificate
  | measurement (block nonce : Nat)
  | exchange (peer : List Byte)
deriving DecidableEq, Repr

/-- A request to the SPDM responder, in a session or not (R265). -/
structure SpdmReq where
  secured : Bool
  ask : SpdmAsk
deriving DecidableEq, Repr

/-- A host access (R258, R259): BAR4 through APBASE, CXL.mem at a physical address, or a BAR0 register; `resume` performs the accesses that wait for a
migrating line (R182). -/
inductive HostAccess where
  | regRead (r : HostReg)
  | barRead (off len : Nat)
  | barWrite (off : Nat) (bytes : List Byte)
  | memRead (pa len : Nat)
  | memWrite (pa : Nat) (bytes : List Byte)
  | setApbase (v : Nat)
  | setReclen (v : Nat)
  | resume
deriving DecidableEq, Repr

/-- What Kiln and the management firmware write (R35, R58, R82, R169, R182, R183, R187, R198, R199, R200, R215, R217, R219, R223, R226,
R228, R237, R238, R253, R254, R268, R271, R272, R315), and Kiln's own stores to memory (R86). -/
inductive KilnReg where
  | quota (part n : Nat)
  | round (part q g w : Nat)
  | roundStart (part : Nat)
  | roundSuspend (part : Nat)
  | vdCreate (v : VdRef) (home : Pkg) (ctxBase ctxLim : Nat)
  | semRange (v : VdRef) (base count : Nat)
  | semReset (p : Pkg) (n : Nat)
  | queueBind (v : VdRef) (q sequencer qbase len : Nat)
  | queuePrio (v : VdRef) (q prio : Nat)
  | queueResv (v : VdRef) (q e : Nat)
  | ealot (v : VdRef) (e : Nat)
  | energy (v : VdRef) (e : Int)
  | depcount (v : VdRef) (n : W64)
  | depctl (v : VdRef) (n : W64)
  | dbgen (v : VdRef) (on : Bool)
  | pinq (v : VdRef) (n : Nat)
  | troot (v : VdRef) (p : Pkg) (pa : Nat)
  | saveBase (v : VdRef) (pa : Nat)
  | watchdog (br : BentRef) (n : Nat)
  | trimth (n out : Node) (vc th : Nat)
  | txSize (part n : Nat)
  | dirtyLog (part base size : Nat)
  | dirtyRead (part rd : Nat)
  | migActive (p : Pkg) (new_ : Nat)
  | migForget (p : Pkg) (new_ : Nat)
  | istClear (p : Pkg) (pa len enc : Nat)
  | faultRing (part base cap : Nat)
  | checkpointPlan (part base : Nat) (frames : List (Pkg × Nat))
  | library (v : VdRef) (at_ : Option (Nat × Nat))
  | tagRange (v : VdRef) (lo hi : Nat)
  | spillcnt (br : BentRef) (n : W64)
  | trimcnt (br : BentRef) (n : W64)
  | refaultcnt (br : BentRef) (n : W64)
  | cycle (br : BentRef) (n : Nat)
  | bentid (br : BentRef) (n : W64)
  | raiseid (rid : Nat) (n : W64)
  | vdid (v : VdRef) (n : W64)
  | partid (part : Nat) (n : W64)
  | qtime (part : Nat) (n : W64)
  | checkpointDrained (part : Nat)
  | store (p : Pkg) (pa : Nat) (bytes : List Byte)
deriving DecidableEq, Repr

/-- The work that Kiln replays (R180): a frozen instruction, a stream element, a copy, a SCAT batch, a QCOPY or a node. -/
inductive WorkRef where
  | instr (br : BentRef) (u : UnitLoc) (blk slot : Nat) (tag : Tag)
  | stream (br : BentRef) (cx cy id j : Nat)
  | copy (br : BentRef) (cX cY id : Nat)
  | batch (br : BentRef) (cx cy id : Nat)
  | qcopy (v : VdRef) (q : Nat)
  | truss (br : BentRef) (cX cY : Nat)
  | elem (br : BentRef) (cx cy : Nat)
deriving DecidableEq, Repr

/-- What MEMORY_ACCESS_AT_HOME performs next: a request at its home, the next unit of a QCOPY (R387), or the read or write of
a member of a group (R211, R369). -/
inductive HomeRef where
  | req (id : Nat)
  | qcopy (v : VdRef) (q : Nat)
  | member (op rank : Nat)
  | sync (idx : Nat)
deriving DecidableEq, Repr

/-- Where an uncorrectable error stands (R186): at a memory unit, or in what an element is about to consume. -/
inductive EccTarget where
  | unit (ga : Nat)
  | elem (br : BentRef) (cx cy : Nat)
  | shared (br : BentRef) (cX cY : Nat) (unit : Nat)
deriving DecidableEq, Repr

/-- One constructor for each row of spec/opcode_table.json. -/
inductive Instr where
  /-- COLD_RESET (R262). -/
  | coldReset (p : Pkg) (bist : BistReport) (flashOk : Bool)
  /-- COMPUTE_DIE_RESET (R21). -/
  | computeDieReset (p : Pkg) (bist : BistReport)
  /-- RECDOOR (R264). -/
  | recdoor (p : Pkg) (bist : BistReport) (flashOk : Bool)
  /-- FIRMWARE_UPDATE (R263). -/
  | firmwareUpdate (p : Pkg) (image : List Byte)
  /-- LAYOUT_COMMIT (R267). -/
  | layoutCommit (p : Pkg) (lay : Layout) (cut : Option Nat)
  /-- THERMAL_95C (R270). -/
  | thermal95c (p : Pkg) (envelopes : List (Nat × Nat))
  /-- POWER_LOSS (R266). -/
  | powerLoss (p : Pkg) (rail : Bool)
  /-- RAS_COUNTER_CLEAR (R269). -/
  | rasCounterClear (p : Pkg) (name : RasName) (idx : Nat) (racing : Bool)
  /-- HOST_MEMORY_ACCESS (R259). -/
  | hostMemoryAccess (p : Pkg) (acc : HostAccess)
  /-- SPDM_REQUEST (R265). -/
  | spdmRequest (p : Pkg) (r : SpdmReq)
  /-- KILN_REGISTER_WRITE (R254). -/
  | kilnRegisterWrite (r : KilnReg)
  /-- PAGE_TABLE_SYNC_POINT (R173). -/
  | pageTableSyncPoint (p : Pkg) (v : VdRef)
  /-- MIGRATION_START (R182). -/
  | migrationStart (p : Pkg) (new_ old : Nat)
  /-- MIGRATION_LINE_PULL (R182). -/
  | migrationLinePull (p : Pkg) (new_ line : Nat)
  /-- KILN_REPLAY (R180). -/
  | kilnReplay (w : WorkRef)
  /-- KILN_RESUME_SPILL (R38). -/
  | kilnResumeSpill (br : BentRef) (size : Nat)
  /-- TRAP_REPLY (R438). -/
  | trapReply (req : Nat) (pay : W256)
  /-- REMOTE_FAULT_REPAIR (R184). -/
  | remoteFaultRepair (p : Pkg) (idx : Nat) (repaired : Bool)
  /-- IMAGE_LOAD (R246). -/
  | imageLoad (v : VdRef) (kilnReads : Bool)
  /-- CLUSTER_IMAGE_SAVE_DONE (R231). -/
  | clusterImageSaveDone (part : Nat) (c : Clu)
  /-- CLUSTER_RESTORE (R232). -/
  | clusterRestore (part : Nat) (moves : List (BentRef × Origin))
  /-- TOKEN_ARRIVAL (R449). -/
  | tokenArrival (br : BentRef) (u : UnitLoc)
  /-- SPILL_REINJECT (R37). -/
  | spillReinject (br : BentRef) (idx : Nat)
  /-- GATE_RELEASE (R349). -/
  | gateRelease (br : BentRef) (cx cy : Nat) (blk slot ctx : Nat)
  /-- ACTIVATION_COMMIT (R97). -/
  | activationCommit (br : BentRef) (tl : Nat)
  /-- ABORT_REDELIVER (R454). -/
  | abortRedeliver (br : BentRef) (tl : Nat)
  /-- BLOCK_STALL (R58). -/
  | blockStall (br : BentRef) (idx : Nat)
  /-- JOINTER_LANE_RESULT (R145). -/
  | jointerLaneResult (br : BentRef) (cX cY : Nat)
  /-- ECC_UNCORRECTABLE (R186). -/
  | eccUncorrectable (t : EccTarget)
  /-- MEMORY_ACCESS_AT_HOME (R88). -/
  | memoryAccessAtHome (w : HomeRef)
  /-- RING_FREED_SLOT_NOTICE (R68). -/
  | ringFreedSlotNotice (br : BentRef) (cX cY : Nat) (k : Nat)
  /-- RING_SLOT_FULL (R67). -/
  | ringSlotFull (br : BentRef) (cX cY : Nat) (k : Nat)
  /-- TRUSS_FIRING_BEGIN (R158). -/
  | trussFiringBegin (br : BentRef) (cX cY : Nat)
  /-- TRUSS_FIRING_RETIRE (R158). -/
  | trussFiringRetire (br : BentRef) (cX cY : Nat)
  /-- LAHAR_TILE_START (R323). -/
  | laharTileStart (br : BentRef) (cX cY : Nat) (id : Nat)
  /-- COPY_COMPLETE (R323). -/
  | copyComplete (br : BentRef) (cX cY : Nat) (id : Nat)
  /-- SCAT_BATCH_APPLY (R78). -/
  | scatBatchApply (br : BentRef) (cx cy : Nat) (id : Nat)
  /-- STREAM_ELEMENT (R75). -/
  | streamElement (br : BentRef) (cx cy : Nat) (id j : Nat)
  /-- QUEUE_TIMER_EXPIRY (R391). -/
  | queueTimerExpiry (v : VdRef) (q tid : Nat)
  /-- STSNK_UPDATE (R136). -/
  | stsnkUpdate (br : BentRef) (cx cy : Nat) (blk slot : Nat)
  /-- FLIT_HOP (R195). -/
  | flitHop (n out : Node)
  /-- TRIMMED_HEADER_ARRIVAL (R201). -/
  | trimmedHeaderArrival (p : Pkg) (die : Nat)
  /-- REREQ_TIMER (R201). -/
  | rereqTimer (p : Pkg) (die idx : Nat)
  /-- REREQ_ARRIVAL (R202). -/
  | rereqArrival (p : Pkg) (die : Nat)
  /-- ORDERED_MESSAGE_DELIVERY (R204). -/
  | orderedMessageDelivery (p : Pkg) (die idx : Nat)
  /-- SACK_ARRIVAL (R198). -/
  | sackArrival (p : Pkg) (die : Nat)
  /-- REQUEST_DEDUP (R205). -/
  | requestDedup (p : Pkg) (die : Nat)
  /-- KEEP_WAIT_TIMER (R184). -/
  | keepWaitTimer (p : Pkg) (idx : Nat)
  /-- MEMBER_ABSENT_TIMEOUT (R213). -/
  | memberAbsentTimeout (op rank : Nat)
  /-- GROUP_INSTALL_ACK (R210). -/
  | groupInstallAck (req : Nat) (n : Node)
  /-- LINK_CRC_RETRY (R186). -/
  | linkCrcRetry (n out : Node) (idx : Nat)
  /-- ADD (R304). -/
  | add (o : SlotOps)
  /-- SUB (R404). -/
  | sub (o : SlotOps)
  /-- MUL (R364). -/
  | mul (o : SlotOps)
  /-- MULH (R364). -/
  | mulh (o : SlotOps)
  /-- MAD (R365). -/
  | mad (o : SlotOps)
  /-- DIV (R304). -/
  | div (o : SlotOps)
  /-- REM (R404). -/
  | rem (o : SlotOps)
  /-- NEG (R364). -/
  | neg (o : SlotOps)
  /-- ABS (R304). -/
  | abs (o : SlotOps)
  /-- MIN (R364). -/
  | min (o : SlotOps)
  /-- MAX (R364). -/
  | max (o : SlotOps)
  /-- AND (R304). -/
  | and (o : SlotOps)
  /-- OR (R364). -/
  | or (o : SlotOps)
  /-- XOR (R447). -/
  | xor (o : SlotOps)
  /-- ANDN (R304). -/
  | andn (o : SlotOps)
  /-- SHL (R404). -/
  | shl (o : SlotOps)
  /-- SHR (R404). -/
  | shr (o : SlotOps)
  /-- SAR (R404). -/
  | sar (o : SlotOps)
  /-- ROT (R404). -/
  | rot (o : SlotOps)
  /-- CLZ (R304). -/
  | clz (o : SlotOps)
  /-- POPC (R364). -/
  | popc (o : SlotOps)
  /-- SEXT (R404). -/
  | sext (o : SlotOps)
  /-- ZEXT (R447). -/
  | zext (o : SlotOps)
  /-- ADDS (R304). -/
  | adds (o : SlotOps)
  /-- SUBS (R404). -/
  | subs (o : SlotOps)
  /-- CMP (R306). -/
  | cmp (o : SlotOps)
  /-- SEL (R405). -/
  | sel (o : SlotOps)
  /-- MOV (R366). -/
  | mov (o : SlotOps)
  /-- MOVI (R366). -/
  | movi (o : SlotOps)
  /-- LEA (R363). -/
  | lea (o : SlotOps)
  /-- FADD (R339). -/
  | fadd (o : SlotOps)
  /-- FSUB (R339). -/
  | fsub (o : SlotOps)
  /-- FMUL (R339). -/
  | fmul (o : SlotOps)
  /-- FFMA (R340). -/
  | ffma (o : SlotOps)
  /-- FDIV (R339). -/
  | fdiv (o : SlotOps)
  /-- FSQRT (R339). -/
  | fsqrt (o : SlotOps)
  /-- FMIN (R339). -/
  | fmin (o : SlotOps)
  /-- FMAX (R339). -/
  | fmax (o : SlotOps)
  /-- FABS (R339). -/
  | fabs (o : SlotOps)
  /-- FNEG (R339). -/
  | fneg (o : SlotOps)
  /-- FCMP (R341). -/
  | fcmp (o : SlotOps)
  /-- FCLAS (R342). -/
  | fclas (o : SlotOps)
  /-- CVT (R329). -/
  | cvt (o : SlotOps)
  /-- FRND (R343). -/
  | frnd (o : SlotOps)
  /-- FSCL (R344). -/
  | fscl (o : SlotOps)
  /-- EXP (R334). -/
  | exp (o : SlotOps)
  /-- EXP2 (R334). -/
  | exp2 (o : SlotOps)
  /-- EXPM1 (R334). -/
  | expm1 (o : SlotOps)
  /-- LOG (R334). -/
  | log (o : SlotOps)
  /-- LOG2 (R334). -/
  | log2 (o : SlotOps)
  /-- LOG1P (R334). -/
  | log1p (o : SlotOps)
  /-- SIN (R410). -/
  | sin (o : SlotOps)
  /-- COS (R308). -/
  | cos (o : SlotOps)
  /-- SINPI (R410). -/
  | sinpi (o : SlotOps)
  /-- COSPI (R308). -/
  | cospi (o : SlotOps)
  /-- TANH (R431). -/
  | tanh (o : SlotOps)
  /-- ATAN (R308). -/
  | atan (o : SlotOps)
  /-- ERF (R334). -/
  | erf (o : SlotOps)
  /-- SIGM (R410). -/
  | sigm (o : SlotOps)
  /-- RSQRT (R410). -/
  | rsqrt (o : SlotOps)
  /-- POW (R379). -/
  | pow (o : SlotOps)
  /-- EXPA (R338). -/
  | expa (o : SlotOps)
  /-- EXP2A (R338). -/
  | exp2a (o : SlotOps)
  /-- LOGA (R338). -/
  | loga (o : SlotOps)
  /-- LOG2A (R338). -/
  | log2a (o : SlotOps)
  /-- SINA (R399). -/
  | sina (o : SlotOps)
  /-- COSA (R308). -/
  | cosa (o : SlotOps)
  /-- TANHA (R431). -/
  | tanha (o : SlotOps)
  /-- SIGMA (R399). -/
  | sigma (o : SlotOps)
  /-- RCPA (R399). -/
  | rcpa (o : SlotOps)
  /-- RSQA (R399). -/
  | rsqa (o : SlotOps)
  /-- SHUF (R417). -/
  | shuf (o : SlotOps)
  /-- BCST (R314). -/
  | bcst (o : SlotOps)
  /-- REDL (R403). -/
  | redl (o : SlotOps)
  /-- SCAN (R403). -/
  | scan (o : SlotOps)
  /-- PACK (R378). -/
  | pack (o : SlotOps)
  /-- UNPK (R440). -/
  | unpk (o : SlotOps)
  /-- STEER (R424). -/
  | steer (o : SlotOps)
  /-- MERGE (R371). -/
  | merge (o : SlotOps)
  /-- GATE (R349). -/
  | gate (o : SlotOps)
  /-- NULL (R376). -/
  | null (o : SlotOps)
  /-- TAGI_CTX (R32). -/
  | tagiCtx (o : SlotOps)
  /-- TAGI_NXT (R32). -/
  | tagiNxt (o : SlotOps)
  /-- TAGX (R32). -/
  | tagx (o : SlotOps)
  /-- TAGX_FIN (R429). -/
  | tagxFin (o : SlotOps)
  /-- CONTEXT_RETURN (R429). -/
  | contextReturn (br : BentRef) (ctx : Nat)
  /-- KBND_ADMIT (R34). -/
  | kbndAdmit (o : SlotOps)
  /-- KBND_RETIRE (R34). -/
  | kbndRetire (o : SlotOps)
  /-- JOIN (R356). -/
  | join (o : SlotOps)
  /-- DROP (R331). -/
  | drop (o : SlotOps)
  /-- CTR (R327). -/
  | ctr (o : SlotOps)
  /-- EXIT (R336). -/
  | exit (o : SlotOps)
  /-- REORD (R406). -/
  | reord (o : SlotOps)
  /-- READ (R45). -/
  | read (o : SlotOps)
  /-- WRITE (R444). -/
  | write (o : SlotOps)
  /-- LD (R360). -/
  | ld (o : SlotOps)
  /-- ST (R421). -/
  | st (o : SlotOps)
  /-- LDI (R362). -/
  | ldi (o : SlotOps)
  /-- STI (R425). -/
  | sti (o : SlotOps)
  /-- STI_CLR (R83). -/
  | stiClr (o : SlotOps)
  /-- ATOM_ADD (R310). -/
  | atomAdd (o : SlotOps)
  /-- ATOM_OR (R310). -/
  | atomOr (o : SlotOps)
  /-- ATOM_SWAP (R310). -/
  | atomSwap (o : SlotOps)
  /-- ATOM_CAS (R310). -/
  | atomCas (o : SlotOps)
  /-- XLATE (R175). -/
  | xlate (o : SlotOps)
  /-- PWIN (R177). -/
  | pwin (o : SlotOps)
  /-- SRD (R418). -/
  | srd (o : SlotOps)
  /-- SWR (R427). -/
  | swr (o : SlotOps)
  /-- GATH (R351). -/
  | gath (o : SlotOps)
  /-- SCAT (R412). -/
  | scat (o : SlotOps)
  /-- CSRD (R326). -/
  | csrd (o : SlotOps)
  /-- FENCE (R347). -/
  | fence (o : SlotOps)
  /-- PUBL (R381). -/
  | publ (o : SlotOps)
  /-- SHDW (R416). -/
  | shdw (o : SlotOps)
  /-- SHDW_REL (R416). -/
  | shdwRel (o : SlotOps)
  /-- CMB (R54). -/
  | cmb (o : SlotOps)
  /-- MMA (R154). -/
  | mma (o : SlotOps)
  /-- MMAM (R375). -/
  | mmam (o : SlotOps)
  /-- SCOUT (R413). -/
  | scout (o : SlotOps)
  /-- SCRB (R164). -/
  | scrb (o : SlotOps)
  /-- RING (R408). -/
  | ring (o : SlotOps)
  /-- RROT (R70). -/
  | rrot (o : SlotOps)
  /-- TCVT_RING (R435). -/
  | tcvtRing (o : SlotOps)
  /-- TCVT_MEM (R437). -/
  | tcvtMem (o : SlotOps)
  /-- TRED (R435). -/
  | tred (o : SlotOps)
  /-- TFN (R435). -/
  | tfn (o : SlotOps)
  /-- TTRN (R435). -/
  | ttrn (o : SlotOps)
  /-- CPY (R323). -/
  | cpy (o : SlotOps)
  /-- CPYS (R324). -/
  | cpys (o : SlotOps)
  /-- RLD (R396). -/
  | rld (o : SlotOps)
  /-- RST (R396). -/
  | rst (o : SlotOps)
  /-- RSTP (R396). -/
  | rstp (o : SlotOps)
  /-- RATM_ADD (R396). -/
  | ratmAdd (o : SlotOps)
  /-- RATM_OR (R396). -/
  | ratmOr (o : SlotOps)
  /-- RATM_SWAP (R396). -/
  | ratmSwap (o : SlotOps)
  /-- RATM_CAS (R396). -/
  | ratmCas (o : SlotOps)
  /-- MCRED (R211). -/
  | mcred (o : SlotOps)
  /-- MCST (R369). -/
  | mcst (o : SlotOps)
  /-- AGRP (R210). -/
  | agrp (o : SlotOps)
  /-- WQINI (R442). -/
  | wqini (o : SlotOps)
  /-- WQNX (R443). -/
  | wqnx (o : SlotOps)
  /-- STAD (R422). -/
  | stad (o : SlotOps)
  /-- STSNK (R423). -/
  | stsnk (o : SlotOps)
  /-- TRAP (R438). -/
  | trap (o : SlotOps)
  /-- BRK (R315). -/
  | brk (o : SlotOps)
  /-- MFS (R373). -/
  | mfs (o : SlotOps)
  /-- MTS (R374). -/
  | mts (o : SlotOps)
  /-- YIELD (R448). -/
  | yield (o : SlotOps)
  /-- HALT (R352). -/
  | halt (o : SlotOps)
  /-- CLFLG (R317). -/
  | clflg (o : SlotOps)
  /-- RDTIM (R400). -/
  | rdtim (o : SlotOps)
  /-- ENRG (R332). -/
  | enrg (o : SlotOps)
  /-- XLD (R446). -/
  | xld (o : SlotOps)
  /-- BARW (R313). -/
  | barw (o : SlotOps)
  /-- FEXPL (R345). -/
  | fexpl (o : SlotOps)
  /-- RSTO (R398). -/
  | rsto (o : SlotOps)
  /-- QNOP (R389). -/
  | qnop
  /-- QLNCH (R386). -/
  | qlnch (sem : BitVec 10) (sg : Bool) (addv : BitVec 32) (img : BitVec 64) (va arg : BitVec 55)
  /-- QCOPY (R387). -/
  | qcopy (sem : BitVec 10) (sg sh : Bool) (addv : BitVec 32) (src dst : BitVec 55) (len : BitVec 40)
  /-- QWGE (R388). -/
  | qwge (sem : BitVec 10) (val : BitVec 64)
  /-- QWEQ (R388). -/
  | qweq (sem : BitVec 10) (val : BitVec 64)
  /-- QSIG (R388). -/
  | qsig (sem : BitVec 10) (scope : BitVec 4) (val : BitVec 64)
  /-- QSET (R388). -/
  | qset (sem : BitVec 10) (val : BitVec 64)
  /-- QINTR (R390). -/
  | qintr (vec : BitVec 11) (code : BitVec 32)
  /-- QJMP (R389). -/
  | qjmp (target : BitVec 16)
  /-- QJNZ (R388). -/
  | qjnz (sem : BitVec 10) (dec : Bool) (target : BitVec 16)
  /-- QFNC (R389). -/
  | qfnc (scope : BitVec 4)
  /-- QLOAD (R393). -/
  | qload (sem : BitVec 10) (sg : Bool) (addv : BitVec 32) (img : BitVec 64) (va report : BitVec 55)
  /-- QEND (R389). -/
  | qend (code : BitVec 32)
  /-- QTMR (R391). -/
  | qtmr (sem : BitVec 10) (tid : BitVec 3) (delay : BitVec 40)
  /-- QENG (R392). -/
  | qeng (e : BitVec 48)
  /-- QSAVE (R394). -/
  | qsave (sem : BitVec 10) (sg : Bool) (qn : BitVec 6) (addv : BitVec 32)
  /-- QREST (R394). -/
  | qrest (sem : BitVec 10) (sg : Bool) (qn : BitVec 6) (addv : BitVec 32)
  /-- KILN_QUEUE_START (R216). -/
  | kilnQueueStart (v : VdRef) (q : Nat)
  /-- KILN_QUEUE_STOP (R216). -/
  | kilnQueueStop (v : VdRef) (q : Nat)
  /-- INGRESS_RECORD_WRITE (R260). -/
  | ingressRecordWrite (p : Pkg) (off : Nat) (record : BitVec 512)
  /-- JOINTER_LANE_ENTRY (R145). -/
  | jointerLaneEntry (br : BentRef) (cX cY : Nat)
  /-- REORD_RELEASE (R406). -/
  | reordRelease (br : BentRef) (cx cy : Nat) (blk slot ctx : Nat)
  /-- LINK_DOWN (R208). -/
  | linkDown (p : Pkg) (e : Edge) (half : Nat)
  /-- MSIX_VECTOR_ENABLE (R258). -/
  | msixVectorEnable (p : Pkg) (vec : Nat) (on : Bool)
  /-- TEMPERATURE_FALL (R270). -/
  | temperatureFall (p : Pkg) (envelopes : List (Nat × Nat))
  /-- ECC_CORRECTED (R186). -/
  | eccCorrected (p : Pkg) (idx : Nat)
  /-- MP_WATCHDOG_RESET (R267). -/
  | mpWatchdogReset
  /-- THERMAL_105C (R270). -/
  | thermal105c
  /-- THERMAL_115C (R270). -/
  | thermal115c
  /-- HUB_RESET (R266). -/
  | hubReset
  /-- PARTITION_TEARDOWN (R108). -/
  | partitionTeardown
  /-- VIRTUAL_DEVICE_TEARDOWN (R241). -/
  | virtualDeviceTeardown
  /-- INGRESS_OPEN (R261). -/
  | ingressOpen
  /-- INGRESS_TOKEN (R261). -/
  | ingressToken
  /-- INGRESS_TOKEN_INJECT (R261). -/
  | ingressTokenInject
  /-- KILN_END_RAISING (R385). -/
  | kilnEndRaising
  /-- BRK_RESUME (R315). -/
  | brkResume
  /-- CHECKPOINT (R268). -/
  | checkpoint
  /-- LAUNCH_ADMIT (R238). -/
  | launchAdmit
  /-- PHASE_COMPLETE (R385). -/
  | phaseComplete
  /-- QUANTUM_END (R227). -/
  | quantumEnd
  /-- GRACE_WINDOW_END (R227). -/
  | graceWindowEnd
  /-- SLOT_START (R227). -/
  | slotStart
  /-- WALK (R172). -/
  | walk
  /-- DIRTY_LOGGER_SET (R183). -/
  | dirtyLoggerSet
  /-- MEMORY_REPLY (R93). -/
  | memoryReply
  /-- AUGER_SERVE (R240). -/
  | augerServe
  /-- AUGER_RANGE_SET (R239). -/
  | augerRangeSet
  /-- SEMAPHORE_OPERATION (R218). -/
  | semaphoreOperation
  /-- HUB_HALT (R353). -/
  | hubHalt
  /-- SACK_SEND (R204). -/
  | sackSend
  /-- ERROR_ARRIVAL (R207). -/
  | errorArrival
  /-- REMOTE_FAULT_PARK (R184). -/
  | remoteFaultPark
  /-- KEEP_WAIT_ARRIVAL (R208). -/
  | keepWaitArrival
  /-- BUSY_RESEND (R184). -/
  | busyResend
  /-- REMOTE_TIMEOUT (R185). -/
  | remoteTimeout
  /-- MULTICAST_FORWARD (R209). -/
  | multicastForward
  /-- MCUP_COMBINE (R212). -/
  | mcupCombine
  /-- MCUP_SLOT_TIMEOUT (R212). -/
  | mcupSlotTimeout
  /-- INTERRUPT_MAILBOX_DRAIN (R390). -/
  | interruptMailboxDrain
  /-- CXL_ENABLE (R258). -/
  | cxlEnable
  /-- FABRIC_RESET (R266). -/
  | fabricReset
  /-- BOOT_CONFIRM (R263). -/
  | bootConfirm
deriving DecidableEq, Repr

end Sys2Proof
end

