-- ==== Sys2Proof/WellFormed.lean ====
section
/-! DEFINITION. The loader's checks that a slot word alone decides, each with the LOAD_ code of R256, and the forms that MOD and
X give an instruction. -/

namespace Sys2Proof

/-- LOAD_MASK (R256). -/
def loadMask : Nat := 0x080A
/-- LOAD_OPERAND (R256). -/
def loadOperand : Nat := 0x080B

/-- The field of X of a given width that starts at a given bit. -/
def SlotOps.xf (o : SlotOps) (lo width : Nat) : Nat := o.x.toNat / 2 ^ lo % 2 ^ width

/-- The target code none (R276). -/
def noTarget : BitVec 9 := 0x1FF

/-- A target code that a block image may hold (R276): a port of a slot, a fan list, or none. -/
def targetOk (t : BitVec 9) : Bool :=
  t.toNat < 0x180 || t.toNat < 0x190 || t == noTarget

/-- The operation and type pairs of CMB, REDL's sibling TRED and SCAN that are not rejected (R318, R433). -/
def combineOk (op ty : Nat) : Bool :=
  if op ≤ 5 then ty < 8
  else if op ≤ 8 then ty == 8 || ty == 9 || ty == 0xA || ty == 0xB
  else false

/-- The lane count of a vector token (R278). -/
def laneCount (ty : Nat) : Nat :=
  match ty with
  | 0 => 32 | 1 => 32 | 2 => 16 | 3 => 16 | 4 => 8 | 5 => 8 | 6 => 4 | 7 => 4
  | 8 => 4 | 9 => 8 | 0xA => 16 | 0xB => 16 | 0xC => 32 | 0xD => 32 | _ => 64

/-- The check of the targets of a slot (R276). -/
def checkTargets (o : SlotOps) : Option Nat :=
  if targetOk o.t0 && targetOk o.t1 then none else some loadOperand

/-- LSID outside an ST (R281). -/
def checkLsid (o : SlotOps) : Option Nat := if o.xf 24 5 == 0 then none else some loadMask

/-- LOAD_OPERAND unless a condition holds. -/
def checkThat (b : Bool) : Option Nat := if b then none else some loadOperand

/-- MMA and MMAM: rings distinct, and RI zero without IE (R153). -/
def checkMma (o : SlotOps) : Option Nat :=
  let ra := o.xf 24 5; let rb := o.xf 19 5; let rc := o.xf 14 5; let ri := o.xf 9 5
  checkThat (ra != rb && ra != rc && rb != rc &&
    (if o.x.getLsbD 8 then ri != ra && ri != rb && ri != rc else ri == 0))

/-- The word-local checks of the instructions whose rings are RA and RC (R432, R433): `used` is the mask of the X bits that the
form uses beyond the rings. -/
def checkRow (o : SlotOps) (used : Nat) : Bool :=
  o.xf 24 5 != o.xf 19 5 && (o.x.toNat % 2 ^ 19) &&& used == o.x.toNat % 2 ^ 19

/-- TCVT (R432, R433). -/
def checkTcvt (o : SlotOps) : Option Nat :=
  let dm := o.x.getLsbD 18
  checkThat (8 ≤ o.ty.toNat && (!o.x.getLsbD 16 || 0xC ≤ o.ty.toNat) && o.xf 10 6 == 0 &&
    (if dm then o.xf 19 5 == 0 else o.xf 0 10 == 0 && o.xf 24 5 != o.xf 19 5))

/-- The rejections that an instruction's own word decides, the first of them by LOAD_ code. Each cites its entry. -/
def ownCheck : Instr → Option Nat
  | .cmp o => checkThat (o.xf 0 3 ≤ 5)                                       -- R306
  | .fcmp o => checkThat (!o.x.getLsbD 3)                                    -- R341
  | .cvt o => checkThat (!(o.x.getLsbD 5 && 0xE ≤ o.xf 0 4))                 -- R328
  | .bcst o => checkThat (o.xf 0 6 < laneCount (if 0xE ≤ o.ty.toNat then 1 else o.ty.toNat))   -- R314
  | .redl o => checkThat (o.xf 0 4 ≤ 8 && (if o.xf 0 4 ≤ 5 then o.ty.toNat < 8 || 0xE ≤ o.ty.toNat
      else 8 ≤ o.ty.toNat && o.ty.toNat ≤ 0xD))                              -- R402
  | .scan o => checkThat (o.xf 0 4 ≤ 8 && (if o.xf 0 4 ≤ 5 then o.ty.toNat < 8 || 0xE ≤ o.ty.toNat
      else 8 ≤ o.ty.toNat && o.ty.toNat ≤ 0xD) && !(o.x.getLsbD 4 && 7 ≤ o.xf 0 4))            -- R402
  | .pack o => checkThat ((o.ty.toNat < 6 || 0xE ≤ o.ty.toNat) && !(o.mod.getLsbD 0 && 0xE ≤ o.ty.toNat))   -- R377
  | .unpk o => checkThat (o.ty.toNat < 6 || 0xE ≤ o.ty.toNat)                -- R440
  | .kbndAdmit o => checkThat (1 ≤ o.xf 0 9 && o.xf 0 9 ≤ 256)               -- R34
  | .kbndRetire o => checkThat (1 ≤ o.xf 0 9 && o.xf 0 9 ≤ 256)              -- R34
  | .drop o => checkThat (o.t0 == noTarget && o.t1 == noTarget)              -- R331
  | .exit o => checkThat (o.xf 0 12 != 0xFFF)                                -- R40
  | .halt o => checkThat (o.t0 == noTarget && o.t1 == noTarget)              -- R352
  | .ld o => checkLsid o                                                     -- R281, R359
  | .xld o => checkLsid o                                                    -- R446
  | .ldi o => checkLsid o                                                    -- R361
  | .sti o => checkLsid o                                                    -- R425
  | .stiClr o => checkLsid o                                                 -- R425
  | .atomAdd o => checkLsid o                                                -- R309
  | .atomOr o => checkLsid o                                                 -- R309
  | .atomSwap o => checkLsid o                                               -- R309
  | .atomCas o => checkLsid o                                                -- R309
  | .xlate o => checkThat (!o.mod.getLsbD 0)                                 -- R174
  | .srd o => checkLsid o                                                    -- R418
  | .swr o => checkLsid o                                                    -- R426
  | .gath o => checkLsid o                                                   -- R350
  | .scat o => checkLsid o                                                   -- R411
  | .csrd o => checkLsid o                                                   -- R326
  | .fence o => checkLsid o                                                  -- R346
  | .publ o => checkLsid o                                                   -- R380
  | .shdw o => checkLsid o                                                   -- R415
  | .shdwRel o => checkLsid o                                                -- R415
  | .cmb o => checkThat (combineOk (o.xf 16 4) o.ty.toNat && o.xf 12 3 ≤ 6 &&
      (!o.x.getLsbD 15 || o.xf 16 4 == 6) &&
      (!(o.xf 16 4 == 6 && !o.x.getLsbD 15) || (o.xf 12 3 ≤ 3 && o.xf 0 6 ≤ 7)))              -- R54, R318
  | .mma o => checkMma o                                                     -- R153
  | .mmam o => checkMma o                                                    -- R166
  | .scout o => checkThat (o.xf 15 3 ≤ 6 && o.xf 24 5 != o.xf 19 5)          -- R160, R413
  | .scrb o => checkThat (o.pr == 0 && o.mod.toNat ≤ 2 && o.xf 25 4 ≤ 8 && o.xf 17 8 + 1 ≤ 2 ^ o.xf 25 4)   -- R163, R414
  | .rrot o => checkThat (o.xf 0 9 + (o.xf 9 9 + 1) ≤ 512)                   -- R409
  | .tcvtRing o => checkTcvt o                                               -- R432, R433
  | .tcvtMem o => checkTcvt o                                                -- R432, R433
  | .tfn o => checkThat (checkRow o (0xF * 2 ^ 14) && 8 ≤ o.ty.toNat && o.ty.toNat ≤ 0xD && o.xf 14 4 != 0xF)   -- R433
  | .tred o => checkThat (checkRow o (0x1F * 2 ^ 13) && combineOk (o.xf 14 4) o.ty.toNat)     -- R433
  | .ttrn o => checkThat (checkRow o 0 && o.ty.toNat < 0xE)                  -- R433
  | .cpy o => checkThat (!(o.x.getLsbD 19 && o.x.getLsbD 17) && (o.x.getLsbD 19 || o.xf 24 5 == 0))            -- R322
  | .cpys o => checkThat (!o.x.getLsbD 19 && !o.x.getLsbD 18 && o.xf 24 5 == 0)               -- R322
  | .rstp o => checkThat (!o.x.getLsbD 24)                                   -- R395
  | .mcred o => checkThat (o.xf 8 4 ≤ 6 && (if o.xf 8 4 == 0 then o.ty.toNat == 8 || o.ty.toNat == 9 || o.ty.toNat == 0xA
      else 4 ≤ o.ty.toNat && o.ty.toNat ≤ 7))                                -- R211
  | .stad o => checkThat ((o.pr == 0 || o.pr == 3) && o.t1 == noTarget)      -- R422, R453
  | .stsnk o => checkThat ((o.pr == 0 || o.pr == 3) && o.t0 == noTarget && o.t1 == noTarget)  -- R423, R453
  | _ => none

/-- The form of an instruction agrees with the MOD or X bits that tell the forms of its OPC apart (R32, R83, R309, R395, R415,
R432), and an add without SG is 0 (R383). -/
def formOk : Instr → Bool
  | .tagiCtx o => o.mod != 1
  | .tagiNxt o => o.mod == 1
  | .tagx o => o.mod != 1
  | .tagxFin o => o.mod == 1
  | .sti o => !o.mod.getLsbD 1
  | .stiClr o => o.mod.getLsbD 1
  | .atomAdd o => !o.mod.getLsbD 2 && !o.mod.getLsbD 1
  | .atomOr o => !o.mod.getLsbD 2 && o.mod.getLsbD 1
  | .atomSwap o => o.mod.getLsbD 2 && !o.mod.getLsbD 1
  | .atomCas o => o.mod.getLsbD 2 && o.mod.getLsbD 1
  | .ratmAdd o => !o.mod.getLsbD 2 && !o.mod.getLsbD 1
  | .ratmOr o => !o.mod.getLsbD 2 && o.mod.getLsbD 1
  | .ratmSwap o => o.mod.getLsbD 2 && !o.mod.getLsbD 1
  | .ratmCas o => o.mod.getLsbD 2 && o.mod.getLsbD 1
  | .shdw o => !o.mod.getLsbD 0
  | .shdwRel o => o.mod.getLsbD 0
  | .tcvtRing o => !o.x.getLsbD 18
  | .tcvtMem o => o.x.getLsbD 18
  | .qlnch _ sg addv _ _ _ => sg || addv == 0
  | .qcopy _ sg _ addv _ _ _ => sg || addv == 0
  | .qload _ sg addv _ _ _ => sg || addv == 0
  | .qsave _ sg _ addv => sg || addv == 0
  | .qrest _ sg _ addv => sg || addv == 0
  | _ => true

/-- The fields of an element instruction's slot word; none for queue words and events. -/
def Instr.ops? : Instr → Option SlotOps
  | .add o => some o
  | .sub o => some o
  | .mul o => some o
  | .mulh o => some o
  | .mad o => some o
  | .div o => some o
  | .rem o => some o
  | .neg o => some o
  | .abs o => some o
  | .min o => some o
  | .max o => some o
  | .and o => some o
  | .or o => some o
  | .xor o => some o
  | .andn o => some o
  | .shl o => some o
  | .shr o => some o
  | .sar o => some o
  | .rot o => some o
  | .clz o => some o
  | .popc o => some o
  | .sext o => some o
  | .zext o => some o
  | .adds o => some o
  | .subs o => some o
  | .cmp o => some o
  | .sel o => some o
  | .mov o => some o
  | .movi o => some o
  | .lea o => some o
  | .fadd o => some o
  | .fsub o => some o
  | .fmul o => some o
  | .ffma o => some o
  | .fdiv o => some o
  | .fsqrt o => some o
  | .fmin o => some o
  | .fmax o => some o
  | .fabs o => some o
  | .fneg o => some o
  | .fcmp o => some o
  | .fclas o => some o
  | .cvt o => some o
  | .frnd o => some o
  | .fscl o => some o
  | .exp o => some o
  | .exp2 o => some o
  | .expm1 o => some o
  | .log o => some o
  | .log2 o => some o
  | .log1p o => some o
  | .sin o => some o
  | .cos o => some o
  | .sinpi o => some o
  | .cospi o => some o
  | .tanh o => some o
  | .atan o => some o
  | .erf o => some o
  | .sigm o => some o
  | .rsqrt o => some o
  | .pow o => some o
  | .expa o => some o
  | .exp2a o => some o
  | .loga o => some o
  | .log2a o => some o
  | .sina o => some o
  | .cosa o => some o
  | .tanha o => some o
  | .sigma o => some o
  | .rcpa o => some o
  | .rsqa o => some o
  | .shuf o => some o
  | .bcst o => some o
  | .redl o => some o
  | .scan o => some o
  | .pack o => some o
  | .unpk o => some o
  | .steer o => some o
  | .merge o => some o
  | .gate o => some o
  | .null o => some o
  | .tagiCtx o => some o
  | .tagiNxt o => some o
  | .tagx o => some o
  | .tagxFin o => some o
  | .kbndAdmit o => some o
  | .kbndRetire o => some o
  | .join o => some o
  | .drop o => some o
  | .ctr o => some o
  | .exit o => some o
  | .reord o => some o
  | .read o => some o
  | .write o => some o
  | .ld o => some o
  | .st o => some o
  | .ldi o => some o
  | .sti o => some o
  | .stiClr o => some o
  | .atomAdd o => some o
  | .atomOr o => some o
  | .atomSwap o => some o
  | .atomCas o => some o
  | .xlate o => some o
  | .pwin o => some o
  | .srd o => some o
  | .swr o => some o
  | .gath o => some o
  | .scat o => some o
  | .csrd o => some o
  | .fence o => some o
  | .publ o => some o
  | .shdw o => some o
  | .shdwRel o => some o
  | .cmb o => some o
  | .mma o => some o
  | .mmam o => some o
  | .scout o => some o
  | .scrb o => some o
  | .ring o => some o
  | .rrot o => some o
  | .tcvtRing o => some o
  | .tcvtMem o => some o
  | .tred o => some o
  | .tfn o => some o
  | .ttrn o => some o
  | .cpy o => some o
  | .cpys o => some o
  | .rld o => some o
  | .rst o => some o
  | .rstp o => some o
  | .ratmAdd o => some o
  | .ratmOr o => some o
  | .ratmSwap o => some o
  | .ratmCas o => some o
  | .mcred o => some o
  | .mcst o => some o
  | .agrp o => some o
  | .wqini o => some o
  | .wqnx o => some o
  | .stad o => some o
  | .stsnk o => some o
  | .trap o => some o
  | .brk o => some o
  | .mfs o => some o
  | .mts o => some o
  | .yield o => some o
  | .halt o => some o
  | .clflg o => some o
  | .rdtim o => some o
  | .enrg o => some o
  | .xld o => some o
  | .barw o => some o
  | .fexpl o => some o
  | .rsto o => some o
  | _ => none

/-- The rejection that a slot word alone decides, if any: its targets, then its own checks. -/
def loadCheck (i : Instr) : Option Nat :=
  match i.ops? with
  | some o => (checkTargets o).or (ownCheck i)
  | none => none

/-- A well-formed instruction: its form agrees with its fields and the loader rejects nothing in its word. -/
def WellFormed (i : Instr) : Bool := formOk i && loadCheck i == none

end Sys2Proof
end

