-- ==== Sys2Proof/Decode.lean ====
section
/-! DEFINITION. The decoder of slot words (R273, R288) and of queue words (R291 to R293, R383, R384), the encoder written from
the same tables, and the byte order of both (R4). Every word that is no instruction is refused by name. -/

namespace Sys2Proof

/-- Why a word is no instruction: an OPC that R288 leaves undefined, too few bytes for a word, or what R293 finds at a queue
word, with the offset of the offending word from the head. -/
inductive DecodeErr where
  | undefinedOpcode (opc : Nat)
  | truncated
  | queueUndefined (at_ : Nat)
  | queueMisaligned (at_ : Nat)
deriving DecidableEq, Repr

/-! ## Slot words -/

/-- The OPC of a slot word (R273). -/
def slotOpc (w : W64) : Nat := (w.extractLsb' 56 8).toNat

/-- The other fields of a slot word (R273). -/
def SlotOps.ofWord (w : W64) : SlotOps where
  ty := w.extractLsb' 52 4
  mod := w.extractLsb' 49 3
  pr := w.extractLsb' 47 2
  t0 := w.extractLsb' 38 9
  t1 := w.extractLsb' 29 9
  x := w.extractLsb' 0 29

/-- The slot word of an OPC and its other fields (R273). -/
def SlotOps.word (o : SlotOps) (opc : Nat) : W64 :=
  BitVec.ofNat 8 opc ++ o.ty ++ o.mod ++ o.pr ++ o.t0 ++ o.t1 ++ o.x

/-- Chooses by the operation in MOD bits 2 and 1 of ATOM and RATM (R309, R395). -/
def atomForm (o : SlotOps) (add or swap cas : Instr) : Instr :=
  if o.mod.getLsbD 2 then (if o.mod.getLsbD 1 then cas else swap)
  else if o.mod.getLsbD 1 then or else add

/-- The instruction of an OPC (R288), the forms of one OPC told apart by MOD or X as their entries state (R32, R83, R309, R395,
R415, R432). A KBND word is the admission; the same word retires when its token arrives on port B (R34). -/
def ofOpcode (opc : Nat) (o : SlotOps) : Option Instr :=
  match opc with
  | 0x00 => some (.add o)
  | 0x01 => some (.sub o)
  | 0x02 => some (.mul o)
  | 0x03 => some (.mulh o)
  | 0x04 => some (.mad o)
  | 0x05 => some (.div o)
  | 0x06 => some (.rem o)
  | 0x07 => some (.neg o)
  | 0x08 => some (.abs o)
  | 0x09 => some (.min o)
  | 0x0A => some (.max o)
  | 0x0B => some (.and o)
  | 0x0C => some (.or o)
  | 0x0D => some (.xor o)
  | 0x0E => some (.andn o)
  | 0x0F => some (.shl o)
  | 0x10 => some (.shr o)
  | 0x11 => some (.sar o)
  | 0x12 => some (.rot o)
  | 0x13 => some (.clz o)
  | 0x14 => some (.popc o)
  | 0x15 => some (.sext o)
  | 0x16 => some (.zext o)
  | 0x17 => some (.adds o)
  | 0x18 => some (.subs o)
  | 0x19 => some (.cmp o)
  | 0x1A => some (.sel o)
  | 0x1B => some (.mov o)
  | 0x1C => some (.movi o)
  | 0x1D => some (.lea o)
  | 0x20 => some (.fadd o)
  | 0x21 => some (.fsub o)
  | 0x22 => some (.fmul o)
  | 0x23 => some (.ffma o)
  | 0x24 => some (.fdiv o)
  | 0x25 => some (.fsqrt o)
  | 0x26 => some (.fmin o)
  | 0x27 => some (.fmax o)
  | 0x28 => some (.fabs o)
  | 0x29 => some (.fneg o)
  | 0x2A => some (.fcmp o)
  | 0x2B => some (.fclas o)
  | 0x2C => some (.cvt o)
  | 0x2D => some (.frnd o)
  | 0x2E => some (.fscl o)
  | 0x30 => some (.exp o)
  | 0x31 => some (.exp2 o)
  | 0x32 => some (.expm1 o)
  | 0x33 => some (.log o)
  | 0x34 => some (.log2 o)
  | 0x35 => some (.log1p o)
  | 0x36 => some (.sin o)
  | 0x37 => some (.cos o)
  | 0x38 => some (.sinpi o)
  | 0x39 => some (.cospi o)
  | 0x3A => some (.tanh o)
  | 0x3B => some (.atan o)
  | 0x3C => some (.erf o)
  | 0x3D => some (.sigm o)
  | 0x3E => some (.rsqrt o)
  | 0x3F => some (.pow o)
  | 0x40 => some (.expa o)
  | 0x41 => some (.exp2a o)
  | 0x42 => some (.loga o)
  | 0x43 => some (.log2a o)
  | 0x44 => some (.sina o)
  | 0x45 => some (.cosa o)
  | 0x46 => some (.tanha o)
  | 0x47 => some (.sigma o)
  | 0x48 => some (.rcpa o)
  | 0x49 => some (.rsqa o)
  | 0x50 => some (.shuf o)
  | 0x51 => some (.bcst o)
  | 0x52 => some (.redl o)
  | 0x53 => some (.scan o)
  | 0x54 => some (.pack o)
  | 0x55 => some (.unpk o)
  | 0x58 => some (.steer o)
  | 0x59 => some (.merge o)
  | 0x5A => some (.gate o)
  | 0x5B => some (.null o)
  | 0x5C => some (if o.mod = 1 then .tagiNxt o else .tagiCtx o)
  | 0x5D => some (if o.mod = 1 then .tagxFin o else .tagx o)
  | 0x5E => some (.kbndAdmit o)
  | 0x5F => some (.join o)
  | 0x60 => some (.drop o)
  | 0x61 => some (.ctr o)
  | 0x62 => some (.exit o)
  | 0x63 => some (.reord o)
  | 0x68 => some (.read o)
  | 0x69 => some (.write o)
  | 0x70 => some (.ld o)
  | 0x71 => some (.st o)
  | 0x72 => some (.ldi o)
  | 0x73 => some (if o.mod.getLsbD 1 then .stiClr o else .sti o)
  | 0x74 => some (atomForm o (.atomAdd o) (.atomOr o) (.atomSwap o) (.atomCas o))
  | 0x75 => some (.xlate o)
  | 0x76 => some (.pwin o)
  | 0x77 => some (.srd o)
  | 0x78 => some (.swr o)
  | 0x79 => some (.gath o)
  | 0x7A => some (.scat o)
  | 0x7B => some (.csrd o)
  | 0x7C => some (.fence o)
  | 0x7D => some (.publ o)
  | 0x7E => some (if o.mod.getLsbD 0 then .shdwRel o else .shdw o)
  | 0x80 => some (.cmb o)
  | 0x88 => some (.mma o)
  | 0x89 => some (.mmam o)
  | 0x8A => some (.scout o)
  | 0x8B => some (.scrb o)
  | 0x8C => some (.ring o)
  | 0x8D => some (.rrot o)
  | 0x8E => some (if o.x.getLsbD 18 then .tcvtMem o else .tcvtRing o)
  | 0x8F => some (.tred o)
  | 0x90 => some (.tfn o)
  | 0x91 => some (.ttrn o)
  | 0x98 => some (.cpy o)
  | 0x99 => some (.cpys o)
  | 0xA0 => some (.rld o)
  | 0xA1 => some (.rst o)
  | 0xA2 => some (.rstp o)
  | 0xA3 => some (atomForm o (.ratmAdd o) (.ratmOr o) (.ratmSwap o) (.ratmCas o))
  | 0xA4 => some (.mcred o)
  | 0xA5 => some (.mcst o)
  | 0xA6 => some (.agrp o)
  | 0xA8 => some (.wqini o)
  | 0xA9 => some (.wqnx o)
  | 0xAC => some (.stad o)
  | 0xAD => some (.stsnk o)
  | 0xB0 => some (.trap o)
  | 0xB1 => some (.brk o)
  | 0xB2 => some (.mfs o)
  | 0xB3 => some (.mts o)
  | 0xB4 => some (.yield o)
  | 0xB5 => some (.halt o)
  | 0xB6 => some (.clflg o)
  | 0xB7 => some (.rdtim o)
  | 0xB8 => some (.enrg o)
  | 0xE0 => some (.xld o)
  | 0xE1 => some (.barw o)
  | 0xE2 => some (.fexpl o)
  | 0xE3 => some (.rsto o)
  | _ => none

/-- The instruction of a slot word. -/
def decodeSlot (w : W64) : Except DecodeErr Instr :=
  match ofOpcode (slotOpc w) (SlotOps.ofWord w) with
  | some i => .ok i
  | none => .error (.undefinedOpcode (slotOpc w))

/-! ## Queue words -/

/-- KIND of a queue word (R291). -/
def qkind (w : W64) : BitVec 2 := w.extractLsb' 62 2
/-- QOPC of a head word (R291). -/
def qopc (w : W64) : Nat := (w.extractLsb' 56 6).toNat
/-- A head word (R291). -/
def qhead (opc : Nat) (body : BitVec 56) : W64 := (0 : BitVec 2) ++ BitVec.ofNat 6 opc ++ body
/-- An extension word (R291). -/
def qext {n : Nat} (v : BitVec n) : W64 := (1 : BitVec 2) ++ (v.setWidth 62)

/-- The number of extension words of a QOPC, none for an undefined one (R292, R384). -/
def qexts (opc : Nat) : Option Nat :=
  match opc with
  | 0x00 => some 0 | 0x01 => some 4 | 0x02 => some 3 | 0x03 => some 2 | 0x04 => some 2 | 0x05 => some 2
  | 0x06 => some 2 | 0x07 => some 0 | 0x08 => some 0 | 0x09 => some 0 | 0x0A => some 0 | 0x0B => some 4
  | 0x0C => some 0 | 0x0D => some 0 | 0x0E => some 0 | 0x0F => some 0 | 0x10 => some 0
  | _ => none

/-- SEM of a head word (R383). -/
def qsem (h : W64) : BitVec 10 := h.extractLsb' 46 10
/-- A 64-bit operand of two extension words, the low half first (R383). -/
def qval64 (lo hi : W64) : BitVec 64 := hi.setWidth 32 ++ lo.setWidth 32

/-- The instruction of a head word and the extension words that its QOPC has (R384). -/
def ofQueue (opc : Nat) (h : W64) (ext : List W64) : Option Instr :=
  match opc, ext with
  | 0x00, [] => some .qnop
  | 0x01, [a, b, c, d] =>
    some (.qlnch (qsem h) (h.getLsbD 45) (h.setWidth 32) (qval64 a b) (c.setWidth 55) (d.setWidth 55))
  | 0x02, [a, b, c] =>
    some (.qcopy (qsem h) (h.getLsbD 45) (h.getLsbD 44) (h.setWidth 32) (a.setWidth 55) (b.setWidth 55) (c.setWidth 40))
  | 0x03, [a, b] => some (.qwge (qsem h) (qval64 a b))
  | 0x04, [a, b] => some (.qweq (qsem h) (qval64 a b))
  | 0x05, [a, b] => some (.qsig (qsem h) (h.extractLsb' 42 4) (qval64 a b))
  | 0x06, [a, b] => some (.qset (qsem h) (qval64 a b))
  | 0x07, [] => some (.qintr (h.extractLsb' 45 11) (h.setWidth 32))
  | 0x08, [] => some (.qjmp (h.setWidth 16))
  | 0x09, [] => some (.qjnz (qsem h) (h.getLsbD 45) (h.setWidth 16))
  | 0x0A, [] => some (.qfnc (h.extractLsb' 42 4))
  | 0x0B, [a, b, c, d] =>
    some (.qload (qsem h) (h.getLsbD 45) (h.setWidth 32) (qval64 a b) (c.setWidth 55) (d.setWidth 55))
  | 0x0C, [] => some (.qend (h.setWidth 32))
  | 0x0D, [] => some (.qtmr (qsem h) (h.extractLsb' 43 3) (h.setWidth 40))
  | 0x0E, [] => some (.qeng (h.setWidth 48))
  | 0x0F, [] => some (.qsave (qsem h) (h.getLsbD 45) (h.extractLsb' 39 6) (h.setWidth 32))
  | 0x10, [] => some (.qrest (qsem h) (h.getLsbD 45) (h.extractLsb' 39 6) (h.setWidth 32))
  | _, _ => none

/-- The offset from the head of the first of n extension positions whose word is missing or not of KIND 01 (R293). -/
def badExt : Nat → Nat → List W64 → Option Nat
  | _, 0, _ => none
  | k, _ + 1, [] => some k
  | k, n + 1, w :: ws => if qkind w = 1 then badExt (k + 1) n ws else some k

/-- The instruction at the head of a list of queue words, with the words after it; the checks in the order of R293. A missing
head word reads as KIND 11 (R383). -/
def decodeQueue (ws : List W64) : Except DecodeErr (Instr × List W64) :=
  match ws with
  | [] => .error (.queueUndefined 0)
  | h :: rest =>
    if qkind h = 1 then .error (.queueMisaligned 0)
    else if qkind h ≠ 0 then .error (.queueUndefined 0)
    else match qexts (qopc h) with
      | none => .error (.queueUndefined 0)
      | some n =>
        match badExt 1 n rest with
        | some k => .error (.queueMisaligned k)
        | none =>
          match ofQueue (qopc h) h (rest.take n) with
          | some i => .ok (i, rest.drop n)
          | none => .error (.queueUndefined 0)

/-! ## Bytes -/

/-- The word of eight bytes, the least significant first (R4). -/
def wordOfBytes (bs : List Byte) : W64 := BitVec.ofNat 64 (bs.foldr (fun b acc => b.toNat + 256 * acc) 0)

/-- The n low bytes of a number, the least significant first (R4). -/
def bytesOfNat : Nat → Nat → List Byte
  | 0, _ => []
  | n + 1, v => BitVec.ofNat 8 v :: bytesOfNat n (v / 256)

/-- The slot word and its instruction at the head of a list of bytes, with the bytes after it. -/
def decodeBytes (bs : List Byte) : Except DecodeErr (Instr × List Byte) :=
  if bs.length < 8 then .error .truncated
  else match decodeSlot (wordOfBytes (bs.take 8)) with
    | .ok i => .ok (i, bs.drop 8)
    | .error e => .error e

/-- Little-endian bytes of n 64-bit words numbered from the least significant word of w. -/
def wordsOf : Nat → Nat → List W64
  | 0, _ => []
  | n + 1, w => BitVec.ofNat 64 w :: wordsOf n (w / 2 ^ 64)

/-- The instruction of an instruction's bits as spec/opcode_table.json numbers them: a slot word when it has one word, queue
words when it has more; bits above nbits are 0. -/
def decodeTableWord (nbits w : Nat) : Option Instr :=
  if nbits ≤ 64 then
    match decodeBytes (bytesOfNat 8 (w % 2 ^ 64)) with
    | .ok (i, _) => some i
    | .error _ => none
  else
    match decodeQueue (wordsOf 5 w) with
    | .ok (i, _) => some i
    | .error _ => none

/-! ## The encoder -/

/-- The words of an instruction (R273, R288, R291, R384); an event has none. -/
def encode : Instr → List W64
  | .add o => [o.word 0x00]
  | .sub o => [o.word 0x01]
  | .mul o => [o.word 0x02]
  | .mulh o => [o.word 0x03]
  | .mad o => [o.word 0x04]
  | .div o => [o.word 0x05]
  | .rem o => [o.word 0x06]
  | .neg o => [o.word 0x07]
  | .abs o => [o.word 0x08]
  | .min o => [o.word 0x09]
  | .max o => [o.word 0x0A]
  | .and o => [o.word 0x0B]
  | .or o => [o.word 0x0C]
  | .xor o => [o.word 0x0D]
  | .andn o => [o.word 0x0E]
  | .shl o => [o.word 0x0F]
  | .shr o => [o.word 0x10]
  | .sar o => [o.word 0x11]
  | .rot o => [o.word 0x12]
  | .clz o => [o.word 0x13]
  | .popc o => [o.word 0x14]
  | .sext o => [o.word 0x15]
  | .zext o => [o.word 0x16]
  | .adds o => [o.word 0x17]
  | .subs o => [o.word 0x18]
  | .cmp o => [o.word 0x19]
  | .sel o => [o.word 0x1A]
  | .mov o => [o.word 0x1B]
  | .movi o => [o.word 0x1C]
  | .lea o => [o.word 0x1D]
  | .fadd o => [o.word 0x20]
  | .fsub o => [o.word 0x21]
  | .fmul o => [o.word 0x22]
  | .ffma o => [o.word 0x23]
  | .fdiv o => [o.word 0x24]
  | .fsqrt o => [o.word 0x25]
  | .fmin o => [o.word 0x26]
  | .fmax o => [o.word 0x27]
  | .fabs o => [o.word 0x28]
  | .fneg o => [o.word 0x29]
  | .fcmp o => [o.word 0x2A]
  | .fclas o => [o.word 0x2B]
  | .cvt o => [o.word 0x2C]
  | .frnd o => [o.word 0x2D]
  | .fscl o => [o.word 0x2E]
  | .exp o => [o.word 0x30]
  | .exp2 o => [o.word 0x31]
  | .expm1 o => [o.word 0x32]
  | .log o => [o.word 0x33]
  | .log2 o => [o.word 0x34]
  | .log1p o => [o.word 0x35]
  | .sin o => [o.word 0x36]
  | .cos o => [o.word 0x37]
  | .sinpi o => [o.word 0x38]
  | .cospi o => [o.word 0x39]
  | .tanh o => [o.word 0x3A]
  | .atan o => [o.word 0x3B]
  | .erf o => [o.word 0x3C]
  | .sigm o => [o.word 0x3D]
  | .rsqrt o => [o.word 0x3E]
  | .pow o => [o.word 0x3F]
  | .expa o => [o.word 0x40]
  | .exp2a o => [o.word 0x41]
  | .loga o => [o.word 0x42]
  | .log2a o => [o.word 0x43]
  | .sina o => [o.word 0x44]
  | .cosa o => [o.word 0x45]
  | .tanha o => [o.word 0x46]
  | .sigma o => [o.word 0x47]
  | .rcpa o => [o.word 0x48]
  | .rsqa o => [o.word 0x49]
  | .shuf o => [o.word 0x50]
  | .bcst o => [o.word 0x51]
  | .redl o => [o.word 0x52]
  | .scan o => [o.word 0x53]
  | .pack o => [o.word 0x54]
  | .unpk o => [o.word 0x55]
  | .steer o => [o.word 0x58]
  | .merge o => [o.word 0x59]
  | .gate o => [o.word 0x5A]
  | .null o => [o.word 0x5B]
  | .tagiCtx o => [o.word 0x5C]
  | .tagiNxt o => [o.word 0x5C]
  | .tagx o => [o.word 0x5D]
  | .tagxFin o => [o.word 0x5D]
  | .kbndAdmit o => [o.word 0x5E]
  | .kbndRetire o => [o.word 0x5E]
  | .join o => [o.word 0x5F]
  | .drop o => [o.word 0x60]
  | .ctr o => [o.word 0x61]
  | .exit o => [o.word 0x62]
  | .reord o => [o.word 0x63]
  | .read o => [o.word 0x68]
  | .write o => [o.word 0x69]
  | .ld o => [o.word 0x70]
  | .st o => [o.word 0x71]
  | .ldi o => [o.word 0x72]
  | .sti o => [o.word 0x73]
  | .stiClr o => [o.word 0x73]
  | .atomAdd o => [o.word 0x74]
  | .atomOr o => [o.word 0x74]
  | .atomSwap o => [o.word 0x74]
  | .atomCas o => [o.word 0x74]
  | .xlate o => [o.word 0x75]
  | .pwin o => [o.word 0x76]
  | .srd o => [o.word 0x77]
  | .swr o => [o.word 0x78]
  | .gath o => [o.word 0x79]
  | .scat o => [o.word 0x7A]
  | .csrd o => [o.word 0x7B]
  | .fence o => [o.word 0x7C]
  | .publ o => [o.word 0x7D]
  | .shdw o => [o.word 0x7E]
  | .shdwRel o => [o.word 0x7E]
  | .cmb o => [o.word 0x80]
  | .mma o => [o.word 0x88]
  | .mmam o => [o.word 0x89]
  | .scout o => [o.word 0x8A]
  | .scrb o => [o.word 0x8B]
  | .ring o => [o.word 0x8C]
  | .rrot o => [o.word 0x8D]
  | .tcvtRing o => [o.word 0x8E]
  | .tcvtMem o => [o.word 0x8E]
  | .tred o => [o.word 0x8F]
  | .tfn o => [o.word 0x90]
  | .ttrn o => [o.word 0x91]
  | .cpy o => [o.word 0x98]
  | .cpys o => [o.word 0x99]
  | .rld o => [o.word 0xA0]
  | .rst o => [o.word 0xA1]
  | .rstp o => [o.word 0xA2]
  | .ratmAdd o => [o.word 0xA3]
  | .ratmOr o => [o.word 0xA3]
  | .ratmSwap o => [o.word 0xA3]
  | .ratmCas o => [o.word 0xA3]
  | .mcred o => [o.word 0xA4]
  | .mcst o => [o.word 0xA5]
  | .agrp o => [o.word 0xA6]
  | .wqini o => [o.word 0xA8]
  | .wqnx o => [o.word 0xA9]
  | .stad o => [o.word 0xAC]
  | .stsnk o => [o.word 0xAD]
  | .trap o => [o.word 0xB0]
  | .brk o => [o.word 0xB1]
  | .mfs o => [o.word 0xB2]
  | .mts o => [o.word 0xB3]
  | .yield o => [o.word 0xB4]
  | .halt o => [o.word 0xB5]
  | .clflg o => [o.word 0xB6]
  | .rdtim o => [o.word 0xB7]
  | .enrg o => [o.word 0xB8]
  | .xld o => [o.word 0xE0]
  | .barw o => [o.word 0xE1]
  | .fexpl o => [o.word 0xE2]
  | .rsto o => [o.word 0xE3]
  | .qnop => [qhead 0x00 0]
  | .qlnch sem sg addv img va arg =>
    [qhead 0x01 (sem ++ BitVec.ofBool sg ++ (0 : BitVec 13) ++ addv), qext (img.setWidth 32), qext (img.extractLsb' 32 32),
      qext va, qext arg]
  | .qcopy sem sg sh addv src dst len =>
    [qhead 0x02 (sem ++ BitVec.ofBool sg ++ BitVec.ofBool sh ++ (0 : BitVec 12) ++ addv), qext src, qext dst, qext len]
  | .qwge sem val => [qhead 0x03 (sem ++ (0 : BitVec 46)), qext (val.setWidth 32), qext (val.extractLsb' 32 32)]
  | .qweq sem val => [qhead 0x04 (sem ++ (0 : BitVec 46)), qext (val.setWidth 32), qext (val.extractLsb' 32 32)]
  | .qsig sem scope val =>
    [qhead 0x05 (sem ++ scope ++ (0 : BitVec 42)), qext (val.setWidth 32), qext (val.extractLsb' 32 32)]
  | .qset sem val => [qhead 0x06 (sem ++ (0 : BitVec 46)), qext (val.setWidth 32), qext (val.extractLsb' 32 32)]
  | .qintr vec code => [qhead 0x07 (vec ++ (0 : BitVec 13) ++ code)]
  | .qjmp target => [qhead 0x08 ((0 : BitVec 40) ++ target)]
  | .qjnz sem dec target => [qhead 0x09 (sem ++ BitVec.ofBool dec ++ (0 : BitVec 29) ++ target)]
  | .qfnc scope => [qhead 0x0A ((0 : BitVec 10) ++ scope ++ (0 : BitVec 42))]
  | .qload sem sg addv img va report =>
    [qhead 0x0B (sem ++ BitVec.ofBool sg ++ (0 : BitVec 13) ++ addv), qext (img.setWidth 32), qext (img.extractLsb' 32 32),
      qext va, qext report]
  | .qend code => [qhead 0x0C ((0 : BitVec 24) ++ code)]
  | .qtmr sem tid delay => [qhead 0x0D (sem ++ tid ++ (0 : BitVec 3) ++ delay)]
  | .qeng e => [qhead 0x0E ((0 : BitVec 8) ++ e)]
  | .qsave sem sg qn addv => [qhead 0x0F (sem ++ BitVec.ofBool sg ++ qn ++ (0 : BitVec 7) ++ addv)]
  | .qrest sem sg qn addv => [qhead 0x10 (sem ++ BitVec.ofBool sg ++ qn ++ (0 : BitVec 7) ++ addv)]
  | .coldReset _ _ _ => []
  | .computeDieReset _ _ => []
  | .recdoor _ _ _ => []
  | .firmwareUpdate _ _ => []
  | .layoutCommit _ _ _ => []
  | .mpWatchdogReset => []
  | .thermal95c _ _ => []
  | .thermal105c => []
  | .thermal115c => []
  | .powerLoss _ _ => []
  | .hubReset => []
  | .partitionTeardown => []
  | .virtualDeviceTeardown => []
  | .rasCounterClear _ _ _ _ => []
  | .hostMemoryAccess _ _ => []
  | .spdmRequest _ _ => []
  | .ingressOpen => []
  | .ingressToken => []
  | .ingressTokenInject => []
  | .kilnRegisterWrite _ => []
  | .pageTableSyncPoint _ _ => []
  | .migrationStart _ _ _ => []
  | .migrationLinePull _ _ _ => []
  | .kilnReplay _ => []
  | .kilnResumeSpill _ _ => []
  | .kilnEndRaising => []
  | .brkResume => []
  | .trapReply _ _ => []
  | .remoteFaultRepair _ _ _ => []
  | .checkpoint => []
  | .launchAdmit => []
  | .imageLoad _ _ => []
  | .phaseComplete => []
  | .quantumEnd => []
  | .graceWindowEnd => []
  | .clusterImageSaveDone _ _ => []
  | .clusterRestore _ _ => []
  | .slotStart => []
  | .tokenArrival _ _ => []
  | .spillReinject _ _ => []
  | .gateRelease _ _ _ _ _ _ => []
  | .activationCommit _ _ => []
  | .abortRedeliver _ _ => []
  | .blockStall _ _ => []
  | .jointerLaneResult _ _ _ => []
  | .eccUncorrectable _ => []
  | .walk => []
  | .dirtyLoggerSet => []
  | .memoryAccessAtHome _ => []
  | .memoryReply => []
  | .ringFreedSlotNotice _ _ _ _ => []
  | .ringSlotFull _ _ _ _ => []
  | .trussFiringBegin _ _ _ => []
  | .trussFiringRetire _ _ _ => []
  | .laharTileStart _ _ _ _ => []
  | .copyComplete _ _ _ _ => []
  | .scatBatchApply _ _ _ _ => []
  | .streamElement _ _ _ _ _ => []
  | .augerServe => []
  | .augerRangeSet => []
  | .semaphoreOperation => []
  | .queueTimerExpiry _ _ _ => []
  | .hubHalt => []
  | .stsnkUpdate _ _ _ _ _ => []
  | .flitHop _ _ => []
  | .trimmedHeaderArrival _ _ => []
  | .rereqTimer _ _ _ => []
  | .rereqArrival _ _ => []
  | .orderedMessageDelivery _ _ _ => []
  | .sackSend => []
  | .sackArrival _ _ => []
  | .requestDedup _ _ => []
  | .errorArrival => []
  | .remoteFaultPark => []
  | .keepWaitTimer _ _ => []
  | .keepWaitArrival => []
  | .busyResend => []
  | .remoteTimeout => []
  | .multicastForward => []
  | .mcupCombine => []
  | .mcupSlotTimeout => []
  | .memberAbsentTimeout _ _ => []
  | .groupInstallAck _ _ => []
  | .linkCrcRetry _ _ _ => []
  | .contextReturn _ _ => []
  | .kilnQueueStart _ _ => []
  | .kilnQueueStop _ _ => []
  | .ingressRecordWrite _ _ _ => []
  | .interruptMailboxDrain => []
  | .jointerLaneEntry _ _ _ => []
  | .reordRelease _ _ _ _ _ _ => []
  | .linkDown _ _ _ => []
  | .cxlEnable => []
  | .msixVectorEnable _ _ _ => []
  | .temperatureFall _ _ => []
  | .fabricReset => []
  | .bootConfirm => []
  | .eccCorrected _ _ => []

end Sys2Proof
end

