-- ==== Sys2Proof/Config.lean ====
section
/-! DEFINITION. What an implementation fixes and the spec leaves open: free values, opaque constants with no body, so that no
proof can see what they are. Each names its log entry. -/

namespace Sys2Proof.Config

/-- Picks among the codes that R149 leaves a fast-approximate function: opcode, type, and where the exact value lies among the codes; of a sine or
cosine beyond 256, its interval between extremes and a point of it. Log 11. -/
opaque approxPick (opc ty : Nat) (x : Nat) : Nat

/-- Whether a lane of a correctly rounded function takes the second phase (R144): opcode, type, mode, operand bits. Log 12. -/
opaque secondPhase (opc ty mode x y : Nat) : Bool

/-- The energy charge of a firing, engine step, copied unit or access (R236), in units of 1/2^20 microjoule. Log 13. -/
opaque charge (what : Nat) : Nat

/-- The check value of a window token (R176): per-boot key of the virtual device, token bits 223 to 0. Log 14. -/
opaque windowCheck (part vd boot : Nat) (bits : BitVec 224) : BitVec 32

/-- The SM3 digest of a byte string (R242, R262, R267). Log 14. -/
opaque sm3 (bytes : List Byte) : BitVec 256

/-- Whether a firmware image carries a valid signature of the Ifeken key (R262). Log 14. -/
opaque sm2Valid (image : List Byte) : Bool

/-- The security version of a firmware image (R262, R263). Log 14. -/
opaque securityVersion (image : List Byte) : Nat

/-- The rewrite library that a firmware image holds (R249, R263). Log 14. -/
opaque libraryOf (image : List Byte) : List Byte

/-- One byte of the SM4-XTS ciphertext of a 32-byte unit (R266): key epoch, key, physical unit number, plaintext, byte index.
Log 14. -/
opaque xtsEncrypt (epoch key unit : Nat) (plain : W256) : W256

/-- The inverse of the cipher of R266. Log 14. -/
opaque xtsDecrypt (epoch key unit : Nat) (cipher : W256) : W256

/-- The SM2 private key that the security block of a device has from its manufacture (R265). Log 14. -/
opaque identityKey (device : Nat) : BitVec 256

/-- The certificate of a device, which chains to the Ifeken root (R265). Log 14. -/
opaque certificate (device : Nat) : List Byte

/-- An SM2 signature over the SM3 digest of a byte string (R265). Log 14. -/
opaque sm2Sign (key : BitVec 256) (data : List Byte) : List Byte

/-- An SM2 key exchange with a peer's share: the session key, and the share that answers (R265). Log 14. -/
opaque sm2Exchange (key : BitVec 256) (peer : List Byte) : BitVec 128 × List Byte

/-- A message of a session under SM4-GCM (R265). Log 14. -/
opaque sm4Gcm (key : BitVec 128) (data : List Byte) : List Byte

/-- The queue programs that a QUEUE section holds (R243), whose layout the spec does not give. Log 20. -/
opaque queuePrograms (bytes : List Byte) : List (List W64)

/-- The routes that a STATS section holds (R134, R243), whose layout the spec does not give: the block and slot of a converter, and the
block and slot its statistics tokens go to. Log 20. -/
opaque statsRoutes (bytes : List Byte) : List (Nat × Nat × Nat × Nat)

end Sys2Proof.Config
end

