-- ==== Sys2Proof/Machine/State.lean ====
section
/-! DEFINITION. The state of the whole link domain as plain data, the reasons a step can stop, and the state after reset. -/

namespace Sys2Proof.Machine

/-- Why a step stops where no rule of the spec gives a next state. Every fault of the spec itself is a next state that writes
its record; these are the model's own. -/
inductive Fault where
  /-- Raised by a store of Kiln (KILN_REGISTER_WRITE) to a physical address that R63 reserves or marks absent (log 73). Safe: the
  model stops where the spec names no effect. -/
  | noSuchAddress (pkg : Pkg) (pa : Nat)
  /-- Raised by the step when a station or a queue holds a word that is no instruction. Safe: R249 lets none reach a station. -/
  | badStation (word : W64)
  /-- Raised by an instruction's meaning when the latch holds no firing or word of it, which no step does. Safe. -/
  | notLatched
deriving DecidableEq, Repr

/-- Why the model gives a step no meaning. -/
inductive Refusal where
  /-- Raised by an arm of exec whose instruction has no meaning yet. Safe. -/
  | notModelled (mnemonic : String)
deriving DecidableEq, Repr

/-- What an event without operands of its own is about: a package, a virtual device, or a number (of a partition, a raising, a
request, a message or an entry). -/
inductive Subject where
  | none
  | pkg (p : Pkg)
  | vdev (v : VdRef)
  | num (n : Nat)
deriving DecidableEq, Repr

/-- One act of the schedule (log 1): an element or station fires its next ready instruction; a sequencer takes the word at a
queue's QPTR; an event of the opcode table happens; or time passes. -/
inductive Act where
  | fire (br : BentRef) (u : UnitLoc)
  | take (v : VdRef) (q : Nat)
  | ev (i : Instr) (on : Subject)
  | tick (n : Nat)
deriving DecidableEq, Repr

/-- What is being executed (log 1): the firing of a station with its operands taken (`own` says that they held rows until then, R449), the words a sequencer took, or an event
about its subject. A meaning answers `waits` when its instruction must wait for a resource (R57); the step then keeps its
operands waiting. -/
inductive Cur where
  | none
  | firing (br : BentRef) (u : UnitLoc) (r : Ready) (own : Bool := true)
  | word (v : VdRef) (q : Nat) (words : List W64)
  | event (on : Subject)
  | waits
deriving DecidableEq, Repr

/-- The members of a group as AGRP installed them (R210). -/
structure GroupSet where
  part : Nat
  group : Nat
  br : BentRef
  cx : Nat
  cy : Nat
  req : Nat
  installed : Bool
  members : List Member
deriving DecidableEq, Repr

/-- The state of the link domain (R20): every package with its memory, units, fabric, hub, host and management state. -/
structure State where
  now : Nat
  nextId : Nat
  nextRid : Nat
  domW : Nat
  domH : Nat
  sched : List Act
  cur : Cur
  mem : List Host.Cell
  presence : List Nat
  enc : List EncUnit
  ecc : List EccUnit
  deferred : List Deferred
  parts : List Partition
  vdevs : List Vdev
  raisings : List Raising
  queues : List Queue
  sems : List SemCell
  semReqs : List SemReq
  reqs : List Req
  fences : List Fence
  mcops : List McOp
  groupSets : List GroupSet
  marks : List TileMark
  fqueues : List FQueue
  inbox : List Msg
  trimths : List TrimTh
  seqs : List SeqSpace
  copies : List TxCopy
  trims : List TrimEntry
  reorders : List Reorder
  dedups : List Dedup
  parked : List ParkRec
  mccopies : List McCopy
  groups : List GroupEntry
  redslots : List RedSlot
  bulks : List Bulk
  down : List DownLink
  ras : List RasCounter
  loads : List LoadReq
  reports : List LoadReport
  migs : List MigRec
  syncs : List SyncPoint
  ventWins : List VentWin
  platforms : List Platform
  posts : List KilnPost
  checkpoints : List Checkpoint
  rangeLogs : List RangeLog
  hostWaits : List (Pkg × HostAccess)
deriving DecidableEq, Repr

/-- A layout with no partition. -/
def Layout.empty : Layout := { parts := [] }

/-- The package (0, 0) right after a cold reset that found no fault (R262, R263, R267, R270): Kiln runs, STATUS.READY is set,
no layout holds a partition, ENC keys are assigned to none, and 32 Sinter channels of 24 GiB are fitted (R2). Log 3. -/
def Platform.reset : Platform where
  pkg := { px := 0, py := 0 }
  ready := true
  recovery := false
  recfail := false
  recstack := 0
  reclen := 0
  apbase := 0
  bar2 := true
  kiln := true
  flash := []
  running := []
  fusedMin := 0
  bankA := Layout.empty
  bankB := Layout.empty
  activeB := false
  intent := { seq := 0, bankB := false, digest := 0, valid := false }
  applied := Layout.empty
  fenced := []
  fencedClus := []
  failedStacks := []
  sinter := List.replicate 32 24
  thermal := .cool
  admitStop := false
  power := true
  held := false
  cxl := false
  msix := []
  msixSent := []
  driverIntr := []
  keys := []
  keyEpoch := 0
  boots := 0
  hostRead := []
  layoutBusy := false
  faultSeq := 0
  gens := []
  cycles0 := 0
  library := []
  spdm := []
  session := none

/-- The machine right after reset: one package, nothing placed, no memory written (R262; log 2, 3). -/
def State.reset : State where
  now := 0
  nextId := 0
  nextRid := 0
  domW := 1
  domH := 1
  sched := []
  cur := .none
  mem := []
  presence := []
  enc := []
  ecc := []
  deferred := []
  parts := []
  vdevs := []
  raisings := []
  queues := []
  sems := []
  semReqs := []
  reqs := []
  fences := []
  mcops := []
  groupSets := []
  marks := []
  fqueues := []
  inbox := []
  trimths := []
  seqs := []
  copies := []
  trims := []
  reorders := []
  dedups := []
  parked := []
  mccopies := []
  groups := []
  redslots := []
  bulks := []
  down := []
  ras := []
  loads := []
  reports := []
  migs := []
  syncs := []
  ventWins := []
  platforms := [Platform.reset]
  posts := []
  checkpoints := []
  rangeLogs := []
  hostWaits := []

end Sys2Proof.Machine
end

