-- ==== Sys2Proof/Machine/Mem.lean ====
section
/-! DEFINITION. Memory: one list of bytes for the whole link domain in canonical form, the home addresses it is keyed by,
presence bits, and the encryption of HBM and Sinter units. -/

namespace Sys2Proof.Machine

open Sys2Proof

/-! ## Home addresses -/

/-- The home address of a physical address of a package: the packages follow one another at multiples of 2^56 (R63, R88). -/
def gaOf (p : Pkg) (pa : Nat) : Nat := (p.py * 64 + p.px) * 2 ^ 56 + pa
/-- The package of a home address. -/
def gaPkg (ga : Nat) : Pkg := { px := ga / 2 ^ 56 % 64, py := ga / 2 ^ 56 / 64 }
/-- The address of a home address inside its package. -/
def gaPhys (ga : Nat) : Nat := ga % 2 ^ 56
/-- The first physical address of the vault alias (R63). -/
def vaultAlias : Nat := 0x0F0000000000
/-- The home address of a byte of a vault, by its index in the package (R61, R63). -/
def vaultGa (p : Pkg) (v off : Nat) : Nat := gaOf p (vaultAlias + v * 0x200000 + off)
/-- The home address of a byte of a cell's scratchpad: above the 52-bit map, 16 KiB for each cell of the package (R10). -/
def spadGa (c : CellId) (off : Nat) : Nat := gaOf c.pkg (2 ^ 52 + (c.y * 128 + c.x) * 0x4000 + off)

/-- What a physical address is part of (R63). -/
inductive Region where
  | hbm (stack : Nat)
  | sinter
  | vault (v : Nat)
  | host
  | spad
  | reserved
deriving DecidableEq, Repr

/-- The region of an address inside a package (R63). -/
def regionOf (pa : Nat) : Region :=
  if pa < 0x6000000000 then .hbm (pa / 0xC00000000)
  else if 0x10000000000 ≤ pa ∧ pa < 0x1C000000000 then .sinter
  else if vaultAlias ≤ pa ∧ pa < vaultAlias + 0x80000000 then .vault ((pa - vaultAlias) / 0x200000)
  else if 0x8000000000000 ≤ pa ∧ pa < 2 ^ 52 then .host
  else if 2 ^ 52 ≤ pa ∧ pa < 2 ^ 52 + 0x10000000 then .spad
  else .reserved

/-! ## Bytes -/

/-- What an address that is not listed reads as (log 2). -/
def unlisted : Byte := 0

/-- The byte at an address. -/
def memRead : List Host.Cell → Nat → Byte
  | [], _ => unlisted
  | (k, v) :: rest, a => if k = a then v else if a < k then unlisted else memRead rest a

/-- Writes one byte and keeps the canonical form: an entry that would read as an unlisted address is removed. -/
def memPut : List Host.Cell → Nat → Byte → List Host.Cell
  | [], a, b => if b = unlisted then [] else [(a, b)]
  | (k, v) :: rest, a, b =>
    if a < k then (if b = unlisted then (k, v) :: rest else (a, b) :: (k, v) :: rest)
    else if a = k then (if b = unlisted then rest else (a, b) :: rest)
    else (k, v) :: memPut rest a b

/-- Writes bytes at rising addresses. -/
def memPutAll : List Host.Cell → Nat → List Byte → List Host.Cell
  | m, _, [] => m
  | m, a, b :: bs => memPutAll (memPut m a b) (a + 1) bs

/-- Reads n bytes at rising addresses. -/
def memGet (m : List Host.Cell) (a : Nat) : Nat → List Byte
  | 0 => []
  | n + 1 => memRead m a :: memGet m (a + 1) n

/-- The addresses rise strictly from a bound, and no entry reads as an unlisted address. -/
def memWfFrom : Nat → List Host.Cell → Bool
  | _, [] => true
  | lo, (k, v) :: rest => lo ≤ k && v != unlisted && memWfFrom (k + 1) rest

/-- The canonical form of memory. -/
def memWf (m : List Host.Cell) : Bool := memWfFrom 0 m

/-- The canonical form of a list of cells; it is the list itself when that is canonical. -/
def memCanon : List Host.Cell → List Host.Cell
  | [] => []
  | (k, v) :: rest => memPut (memCanon rest) k v

/-- The number whose little-endian bytes these are (R4). -/
def natOfBytes : List Byte → Nat
  | [] => 0
  | b :: bs => b.toNat + 256 * natOfBytes bs

/-- The n little-endian bytes of a number (R4). -/
def bytesOf : Nat → Nat → List Byte
  | 0, _ => []
  | n + 1, v => BitVec.ofNat 8 v :: bytesOf n (v / 256)

/-! ## Sorted sets of numbers -/

/-- Whether a number is in a rising list. -/
def setMem (l : List Nat) (a : Nat) : Bool := l.contains a
/-- Inserts a number into a rising list. -/
def setIns : List Nat → Nat → List Nat
  | [], a => [a]
  | k :: rest, a => if a < k then a :: k :: rest else if a = k then k :: rest else k :: setIns rest a
/-- Removes a number from a list. -/
def setDel (l : List Nat) (a : Nat) : List Nat := l.filter (· != a)

/-! ## The state's memory -/

/-- The key number a unit was last written under: 0 for plaintext, else sixteen times the key epoch plus ENC (R266). -/
def State.unitKey (s : State) (unit : Nat) : Nat :=
  match s.enc.find? (·.unit == unit) with
  | some e => e.key
  | none => 0

/-- The 32 bytes of a unit as a number, as stored under the key it was last written under. -/
def State.unitPlain (s : State) (unit : Nat) : W256 := BitVec.ofNat 256 (natOfBytes (memGet s.mem (unit * 32) 32))

/-- The ciphertext of a unit, as an access without decryption reads it (R259, R266). -/
def State.unitRaw (s : State) (unit : Nat) : W256 :=
  let k := s.unitKey unit
  if k = 0 then s.unitPlain unit else Config.xtsEncrypt (k / 16) (k % 16) (gaPhys (unit * 32) / 32) (s.unitPlain unit)

/-- A unit as an access under a key reads it (R266). -/
def State.unitUnder (s : State) (unit key : Nat) : W256 :=
  if s.unitKey unit = key then s.unitPlain unit
  else if key = 0 then s.unitRaw unit
  else Config.xtsDecrypt (key / 16) (key % 16) (gaPhys (unit * 32) / 32) (s.unitRaw unit)

/-- Makes a unit hold a value under a key (R266). -/
def State.setUnit (s : State) (unit key : Nat) (v : W256) : State :=
  { s with
    mem := memPutAll s.mem (unit * 32) (bytesOf 32 v.toNat)
    enc := if key = 0 then s.enc.filter (·.unit != unit)
           else { unit := unit, key := key } :: s.enc.filter (·.unit != unit) }

/-- Brings the units of a byte range under a key, so that their plain bytes are what an access under it reads. -/
def State.rekey (s : State) (ga n key : Nat) : State :=
  ((List.range ((ga + n + 31) / 32 - ga / 32)).map (· + ga / 32)).foldl
    (fun s u => if s.unitKey u = key then s else s.setUnit u key (s.unitUnder u key)) s

/-- Reads n bytes at a home address under a key. -/
def State.readKey (s : State) (ga n key : Nat) : List Byte := memGet (s.rekey ga n key).mem ga n

/-- Writes bytes at a home address under a key, and repairs the units written (R186, R266). -/
def State.writeKey (s : State) (ga key : Nat) (bs : List Byte) : State :=
  let s := s.rekey ga bs.length key
  { s with
    mem := memPutAll s.mem ga bs
    ecc := s.ecc.filter (fun u => u < ga / 32 || (ga + bs.length + 31) / 32 ≤ u) }

/-- Reads n bytes at a home address as plaintext. -/
def State.readBytes (s : State) (ga n : Nat) : List Byte := s.readKey ga n 0
/-- Writes bytes at a home address as plaintext. -/
def State.writeBytes (s : State) (ga : Nat) (bs : List Byte) : State := s.writeKey ga 0 bs
/-- Reads an aligned eight-byte word, as a page-table walk does (R172). -/
def State.read8 (s : State) (ga : Nat) : W64 := BitVec.ofNat 64 (natOfBytes (s.readBytes ga 8))

/-- Whether a unit of a byte range holds an uncorrectable error (R186). -/
def State.eccIn (s : State) (ga n : Nat) : Bool := s.ecc.any (fun u => ga / 32 ≤ u && u < (ga + n + 31) / 32)

/-- Whether the word at a home address is present (R82). -/
def State.present (s : State) (ga : Nat) : Bool := setMem s.presence (ga / 8)
/-- Sets the presence bit of a word (R83). -/
def State.setPresent (s : State) (ga : Nat) (b : Bool) : State :=
  { s with presence := if b then setIns s.presence (ga / 8) else setDel s.presence (ga / 8) }

end Sys2Proof.Machine
end

