-- ==== Sys2Proof/Machine/Ops.lean ====
section
/-! DEFINITION. The named operations that the meanings share: finding and changing the parts of the state, sending tokens
(R25, R51, R191), the Sill's hold on an activation's tokens (R46), taking a fault and freezing what faulted (R30, R47, R187), and
replaying it (R180). -/

namespace Sys2Proof.Machine

open Sys2Proof

/-! ## Finding and changing -/

/-- Changes the entries of a list that meet a condition. -/
def updIf {α : Type} (l : List α) (c : α → Bool) (f : α → α) : List α := l.map (fun x => if c x then f x else x)

/-- A raising by its number. -/
def State.raising? (s : State) (rid : Nat) : Option Raising := s.raisings.find? (·.rid == rid)
/-- Changes a raising. -/
def State.updRaising (s : State) (rid : Nat) (f : Raising → Raising) : State :=
  { s with raisings := updIf s.raisings (·.rid == rid) f }
/-- A bent. -/
def State.bent? (s : State) (br : BentRef) : Option Bent := (s.raising? br.rid).bind (fun r => r.bents[br.bent]?)
/-- Whether a slot's grace window has ended: from that cycle on nothing of its virtual device begins, and the forced drain is due (R227, R448). -/
def Partition.windowOver (p : Partition) (now : Nat) : Bool :=
  (p.phase == .quantum || p.phase == .grace) && p.slotStart + p.q + p.w ≤ now
/-- Whether the units of a bent may begin anything: its raising runs, the bent is not sealed, and its slot's grace window has not ended (R227, R230,
R448). -/
def State.bentLive (s : State) (br : BentRef) : Bool :=
  match s.raising? br.rid with
  | some r => r.state == .running && !((r.bents[br.bent]?).elim true (·.isSealed)) &&
      !(s.parts.find? (·.lay.part == r.vdr.part)).elim false (·.windowOver s.now)
  | none => false
/-- Whether a raising's images are out of its clusters: it is held, or drained with one of them saved in the guard of its slot, or from that guard on
(R227, R394). -/
def State.away (s : State) (rid : Nat) : Bool :=
  match s.raising? rid with
  | some r => r.state == .held || (r.state == .drained && !((s.parts.find? (·.lay.part == r.vdr.part)).elim false (·.phase == .guard) &&
      (s.vdevs.find? (·.vdr == r.vdr)).elim true (·.savedClus.isEmpty)))
  | none => false
/-- Changes a bent. -/
def State.updBent (s : State) (br : BentRef) (f : Bent → Bent) : State :=
  s.updRaising br.rid (fun r => { r with bents := r.bents.modify br.bent f })
/-- An element of a bent by its canonical cell. -/
def Bent.elem? (b : Bent) (cx cy : Nat) : Option Elem := b.elems.find? (fun e => e.cx == cx && e.cy == cy)
/-- A cluster of a bent by its canonical cluster. -/
def Bent.clus? (b : Bent) (cX cY : Nat) : Option Cluster := b.clus.find? (fun c => c.cX == cX && c.cY == cY)
/-- Changes an element. -/
def State.updElem (s : State) (br : BentRef) (cx cy : Nat) (f : Elem → Elem) : State :=
  s.updBent br (fun b => { b with elems := updIf b.elems (fun e => e.cx == cx && e.cy == cy) f })
/-- Changes a cluster. -/
def State.updClus (s : State) (br : BentRef) (cX cY : Nat) (f : Cluster → Cluster) : State :=
  s.updBent br (fun b => { b with clus := updIf b.clus (fun c => c.cX == cX && c.cY == cY) f })
/-- An element of a bent. -/
def State.elem? (s : State) (br : BentRef) (cx cy : Nat) : Option Elem := (s.bent? br).bind (·.elem? cx cy)
/-- A cluster of a bent. -/
def State.clus? (s : State) (br : BentRef) (cX cY : Nat) : Option Cluster := (s.bent? br).bind (·.clus? cX cY)
/-- A placed block of a raising. -/
def State.block? (s : State) (rid blk : Nat) : Option PBlock := (s.raising? rid).bind (fun r => r.blocks[blk]?)
/-- A placed slot of a raising. -/
def State.slot? (s : State) (rid blk slot : Nat) : Option PSlot := (s.block? rid blk).bind (fun b => b.slots[slot]?)
/-- A virtual device. -/
def State.vdev? (s : State) (v : VdRef) : Option Vdev := s.vdevs.find? (·.vdr == v)
/-- Changes a virtual device. -/
def State.updVdev (s : State) (v : VdRef) (f : Vdev → Vdev) : State := { s with vdevs := updIf s.vdevs (·.vdr == v) f }
/-- A partition. -/
def State.part? (s : State) (p : Nat) : Option Partition := s.parts.find? (·.lay.part == p)
/-- Changes a partition. -/
def State.updPart (s : State) (p : Nat) (f : Partition → Partition) : State :=
  { s with parts := updIf s.parts (·.lay.part == p) f }
/-- A queue of a virtual device. -/
def State.queue? (s : State) (v : VdRef) (q : Nat) : Option Queue := s.queues.find? (fun x => x.vdr == v && x.q == q)
/-- Changes a queue. -/
def State.updQueue (s : State) (v : VdRef) (q : Nat) (f : Queue → Queue) : State :=
  { s with queues := updIf s.queues (fun x => x.vdr == v && x.q == q) f }
/-- The platform of a package. -/
def State.plat? (s : State) (p : Pkg) : Option Platform := s.platforms.find? (·.pkg == p)
/-- Changes the platform of a package. -/
def State.updPlat (s : State) (p : Pkg) (f : Platform → Platform) : State :=
  { s with platforms := updIf s.platforms (·.pkg == p) f }
/-- A request. -/
def State.req? (s : State) (id : Nat) : Option Req := s.reqs.find? (·.id == id)
/-- Changes a request. -/
def State.updReq (s : State) (id : Nat) (f : Req → Req) : State := { s with reqs := updIf s.reqs (·.id == id) f }
/-- Removes a request. -/
def State.dropReq (s : State) (id : Nat) : State := { s with reqs := s.reqs.filter (·.id != id) }
/-- A number that names something new: a request, a message, a copy. -/
def State.newId (s : State) : Nat × State := (s.nextId, { s with nextId := s.nextId + 1 })

/-- The virtual device that owns a raising. -/
def State.vdOf (s : State) (rid : Nat) : VdRef :=
  match s.raising? rid with
  | some r => r.vdr
  | none => { part := 0, vd := 0 }

/-- Adds one to a RAS counter, which saturates (R203, R269). -/
def State.count (s : State) (name : RasName) (pkg : Pkg) (idx : Nat) : State :=
  let hit := fun c : RasCounter => c.name == name && c.pkg == pkg && c.idx == idx
  if s.ras.any hit then
    { s with ras := updIf s.ras hit (fun c => { c with count := if c.count = BitVec.allOnes 48 then c.count else c.count + 1 }) }
  else { s with ras := { name := name, pkg := pkg, idx := idx, count := 1 } :: s.ras }

/-- The number of a port and VC, under which the counters of R203 are held (R269). -/
def portVc (port vc : Nat) : Nat := 8 * port + vc

/-- Adds one to a 64-bit count of a bent that saturates nowhere in a phase (R39, R203, R271). -/
def satInc (w : W64) : W64 := if w = BitVec.allOnes 64 then w else w + 1

/-! ## Places -/

/-- The package cell of a canonical cell of a bent (R191). -/
def Bent.cell (b : Bent) (cx cy : Nat) : CellId := { pkg := b.pkg, x := b.x0 + cx, y := b.y0 + cy }

/-- Whether a slot word is of the tile class, which stands on a Truss station (R289). -/
def tileClass (w : W64) : Bool := 0x88 ≤ slotOpc w && slotOpc w ≤ 0x91

/-- The unit a slot stands on: its element, or the Truss station of its cluster (R284). -/
def PSlot.loc (p : PSlot) : UnitLoc := if tileClass p.word then .station (p.cx / 4) (p.cy / 4) else .elem p.cx p.cy

/-- Whether built-in test has fenced a cell, by itself or with its cluster (R21). -/
def State.cellFenced (s : State) (c : CellId) : Bool :=
  (s.plat? c.pkg).elim false (fun q => q.fenced.contains (c.x, c.y) || q.fencedClus.contains (c.x / 4, c.y / 4))

/-- The canonical cell whose router serves a slot: its own, or, of a station whose named cell is fenced, the first cell of the cluster that is not, since
no token is addressed to a fenced cell (R22); any cell of the cluster names its station, one outside the bent's rectangle too (R192). -/
def State.slotCell (s : State) (b : Bent) (p : PSlot) : Nat × Nat :=
  if tileClass p.word && s.cellFenced (b.cell p.cx p.cy) then
    (((List.range 16).map (fun i => (p.cx / 4 * 4 + i % 4, p.cy / 4 * 4 + i / 4))).find? (fun q => !s.cellFenced (b.cell q.1 q.2))).getD (p.cx, p.cy)
  else (p.cx, p.cy)

/-- The first cell of a die, where its own units are addressed (R192). -/
def dieCell (p : Pkg) (d : Nat) : CellId := { pkg := p, x := 64 * (d % 2), y := 64 * (d / 2) }

/-- The router at which a cell's address stands: its own; where that is fenced and the address names units of the die, the first router of the die that
is not, row by row (R21, R192; log 8). -/
def State.portCell (s : State) (c : CellId) : CellId :=
  if s.cellFenced c then
    (((List.range 4096).map (fun i => ({ c with x := c.x / 64 * 64 + i % 64, y := c.y / 64 * 64 + i / 64 } : CellId))).find?
      (fun x => !s.cellFenced x)).getD c
  else c

/-- Where the messages of a space arrive, and its answers leave from: a die ingress (R197). -/
def Space.home : Space → CellId
  | .vc _ _ _ dp dd _ => dieCell dp dd
  | .group _ sp sd _ => dieCell sp sd
  | .leaf _ _ _ rp rd => dieCell rp rd

/-- The configuration generation of a cell (R234). -/
def State.genOf (s : State) (c : CellId) : Nat :=
  match s.plat? c.pkg with
  | some p => match p.gens.find? (fun g => g.1 == c.x && g.2.1 == c.y) with
    | some g => g.2.2
    | none => 0
  | none => 0

/-! ## Targets -/

/-- The ports that a target code names (R51, R276): one slot of the block, the entries of a fan list, or nothing. -/
def targetDests (blocks : List PBlock) (bent blk : Nat) (t : BitVec 9) : List Dest :=
  let n := t.toNat
  if n < 0x180 then
    [{ bent := bent, blk := blk, slot := n % 128, port := if n < 0x80 then .a else if n < 0x100 then .b else .p }]
  else if n < 0x190 then
    match blocks[blk]? with
    | some b => (b.fans.getD (n - 0x180) []).map (fun e =>
        { bent := if e.rmt then e.bent else bent, blk := if e.blk = 0xFFF then blk else e.blk, slot := e.slot, port := e.port })
    | none => []
  else []

/-! ## Sending tokens -/

/-- A waiting token as it enters an element or station. -/
def arriving (d : Dest) (t : Token) (now : Nat) : WaitTok :=
  { blk := d.blk, slot := d.slot, port := d.port, tok := t, at_ := now, frozen := false }

/-- Puts a token into an incoming link of the unit its destination stands on (R449). A token for a bent that is sealed goes to
the partition's catch buffer (R230); one for a raising that is gone is dropped. -/
def State.intoLink (s : State) (rid link : Nat) (d : Dest) (t : Token) : State :=
  match s.raising? rid, s.slot? rid d.blk d.slot with
  | some r, some p =>
    match r.bents[d.bent]? with
    | some b =>
      if b.isSealed || r.state != .running then
        s.updPart r.vdr.part (fun q => { q with catch_ := q.catch_ ++ [{ rid := rid, dest := d, tok := t }] })
      else
        let w := (link, arriving d t s.now)
        match p.loc with
        | .elem cx cy => s.updElem { rid := rid, bent := d.bent } cx cy (fun e => { e with link := e.link ++ [w] })
        | .station cX cY => s.updClus { rid := rid, bent := d.bent } cX cY (fun c => { c with link := c.link ++ [w] })
    | none => s
  | _, _ => s

/-- Appends a message to a queue of a router output. -/
def State.enqueue (s : State) (node out : Node) (vc sub : Nat) (m : Msg) : State :=
  let hit := fun q : FQueue => q.node == node && q.out == out && q.vc == vc && q.sub == sub
  if s.fqueues.any hit then { s with fqueues := updIf s.fqueues hit (fun q => { q with msgs := q.msgs ++ [m] }) }
  else { s with fqueues := s.fqueues ++ [{ node := node, out := out, vc := vc, sub := sub, msgs := [m] }] }

/-- The router at which a node stands: no fenced one (R21). -/
def State.standing (s : State) (n : Node) : Node :=
  match n with
  | .cell c => .cell (s.portCell c)
  | n => n

/-- Injects a message at a router (R191, R195): it waits there for its first hop. -/
def State.inject (s : State) (n : Node) (m : Msg) : State := s.enqueue (s.standing n) (s.standing n) m.vc 0 m

/-- Injects a message under a new number. -/
def State.injectNew (s : State) (n : Node) (m : Msg) : State := s.newId.2.inject n { m with mid := s.newId.1 }

/-- The DEST of a unit that serves a cell: the egress and the ingress of its die stand at the die's first cell (R192). -/
def FUnit.atDie (u : FUnit) (c : CellId) : CellId :=
  match u with
  | .egress => dieCell c.pkg c.die
  | .ingress => dieCell c.pkg c.die
  | _ => c

/-- A header-only message of the Geyser lane or a SACK (R193). -/
def State.sendHeader (s : State) (kind : MKind) (src dst : CellId) (part : Nat) (unit : FUnit) (sp : Option Space) (seq : Nat)
    (tag : Tag) (body : MBody) : State :=
  let (id, s) := s.newId
  s.inject (.cell src)
    { mid := id, kind := kind, src := src, dst := unit.atDie dst, unit := unit, hubDst := false, tag := tag, len := 0, trim := false, gen := 0,
      seq := seq, space := sp, part := part, sub := 0, body := body }

/-- Whether a bent's rectangle holds a package cell. -/
def Bent.holdsCell (b : Bent) (c : CellId) : Bool :=
  c.pkg == b.pkg && b.x0 ≤ c.x && c.x < b.x0 + b.w && b.y0 ≤ c.y && c.y < b.y0 + b.h

/-- The messages of a token: one of at most 16 flits; of a longer tile burst, full ones first and then the one that ends it (R25, R189). -/
def tokMsgs (rid : Nat) (d : Dest) (t : Token) (m : Msg) : List Msg :=
  (List.range (t.body.length / 16)).map (fun i => { m with len := 15, body := .burst rid d (((t.pay :: t.body).drop (16 * i)).take 16) }) ++ [m]

/-- Sends a token from a cell to a port: within the cell through its own router, else as a TOKEN message, whose DEST is canonical while it stays in
the sender's bent (R59, R190, R191, R193). -/
def State.sendTok (s : State) (rid : Nat) (src : CellId) (d : Dest) (t : Token) : State :=
  match s.raising? rid, s.slot? rid d.blk d.slot with
  | some r, some p =>
    match r.bents[d.bent]? with
    | some b =>
      let q := s.slotCell b p
      if b.cell q.1 q.2 = src then s.intoLink rid 0 d t
      else
        let rel := b.holdsCell src && q.1 < b.w && q.2 < b.h
        let m : Msg :=
          { mid := 0, kind := .token, src := src, vrel := rel, shape := t.shape,
            dst := if rel then { pkg := { px := 0, py := 0 }, x := q.1, y := q.2 } else b.cell q.1 q.2, unit := .slot rid d, hubDst := false, tag := t.tag,
            len := t.body.length % 16, trim := false, gen := s.genOf src, seq := t.seq, space := none, part := r.vdr.part, sub := 0,
            body := .tok rid d t }
        (tokMsgs rid d t m).foldl (fun s m => s.injectNew (.cell src) m) s
    | none => s
  | _, _ => s

/-! ## The firing in the latch -/

/-- A firing as a meaning sees it: where it stands, its slot, and its operand tokens (R27). -/
structure Ctx where
  br : BentRef
  u : UnitLoc
  blk : Nat
  slot : Nat
  tag : Tag
  a : Option WaitTok
  b : Option WaitTok
  p : Option WaitTok
deriving DecidableEq, Repr

/-- The firing of the latch. -/
def State.firing? (s : State) : Option Ctx :=
  match s.cur with
  | .firing br u r _ => some { br := br, u := u, blk := r.blk, slot := r.slot, tag := r.tag, a := r.a, b := r.b, p := r.p }
  | _ => none

/-- The package cell from which a unit's emissions leave: the element's cell, or the cell a station's slot names. -/
def State.srcCell (s : State) (c : Ctx) : CellId :=
  match s.bent? c.br, s.slot? c.br.rid c.blk c.slot with
  | some b, some p => b.cell (s.slotCell b p).1 (s.slotCell b p).2
  | _, _ => { pkg := { px := 0, py := 0 }, x := 0, y := 0 }

/-- The canonical cell of the slot of a firing. -/
def State.ctxCell (s : State) (c : Ctx) : Nat × Nat :=
  match c.u with
  | .elem cx cy => (cx, cy)
  | .station _ _ => match s.slot? c.br.rid c.blk c.slot with
    | some p => (p.cx, p.cy)
    | none => (0, 0)

/-! ## The Sill's view of a firing -/

/-- The window entry that a tag of a timeline names: the one whose timestamp agrees modulo 4,096 (R42). -/
def Timeline.entry? (t : Timeline) (tag : Tag) : Option WinEntry := t.win.find? (fun e => e.ts % 4096 == tag.iter)

/-- Changes the window entry of a tag. -/
def Timeline.updEntry (t : Timeline) (tag : Tag) (f : WinEntry → WinEntry) : Timeline :=
  { t with win := updIf t.win (fun e => e.ts % 4096 == tag.iter) f }

/-- Changes a timeline of a bent. -/
def State.updTl (s : State) (br : BentRef) (tl : Nat) (f : Timeline → Timeline) : State :=
  s.updBent br (fun b => { b with timelines := b.timelines.modify tl f })

/-- Whether a block is of class ORDERED (R40). -/
def State.isOrdered (s : State) (rid blk : Nat) : Bool :=
  match s.block? rid blk with
  | some b => b.ordered
  | none => false

/-- The timeline of a firing of an ORDERED block. -/
def State.ctxTl (s : State) (c : Ctx) : Option Nat :=
  if s.isOrdered c.br.rid c.blk then
    match s.block? c.br.rid c.blk with
    | some b => some b.timeline
    | none => none
  else none

/-- Changes the window entry of a firing's activation. -/
def State.updEntry (s : State) (c : Ctx) (f : WinEntry → WinEntry) : State :=
  match s.ctxTl c with
  | some tl => s.updTl c.br tl (fun t => t.updEntry c.tag f)
  | none => s

/-- Whether the activation of a firing is the oldest of its timeline (R47); true for a FREE block. -/
def State.isOldest (s : State) (c : Ctx) : Bool :=
  match s.ctxTl c, s.bent? c.br with
  | some tl, some b =>
    match b.timelines[tl]? with
    | some t => match t.win with
      | e :: _ => e.ts % 4096 == c.tag.iter
      | [] => true
    | none => true
  | _, _ => true

/-! ## Emission -/

/-- Emits a token to one port. A token that an ORDERED activation sends outside its own block is held in the Sill until the
commit (R46). -/
def State.emitTo (s : State) (c : Ctx) (d : Dest) (t : Token) : State :=
  if s.isOrdered c.br.rid c.blk && !(d.bent == c.br.bent && d.blk == c.blk) then
    s.updEntry c (fun e => { e with held := e.held ++ [(d, t)] })
  else s.sendTok c.br.rid (s.srcCell c) d t

/-- The ports a target code of a firing names. -/
def State.dests (s : State) (c : Ctx) (t : BitVec 9) : List Dest :=
  match s.raising? c.br.rid with
  | some r => targetDests r.blocks c.br.bent c.blk t
  | none => []

/-- Emits a token to every port that a target code names (R6, R51). The copies of a fan list leave in the list's order, so two of them for one
unit that cross one link arrive there in that order; R52 and R51 state no order between them (log 80). -/
def State.emit (s : State) (c : Ctx) (t : BitVec 9) (k : Token) : State :=
  (s.dests c t).foldl (fun s d => s.emitTo c d k) s

/-- Emits a token to T0 and to T1. -/
def State.emit2 (s : State) (c : Ctx) (o : SlotOps) (k : Token) : State := (s.emit c o.t0 k).emit c o.t1 k

/-- A scalar token (R25). -/
def scalarTok (tag : Tag) (v : Nat) : Token :=
  { pay := BitVec.ofNat 256 (v % 2 ^ 64), tag := tag, shape := .scalar, seq := 0, body := [] }
/-- A vector token (R25). -/
def vectorTok (tag : Tag) (v : W256) : Token := { pay := v, tag := tag, shape := .vector, seq := 0, body := [] }
/-- A null token (R25). -/
def nullTok (tag : Tag) : Token := { pay := 0, tag := tag, shape := .null, seq := 0, body := [] }

/-! ## FLAGS and WARN -/

/-- ORs flags into the FLAGS word of a unit: an element's own word, or the bent's engine flag word (R131). -/
def State.raiseFlags (s : State) (br : BentRef) (u : UnitLoc) (f : BitVec 8) : State :=
  match u with
  | .elem cx cy => s.updElem br cx cy (fun e => { e with flags := e.flags ||| f })
  | .station _ _ => s.updBent br (fun b => { b with engFlags := b.engFlags ||| f })

/-- ORs bits into the WARN word of a unit (R294). -/
def State.raiseWarn (s : State) (br : BentRef) (u : UnitLoc) (w : BitVec 30) : State :=
  match u with
  | .elem cx cy => s.updElem br cx cy (fun e => { e with warn := e.warn ||| w })
  | .station _ _ => s.updBent br (fun b => { b with engWarn := b.engWarn ||| w })

/-- ORs bits into NONDET of an element (R30, R54, R271). -/
def State.raiseNondet (s : State) (br : BentRef) (cx cy : Nat) (n : BitVec 2) : State :=
  s.updElem br cx cy (fun e => { e with nondet := e.nondet ||| n })

/-- The WARN bit of a row of R295. -/
def warnBit (n : Nat) : BitVec 30 := BitVec.ofNat 30 (2 ^ n)

/-! ## Rows and spill -/

/-- What a partition owns on a package (R222). -/
def Partition.share (p : Partition) (q : Pkg) : PartLayout := ((p.shares.find? (·.1 == q)).map (·.2)).getD p.lay

/-- The row quota of a partition on a package (R35, R222). -/
def Partition.quotaOn (p : Partition) (q : Pkg) : Nat := ((p.shares.find? (·.1 == q)).map (·.2.quota)).getD p.quota

/-- The row quota of a bent's partition on its package (R35, R222). -/
def State.quotaOf (s : State) (br : BentRef) : Nat :=
  match s.part? (s.vdOf br.rid).part, s.bent? br with
  | some p, some b => p.quotaOn b.pkg
  | some p, none => p.quota
  | none, _ => 512

/-- The rows an element's tokens occupy: waiting tokens, the rows of JOIN and CMB, and parked stream elements (R35, R54, R179, R356). -/
def Elem.rowsUsed (e : Elem) : Nat :=
  e.rows.length + e.join.length + e.cmb.length +
    (e.streams.map (fun x => if x.stalled then 0 else x.parked.length - x.spilled.length)).foldl (· + ·) 0

/-- The bytes of a spill entry (R36). -/
def spillEntryBytes : Nat := 64

/-- The rows used at a unit. -/
def State.rowsUsed (s : State) (br : BentRef) (u : UnitLoc) : Nat :=
  match u with
  | .elem cx cy => match s.elem? br cx cy with
    | some e => e.rowsUsed
    | none => 0
  | .station cX cY => match s.clus? br cX cY with
    | some c => c.rows.length
    | none => 0

/-- Adds a waiting token to the rows of a unit. -/
def State.pushRow (s : State) (br : BentRef) (u : UnitLoc) (w : WaitTok) : State :=
  match u with
  | .elem cx cy => s.updElem br cx cy (fun e => { e with rows := e.rows ++ [w] })
  | .station cX cY => s.updClus br cX cY (fun c => { c with rows := c.rows ++ [w] })

/-! ## Faults -/

/-- Cycles for which a bent has been running since its phase was launched (R229). -/
def Bent.cycles (b : Bent) (now : Nat) : Nat :=
  b.cycAcc + (match b.runFrom with
    | some t => now - t
    | none => 0)

/-- Stops a bent's clock (R229). -/
def Bent.stopClock (b : Bent) (now : Nat) : Bent := { b with cycAcc := b.cycles now, runFrom := none }

/-- Starts a bent's clock. -/
def Bent.startClock (b : Bent) (now : Nat) : Bent := { b with runFrom := match b.runFrom with
  | some t => some t
  | none => if b.frozen then none else some now }

/-- The number of a port in a record (R187). -/
def Port.code : Port → Nat
  | .a => 0
  | .b => 1
  | .p => 2

/-- The code of a SHAPE (R25). -/
def Shape.code (x : Shape) : Nat :=
  match x with
  | .scalar => 0
  | .vector => 1
  | .null => 2
  | .tileHead => 3

/-- The fields of a record, each with its width, from bit 511 down (R187). -/
def FaultRec.fields (r : FaultRec) : List (Nat × Nat) :=
  [(16, r.cause), (4, r.part), (6, r.vdid), (6, r.bent), (32, r.raiseid), (5, r.ecx), (5, r.ecy), (1, r.eng.toNat), (5, r.unit),
   (12, r.blk), (7, r.slot), (2, r.port), (3, 0), (32, r.tag.toNat), (64, r.addr), (2, r.level), (1, r.wr.toNat), (1, r.park.toNat), (4, 0),
   (32, r.j), (16, r.refc), (16, r.fire), (9, r.sub), (7, r.grp), (6, r.kstep), (2, r.acc), (24, 0), (64, r.seq), (64, r.aux), (64, r.cycle)]

/-- The 512 bits of a record (R187). -/
def FaultRec.bits (r : FaultRec) : Nat := r.fields.foldl (fun n f => n * 2 ^ f.1 + f.2 % 2 ^ f.1) 0

/-- The physical address of the next record of a fault ring, 64-byte aligned (R187; log 99). -/
def FaultRing.next (r : FaultRing) : Nat := 64 * (r.base / 64 + r.wr % r.cap)

/-- Writes a record's 64 bytes, lowest first, to a partition's fault ring in the HBM of a package, if the ring has memory (R4, R187). -/
def State.ringWrite (s : State) (pkg : Pkg) (p : Partition) (r : FaultRec) : State :=
  if p.ring.cap = 0 then s
  else (s.writeBytes (gaOf pkg p.ring.next) (bytesOf 64 r.bits)).updPart p.lay.part
    (fun p => { p with ring := { p.ring with wr := p.ring.wr + 1 } })

/-- Writes a record to a partition's fault ring with the next SEQ of a package, and signals Kiln, which has it in `faults` (R187). -/
def State.pushRecord (s : State) (pkg : Pkg) (part : Nat) (f : Nat → FaultRec) : State :=
  let seq := match s.plat? pkg with
    | some p => p.faultSeq.toNat
    | none => 0
  let t := (s.updPart part (fun p => { p with faults := p.faults ++ [f seq] })).updPlat pkg
    (fun p => { p with faultSeq := p.faultSeq + 1 })
  match s.part? part with
  | some p => t.ringWrite pkg p (f seq)
  | none => t

/-- Where a fault of a bent stands in its record: canonical cell, ENG and UNIT (R187). -/
structure FaultPlace where
  ecx : Nat
  ecy : Nat
  eng : Bool
  unit : Nat
deriving DecidableEq, Repr

/-- The record fields of an element or of a Truss station (R187). -/
def UnitLoc.place : UnitLoc → FaultPlace
  | .elem cx cy => { ecx := cx, ecy := cy, eng := false, unit := 0 }
  | .station cX cY => { ecx := 4 * cX, ecy := 4 * cY, eng := true, unit := 0 }

/-- Writes the fault record of a unit of a bent (R187). -/
def State.recordAt (s : State) (br : BentRef) (pl : FaultPlace) (blk slot port : Nat) (tag : Tag) (i : FaultInfo)
    (refc : Nat) (ctr : Nat × Nat × Nat × Nat × Nat) : State :=
  match s.bent? br with
  | some b =>
    let v := s.vdOf br.rid
    s.pushRecord b.pkg v.part (fun seq =>
      { cause := i.cause.code, part := v.part, vdid := v.vd, bent := br.bent, raiseid := br.rid, ecx := pl.ecx, ecy := pl.ecy,
        eng := pl.eng, unit := pl.unit, blk := blk, slot := slot, port := Nat.max port i.port, tag := tag, addr := i.addr, level := i.level,
        wr := i.wr, park := i.park, j := i.j, refc := refc, fire := ctr.1, sub := ctr.2.1, grp := ctr.2.2.1,
        kstep := ctr.2.2.2.1, acc := ctr.2.2.2.2, seq := seq, aux := i.aux, cycle := b.cycles s.now })
  | none => s

/-- Writes the record of a fault or advisory of a firing's unit. -/
def State.record (s : State) (br : BentRef) (u : UnitLoc) (blk slot : Nat) (tag : Tag) (i : FaultInfo) (refc : Nat) : State :=
  s.recordAt br u.place blk slot 0 tag i refc (0, 0, 0, 0, 0)

/-- The parked stream elements of a bent that lie in its spill area (R179): cell, stream and element. -/
def Bent.spilledParks (b : Bent) : List (Nat × Nat × Nat × Nat) :=
  b.elems.flatMap (fun e => e.streams.flatMap (fun x => x.spilled.map (fun j => (e.cx, e.cy, x.id, j))))

/-- What lies in a bent's spill area beside its tokens, as 64-byte entries: deferred readers that overflow into it (R84), and parked stream elements
(R179). -/
def State.overflow (s : State) (br : BentRef) : Nat :=
  (s.deferred.filter (fun d => !d.pool && ((s.req? d.req).elim false (·.br == br)))).length +
    ((s.bent? br).elim [] (·.spilledParks)).length

/-- A spill of a token (R36, R38): into its bent's spill ring, counted in SPILLCNT; with the spill area full the bent freezes
with SPILL_EXHAUSTED, and the token is kept. -/
def State.spillTok (s : State) (br : BentRef) (u : UnitLoc) (w : WaitTok) : State :=
  match s.bent? br with
  | some b =>
    if (b.spill.length + s.overflow br + 1) * spillEntryBytes ≤ b.spillSize then
      s.updBent br (fun b => { b with spill := b.spill ++ [w], spillCnt := satInc b.spillCnt })
    else
      let s := s.updBent br (fun b => { b.stopClock s.now with spill := b.spill ++ [w], spillCnt := satInc b.spillCnt, frozen := true })
      if b.frozen then s else s.record br u w.blk w.slot w.tok.tag { cause := .spillExhausted } 0
  | none => s

/-- A parked stream element with no free row is spilled as a token is (R36, R38, R179). -/
def State.spillPark (s : State) (br : BentRef) (cx cy blk slot id j : Nat) (tag : Tag) : State :=
  match s.bent? br with
  | some b =>
    let full := b.spillSize < (b.spill.length + s.overflow br + 1) * spillEntryBytes
    let s := (s.updElem br cx cy (fun e => { e with streams := updIf e.streams (·.id == id) (fun x => { x with spilled := x.spilled ++ [j] }) })).updBent br
      (fun b => { b with spillCnt := satInc b.spillCnt })
    if full && !b.frozen then
      (s.updBent br (fun b => { b.stopClock s.now with frozen := true })).record br (.elem cx cy) blk slot tag { cause := .spillExhausted } 0
    else s
  | none => s

/-- Whether tokens of a unit lie in its bent's spill ring: a row that becomes free is theirs first (R37). -/
def State.hasSpill (s : State) (br : BentRef) (u : UnitLoc) : Bool :=
  (s.bent? br).elim false (fun b => b.spill.any (fun w => (s.slot? br.rid w.blk w.slot).elim false (fun p => p.loc == u)))

/-- Whether a row is free within the quota. -/
def State.rowFree (s : State) (br : BentRef) (u : UnitLoc) : Bool := s.rowsUsed br u < s.quotaOf br

/-- Whether the operands of the firing in the latch held rows until it was chosen, so that they return to rows of their own (R30, R449). -/
def State.ownRows (s : State) : Bool :=
  match s.cur with
  | .firing _ _ _ own => own
  | _ => false

/-- Puts a waiting token into a row of its unit, or spills it when no row is free within the quota, or spilled tokens of the unit have a claim on
the free one (R35, R36, R37). -/
def State.keepTok (s : State) (br : BentRef) (u : UnitLoc) (w : WaitTok) : State :=
  if s.rowFree br u && (s.ownRows || !s.hasSpill br u) then s.pushRow br u w else s.spillTok br u w

/-- Puts the operands of a firing back as waiting tokens, marked frozen or not (R30). -/
def State.keepOperands (s : State) (c : Ctx) (frozen : Bool) : State :=
  (c.a.toList ++ c.b.toList ++ c.p.toList).foldl (fun s w => s.keepTok c.br c.u { w with frozen := frozen }) s

/-- The frozen work of a tag at a slot of a bent. -/
def Bent.frozen? (b : Bent) (u : UnitLoc) (blk slot : Nat) (tag : Tag) : Option Frozen :=
  (b.frozenTags.find? (fun f => f.1 == u && f.2.blk == blk && f.2.slot == slot && f.2.tag == tag)).map (·.2)

/-- Adds or replaces the frozen work of a tag. -/
def Bent.setFrozen (b : Bent) (u : UnitLoc) (f : Frozen) : Bent :=
  { b with frozenTags :=
      b.frozenTags.filter (fun g => !(g.1 == u && g.2.blk == f.blk && g.2.slot == f.slot && g.2.tag == f.tag)) ++ [(u, f)] }

/-- Removes the frozen work of a tag. -/
def Bent.clearFrozen (b : Bent) (u : UnitLoc) (blk slot : Nat) (tag : Tag) : Bent :=
  { b with frozenTags := b.frozenTags.filter (fun g => !(g.1 == u && g.2.blk == blk && g.2.slot == slot && g.2.tag == tag)) }

/-- The number of the port whose token made an instruction fire: of its A token where it has one (R187). -/
def Ctx.portCode (c : Ctx) : Nat :=
  if c.a.isSome then Port.code .a else if c.b.isSome then Port.code .b else if c.p.isSome then Port.code .p else Port.code .a

/-- Counts a refault of a bent when a walk found it (R39, R180). -/
def State.countRefault (s : State) (br : BentRef) (refc : Nat) (c : Cause) : State :=
  if refc = 0 || !c.walked then s else s.updBent br (fun b => { b with refaultCnt := satInc b.refaultCnt })

/-- TAKING A FAULT (R30, R47, R179, R180, R187): the instruction is frozen under its tag and consumes nothing; its operands become
waiting tokens marked frozen. In an ORDERED activation that is not the oldest of its timeline the Sill holds the fault and no
record is written; otherwise the record is written. `refc` is the count of consecutive refaults; the seventeenth fault in a row
is reported as REFAULT_LOOP. -/
def State.takeFault (s : State) (c : Ctx) (i : FaultInfo) (refc : Nat) : State :=
  let s := s.countRefault c.br refc i.cause
  let i := { i with port := c.portCode }
  let i := if 16 ≤ refc then { i with cause := .refaultLoop } else i
  let s := s.keepOperands c true
  let held := !s.isOldest c
  let s := s.updBent c.br (fun b => b.setFrozen c.u
    { blk := c.blk, slot := c.slot, tag := c.tag, info := i, refc := refc, held := held, work := none })
  if held then s.updEntry c (fun e => { e with faults := e.faults ++ [(i, c.blk, c.slot)] })
  else s.record c.br c.u c.blk c.slot c.tag i refc

/-- A fault of work that a unit does for a firing whose operands are consumed (R159, R179): a stream element, a copy, a batch, a statistics
update. The work is noted as frozen under a tag with its number, and the record names the unit. -/
def State.workFault (s : State) (br : BentRef) (u : UnitLoc) (pl : FaultPlace) (blk slot : Nat) (tag : Tag) (work : Nat)
    (i : FaultInfo) (ctr : Nat × Nat × Nat × Nat × Nat := (0, 0, 0, 0, 0)) : State :=
  let refc := match (s.bent? br).bind (·.frozen? u blk slot tag) with
    | some f => f.refc + 1
    | none => 0
  let s := s.countRefault br refc i.cause
  let i := if 16 ≤ refc then { i with cause := .refaultLoop } else i
  let s := s.updBent br (fun b => b.setFrozen u
    { blk := blk, slot := slot, tag := tag, info := i, refc := refc, held := false, work := some work })
  s.recordAt br pl blk slot 0 tag i refc ctr

/-- The refault count of a firing's tag: one more than that of the frozen work it replays, else 0 (R180). -/
def State.refcOf (s : State) (c : Ctx) : Nat :=
  match (s.bent? c.br).bind (·.frozen? c.u c.blk c.slot c.tag) with
  | some f => f.refc + 1
  | none => 0

/-- A precise fault of a firing. -/
def State.fault (s : State) (c : Ctx) (i : FaultInfo) : State := s.takeFault c i (s.refcOf c)

/-- An advisory of a firing (R188): the record is written and execution continues. -/
def State.advise (s : State) (c : Ctx) (i : FaultInfo) : State := s.record c.br c.u c.blk c.slot c.tag i 0

/-- RETURNING FROM A FAULT (R180): Kiln replays a frozen tag. The operands lose their mark, so that the instruction can fire
again under the same tag with the same operands; the frozen work keeps its count until a walk succeeds. -/
def State.replayTag (s : State) (br : BentRef) (u : UnitLoc) (blk slot : Nat) (tag : Tag) : State :=
  let thaw := fun w : WaitTok =>
    if w.blk == blk && w.slot == slot && w.tok.tag == tag then { w with frozen := false } else w
  let s := s.updBent br (fun b => { b with spill := b.spill.map thaw })
  match u with
  | .elem cx cy => s.updElem br cx cy (fun e => { e with rows := e.rows.map thaw })
  | .station cX cY => s.updClus br cX cY (fun c => { c with rows := c.rows.map thaw })

/-! ## Energy -/

/-- Charges a raising for one unit of work, and its partition's sum with it (R236). -/
def State.charge (s : State) (rid what : Nat) : State :=
  (s.updRaising rid (fun r => { r with used := r.used + Config.charge what })).updPart (s.vdOf rid).part
    (fun p => { p with charged := p.charged + Config.charge what })

/-- Charges a raising for n accesses (R236). -/
def State.chargeAccesses (s : State) (rid n : Nat) : State := (List.range n).foldl (fun s _ => s.charge rid 0x1000) s

/-- Charges a firing or an access to its raising, and to its activation where it has one, which an abort refunds (R236). -/
def State.chargeAct (s : State) (c : Ctx) (what : Nat) : State :=
  (s.charge c.br.rid what).updEntry c (fun e => { e with charged := e.charged + Config.charge what })

/-- Refunds charges of a raising (R236). -/
def State.refund (s : State) (rid n : Nat) : State :=
  (s.updRaising rid (fun r => { r with used := r.used - n })).updPart (s.vdOf rid).part (fun p => { p with charged := p.charged - n })

/-- Whether a firing replays frozen work, which was charged when it first began (R180, R236). -/
def State.replays (s : State) (c : Ctx) : Bool :=
  ((s.bent? c.br).bind (·.frozen? c.u c.blk c.slot c.tag)).elim false (·.work.isNone)

end Sys2Proof.Machine
end

