-- ==== Sys2Proof/Machine/Operands.lean ====
section
/-! DEFINITION. The operand forms: which ports an instruction requires (R27, R274, R453), how tokens that wait are matched (R27,
R30), lanes of a payload (R26, R119, R278), the types that execute (R295), immediates (R275), and the cases of the firing rule
(R28). -/

namespace Sys2Proof.Machine

open Sys2Proof

/-! ## Required ports -/

/-- Whether an instruction's entry admits an immediate on port B (R275, R304, R339, R364, R404, R417, R447). -/
def admitsImm : Instr → Bool
  | .add _ | .sub _ | .mul _ | .mulh _ | .div _ | .rem _ | .min _ | .max _ | .and _ | .or _ | .xor _ | .andn _ | .shl _
  | .shr _ | .sar _ | .rot _ | .sext _ | .zext _ | .adds _ | .subs _ => true
  | .fadd _ | .fsub _ | .fmul _ | .fdiv _ | .fmin _ | .fmax _ | .fscl _ => true
  | .shuf _ => true
  | _ => false

/-- Whether an instruction always reads a second data operand on port B when its B is not bound. -/
def readsB : Instr → Bool
  | .mad _ | .cmp _ | .sel _ | .lea _ | .ffma _ | .fcmp _ | .pow _ | .pack _ | .st _ | .sti _
  | .atomAdd _ | .atomOr _ | .atomSwap _ | .atomCas _ | .scat _ | .mcst _ | .cpys _ | .barw _
  | .rst _ | .rstp _ | .rsto _ | .ratmAdd _ | .ratmOr _ | .ratmSwap _ | .ratmCas _ => true
  | .cvt o => o.x.getLsbD 5
  | .cpy o => o.x.getLsbD 18
  | i => admitsImm i

/-- How a slot takes its tokens: by matching ports under one tag (R27), or each data token as a firing of its own (R30, R453); for MMAM
port P goes with port A only (R375). -/
inductive PortRule where
  | pair (a b p : Bool)
  | each (p : Bool)
  | mask (p : Bool)
  | steer
  | merge
deriving DecidableEq, Repr

/-- Whether PR makes port P required (R27, R28, R274). -/
def slotPredicated (o : SlotOps) : Bool := o.pr == 1 || o.pr == 2

/-- The rule by which a slot takes its tokens. -/
def portRule (i : Instr) (bNamed : Bool) : PortRule :=
  let p := match i.ops? with
    | some o => slotPredicated o
    | none => false
  match i with
  | .steer _ => .steer
  | .merge _ => .merge
  | .gate _ => .each false
  | .kbndAdmit _ | .kbndRetire _ | .reord _ | .cmb _ | .swr _ => .each p
  | .join _ | .scrb _ | .stad _ | .stsnk _ => .each false
  | .mmam _ => .mask p
  | .gath _ => .pair true bNamed p
  | i => .pair true (readsB i && (bNamed || !admitsImm i)) p

/-- The instruction of a slot: the retirement of KBND when the token came on port B (R34). -/
def stationInstr (w : W64) (port : Port) : Option Instr :=
  match decodeSlot w with
  | .ok (.kbndAdmit o) => some (if port = .b then .kbndRetire o else .kbndAdmit o)
  | .ok i => some i
  | .error _ => none

/-- The first waiting token of a slot, port and tag that is not frozen. -/
def findTok (rows : List WaitTok) (blk slot : Nat) (port : Port) (tag : Tag) : Option WaitTok :=
  rows.find? (fun w => w.blk == blk && w.slot == slot && w.port == port && w.tok.tag == tag && !w.frozen)

/-- The ready entry that a token completes with the tokens that wait, if it completes one (R27, R371, R453). `w` is the
arriving token; a data token of a slot whose rule is `each` needs its P token only. -/
def matchTok (rule : PortRule) (rows : List WaitTok) (w : WaitTok) : Option Ready :=
  let get := fun port => if w.port = port then some w else findTok rows w.blk w.slot port w.tok.tag
  let base : Ready := { blk := w.blk, slot := w.slot, tag := w.tok.tag, a := none, b := none, p := none }
  match rule with
  | .pair na nb np =>
    let a := get .a; let b := get .b; let p := get .p
    if (na && a.isNone) || (nb && b.isNone) || (np && p.isNone) then none
    else some { base with a := if na then a else none, b := if nb then b else none, p := if np then p else none }
  | .each np =>
    if w.port = .p then
      if np then
        match get .a, get .b with
        | some a, some b => some (if a.at_ ≤ b.at_ then { base with a := some a, p := some w } else { base with b := some b, p := some w })
        | some a, none => some { base with a := some a, p := some w }
        | none, some b => some { base with b := some b, p := some w }
        | none, none => none
      else some { base with p := some w }
    else
      let p := if np then get .p else none
      if np && p.isNone then none
      else some (if w.port = .a then { base with a := some w, p := p } else { base with b := some w, p := p })
  | .mask np =>
    if w.port = .b then some { base with b := some w }
    else
      let a := get .a; let p := get .p
      if a.isNone || (np && p.isNone) then none else some { base with a := a, p := if np then p else none }
  | .steer =>
    match get .a, get .p with
    | some a, some p => some { base with a := some a, p := some p }
    | _, _ => none
  | .merge =>
    match get .p with
    | none => none
    | some p =>
      if p.tok.shape = .null then
        match get .a, get .b with
        | some a, some b => some (if a.at_ ≤ b.at_ then { base with a := some a, p := some p } else { base with b := some b, p := some p })
        | some a, none => some { base with a := some a, p := some p }
        | none, some b => some { base with b := some b, p := some p }
        | none, none => none
      else if p.tok.pay.setWidth 64 ≠ (0 : BitVec 64) then (get .a).map (fun a => { base with a := some a, p := some p })
      else (get .b).map (fun b => { base with b := some b, p := some p })

/-- The bitmap of a list of bits. -/
def bitmap (l : List Bool) : Nat := l.foldr (fun b n => (if b then 1 else 0) + 2 * n) 0

/-- Removes the first occurrence of each operand of a ready entry from a list of rows (R452). -/
def takeRows (rows : List WaitTok) (r : Ready) : List WaitTok :=
  (r.a.toList ++ r.b.toList ++ r.p.toList).foldl (fun l w => l.erase w) rows

/-! ## Truth of P -/

/-- A non-null P token is true when bits 63 to 0 are not all zero (R29). -/
def Token.truth (t : Token) : Bool := t.pay.setWidth 64 != (0 : BitVec 64)

/-- The tokens of a firing. -/
def Ctx.toks (c : Ctx) : List Token := (c.a.toList ++ c.b.toList ++ c.p.toList).map (·.tok)

/-- The A token of a firing, or a null token when it has none. -/
def Ctx.atok (c : Ctx) : Token := match c.a with
  | some w => w.tok
  | none => nullTok c.tag

/-- The B token of a firing, or a null token when it has none. -/
def Ctx.btok (c : Ctx) : Token := match c.b with
  | some w => w.tok
  | none => nullTok c.tag

/-- The outcome of R28 for a firing. -/
inductive FireCase where
  | nullPass
  | off
  | run
deriving DecidableEq, Repr

/-- The case of R28 that a firing falls under. -/
def fireCase (pr : BitVec 2) (c : Ctx) : FireCase :=
  if c.toks.any (fun t => t.shape == .null) then .nullPass
  else match c.p with
    | some p => if (pr == 1 && !p.tok.truth) || (pr == 2 && p.tok.truth) then .off else .run
    | none => .run

/-! ## Lanes -/

/-- Lane width in bits of a type code (R278). -/
def laneBits (ty : Nat) : Nat := 256 / laneCount ty

/-- Size of an element of a type in bytes, at least one (R60, R65). -/
def tyBytes (ty : Nat) : Nat := (laneBits ty + 7) / 8

/-- Lane i of a payload at a width, as a number (R26). -/
def laneAt (v : W256) (w i : Nat) : Nat := v.toNat / 2 ^ (w * i) % 2 ^ w

/-- The n lanes of a payload at a width. -/
def lanesOf (v : W256) (w n : Nat) : List Nat := (List.range n).map (laneAt v w)

/-- The payload of a list of lanes at a width, lane 0 first; the other bits are zero. -/
def packLanes (w : Nat) : List Nat → Nat
  | [] => 0
  | x :: xs => x % 2 ^ w + 2 ^ w * packLanes w xs

/-- The lanes of an operand token: a scalar is replicated to every lane (R26). -/
def Token.lanes (t : Token) (w n : Nat) : List Nat :=
  if t.shape = .scalar then List.replicate n (laneAt t.pay w 0) else lanesOf t.pay w n

/-- The result token of lanes: scalar, with lane 0 alone, when every data operand was scalar, else vector (R26). -/
def laneTok (tag : Tag) (scalar : Bool) (w : Nat) (ls : List Nat) : Token :=
  if scalar then { pay := BitVec.ofNat 256 (ls.headD 0 % 2 ^ w), tag := tag, shape := .scalar, seq := 0, body := [] }
  else { pay := BitVec.ofNat 256 (packLanes w ls), tag := tag, shape := .vector, seq := 0, body := [] }

/-- Whether a token counts as a scalar operand. -/
def Token.isScalar (t : Token) : Bool := t.shape == .scalar

/-! ## Types that execute -/

/-- The type at which the integer and address group executes, and its WARN bits: a floating or sub-byte type executes as the
unsigned integer of its width, or n8, under INTTY (R295 row 9). -/
def intTy (ty : BitVec 4) : Nat × BitVec 30 :=
  match ty.toNat with
  | 8 => (7, warnBit 9) | 9 => (5, warnBit 9) | 10 => (3, warnBit 9) | 11 => (3, warnBit 9)
  | 12 => (1, warnBit 9) | 13 => (1, warnBit 9) | 14 => (1, warnBit 9) | 15 => (1, warnBit 9)
  | n => (n, 0)

/-- The type at which the floating-point group executes: f32 under FPTY outside 0x8 to 0xD (R295 row 6). -/
def fpTy (ty : BitVec 4) : Nat × BitVec 30 :=
  if 8 ≤ ty.toNat ∧ ty.toNat ≤ 0xD then (ty.toNat, 0) else (9, warnBit 6)

/-- The type at which the correctly rounded functions execute: f32 under FNTY (R295 row 7). -/
def fnTy (ty : BitVec 4) : Nat × BitVec 30 :=
  if 8 ≤ ty.toNat ∧ ty.toNat ≤ 0xD then (ty.toNat, 0) else (9, warnBit 7)

/-- The type at which the fast-approximate functions execute: f32 under APTY (R295 row 8). -/
def apTy (ty : BitVec 4) : Nat × BitVec 30 :=
  if 9 ≤ ty.toNat ∧ ty.toNat ≤ 0xB then (ty.toNat, 0) else (9, warnBit 8)

/-- The type at which SHUF, BCST, REDL and SCAN execute: n8 under LANETY (R295 row 10). -/
def laneTy (ty : BitVec 4) : Nat × BitVec 30 := if 0xE ≤ ty.toNat then (1, warnBit 10) else (ty.toNat, 0)

/-- The type at which LD, ST, ATOM and the remote instructions execute: n8 under MEMTY (R295 row 11, R395). -/
def memTy (ty : BitVec 4) : Nat × BitVec 30 := if 0xE ≤ ty.toNat then (1, warnBit 11) else (ty.toNat, 0)

/-- The type at which LDI and STI execute: n64 under WOTY (R295 row 12). -/
def woTy (ty : BitVec 4) : Nat × BitVec 30 :=
  if ty = 6 ∨ ty = 7 ∨ ty = 8 then (ty.toNat, 0) else (7, warnBit 12)

/-- Whether an integer type code is signed (R278). -/
def signedTy (ty : Nat) : Bool := ty % 2 == 0

/-! ## Fields that warn -/

/-- RSVX when a reserved part of X is non-zero (R280, R295 row 15). -/
def rsvx (bad : Bool) : BitVec 30 := if bad then warnBit 15 else 0

/-- RSVC when a reserved bit of a configuration token is non-zero (R295 row 16). -/
def rsvc (bad : Bool) : BitVec 30 := if bad then warnBit 16 else 0

/-- The PR that executes, with PRILL for 11 (R28). -/
def prEff (o : SlotOps) : BitVec 2 × BitVec 30 := if o.pr = 3 then (0, warnBit 0) else (o.pr, 0)

/-- The scope that executes, with SCOPEILL for 10 to 15 (R86). -/
def scopeEff (x : SlotOps) : Nat × BitVec 30 :=
  if 10 ≤ x.xf 20 4 then (9, warnBit 3) else (x.xf 20 4, 0)

/-- TILEHD for each tile-head token at an instruction outside the classes of R25: it is read as a vector (R26). -/
def tilehd (c : Ctx) : BitVec 30 := if c.toks.any (fun t => t.shape == .tileHead) then warnBit 2 else 0

/-- A tile-head token read as a vector (R26). -/
def Token.plain (t : Token) : Token :=
  if t.shape = .tileHead then { t with shape := .vector, seq := 0, body := [] } else t

/-! ## Immediates -/

/-- X sign-extended from bit 28 and taken modulo 2^w (R275). -/
def immInt (x : BitVec 29) (w : Nat) : Nat := (x.toInt % (2 ^ w : Int)).toNat

/-- The slot of a firing. -/
def State.ctxSlot (s : State) (c : Ctx) : Option PSlot := s.slot? c.br.rid c.blk c.slot

/-- Whether port B of a firing's slot is bound to its immediate (R275). -/
def State.bBound (s : State) (c : Ctx) : Bool := c.b.isNone && (match s.ctxSlot c with
  | some p => !p.bNamed
  | none => true)

/-- A constant of the block of a firing (R284). -/
def State.constAt (s : State) (c : Ctx) (i : Nat) : W64 :=
  match s.block? c.br.rid c.blk with
  | some b => b.consts.getD i 0
  | none => 0

end Sys2Proof.Machine
end

