-- ==== Sys2Proof/Machine/Flags.lean ====
section
/-! DEFINITION. The FLAGS bits (R130), the rounding modes (R124, R125), and rounding an exact value into a format with the flags it
raises (R114, R115, R124, R126, R127, R128). -/

namespace Sys2Proof.Machine

open Sys2Proof

/-! ## The bits of FLAGS (R130) -/

/-- Invalid. -/
def flNV : BitVec 8 := 0x01
/-- Division by zero. -/
def flDZ : BitVec 8 := 0x02
/-- Overflow. -/
def flOF : BitVec 8 := 0x04
/-- Underflow. -/
def flUF : BitVec 8 := 0x08
/-- Inexact. -/
def flNX : BitVec 8 := 0x10
/-- Clamped. -/
def flSAT : BitVec 8 := 0x20
/-- Second phase. -/
def flSPH : BitVec 8 := 0x40
/-- Integer overflow. -/
def flIOV : BitVec 8 := 0x80

/-- A flag when a condition holds. -/
def flagIf (b : Bool) (f : BitVec 8) : BitVec 8 := if b then f else 0

/-- The OR of the flags of a list of lanes (R130). -/
def orFlags (l : List (BitVec 8)) : BitVec 8 := l.foldl (· ||| ·) 0

/-! ## Rounding modes -/

/-- The five rounding modes of R124. -/
inductive Rnd where
  | rne | rtz | rup | rdn | rna
deriving DecidableEq, Repr

/-- The mode of a value of RMODE.MODE; 101 to 111 are stored by no rule and read as RNE (R125). -/
def rndCode : Nat → Rnd
  | 1 => .rtz | 2 => .rup | 3 => .rdn | 4 => .rna | _ => .rne

/-- The number of a rounding mode. -/
def Rnd.code : Rnd → Nat
  | .rne => 0 | .rtz => 1 | .rup => 2 | .rdn => 3 | .rna => 4

/-- The mode of a MOD field with RMODE as it stands, and RNDILL for 110 and 111 (R124). -/
def rndOf (mod : BitVec 3) (rmode : BitVec 3) : Rnd × BitVec 30 :=
  if mod = 5 then (rndCode rmode.toNat, 0)
  else if 6 ≤ mod.toNat then (.rne, warnBit 4)
  else (rndCode mod.toNat, 0)

/-- The rounding register of a unit: RMODE of an element, or the engine rounding word of the bent (R125). -/
def State.rmodeOf (s : State) (br : BentRef) (u : UnitLoc) : BitVec 3 :=
  match u with
  | .elem cx cy => match s.elem? br cx cy with
    | some e => e.rmode
    | none => 0
  | .station _ _ => match s.bent? br with
    | some b => b.engRmode
    | none => 0

/-! ## Exact values -/

/-- An exact dyadic value: the sign, and m times 2 to the e. A value with m = 0 is a zero with its sign. -/
structure Dy where
  neg : Bool
  m : Nat
  e : Int
deriving DecidableEq, Repr

/-- A floating-point value (R114): a NaN, signalling or not; an infinity; or a finite value. -/
inductive FVal where
  | nan (sig : Bool)
  | inf (neg : Bool)
  | fin (d : Dy)
deriving DecidableEq, Repr

/-- m shifted left by an amount that may be negative; only used where no bit is lost or the loss is meant. -/
def shiftI (m : Nat) (k : Int) : Nat := if 0 ≤ k then m <<< k.toNat else m >>> (-k).toNat

/-- The signed integer m 2^(e - lo) of a value, for lo at most e. -/
def Dy.intAt (d : Dy) (lo : Int) : Int :=
  let v : Int := Int.ofNat (d.m <<< (d.e - lo).toNat)
  if d.neg then -v else v

/-- The value of an integer times 2^lo; an exact zero takes the sign given. -/
def Dy.ofInt (v : Int) (lo : Int) (zneg : Bool) : Dy :=
  if v = 0 then { neg := zneg, m := 0, e := 0 } else { neg := v < 0, m := v.natAbs, e := lo }

/-- The exact product of two values; the sign is the exclusive-or, for zeros too (R116). -/
def Dy.mul (a b : Dy) : Dy := { neg := a.neg != b.neg, m := a.m * b.m, e := if a.m * b.m = 0 then 0 else a.e + b.e }

/-- The exact sum of a list of values as a value. A zero sum is the zero of R116: the common sign when every term is a zero of that
sign, else negative only under RDN. -/
def Dy.sum (mode : Rnd) (l : List Dy) : Dy :=
  let lo := l.foldl (fun x d => if d.m = 0 then x else min x d.e) (0 : Int)
  let v := l.foldl (fun x d => if d.m = 0 then x else x + d.intAt lo) (0 : Int)
  let zneg := if l.all (fun d => d.m == 0) && l.all (·.neg) then true
    else if l.all (fun d => d.m == 0) && l.all (!·.neg) then false
    else mode == .rdn
  Dy.ofInt v lo zneg

/-- Compares two values: whether the first is less. Zeros are equal. -/
def Dy.lt (a b : Dy) : Bool :=
  let lo := min (if a.m = 0 then 0 else a.e) (if b.m = 0 then 0 else b.e)
  let x := if a.m = 0 then 0 else a.intAt lo
  let y := if b.m = 0 then 0 else b.intAt lo
  x < y

/-- Bits kept of an exact quotient or root beyond any format's, so that the odd-rounded value below rounds as the exact one does. -/
def oddBits : Nat := 200

/-- A value whose magnitude lies in [m, m + 1) times 2^e, kept to one more bit: the last bit is odd exactly when the value is above
m. Rounding it to any coarser place by two bits or more gives the rounding of the exact value. -/
def oddDy (neg : Bool) (m : Nat) (above : Bool) (e : Int) : Dy :=
  { neg := neg, m := 2 * m + (if above then 1 else 0), e := e - 1 }

/-- The quotient of two finite non-zero values to `oddBits` bits and a sticky bit. -/
def Dy.div (a b : Dy) : Dy :=
  if a.m = 0 then { neg := a.neg != b.neg, m := 0, e := 0 }
  else
    let k := oddBits + Nat.log2 b.m + 1
    let n := a.m <<< k
    oddDy (a.neg != b.neg) (n / b.m) (n % b.m != 0) (a.e - b.e - k)

/-- One step of the integer square root from the top bit down: the root so far and the bit to try. -/
def isqrtFrom (n : Nat) : Nat → Nat → Nat
  | 0, r => r
  | k + 1, r =>
    let t := r + (1 <<< k)
    isqrtFrom n k (if t * t ≤ n then t else r)

/-- The integer square root. -/
def isqrt (n : Nat) : Nat := isqrtFrom n (Nat.log2 n / 2 + 1) 0

/-- The square root of a finite value that is not negative, to `oddBits` bits and a sticky bit. -/
def Dy.sqrt (a : Dy) : Dy :=
  if a.m = 0 then a
  else
    let k := 2 * oddBits + (a.e % 2).toNat
    let n := a.m <<< k
    let r := isqrt n
    oddDy false r (r * r != n) ((a.e - k) / 2)

/-! ## Formats -/

/-- A floating-point format (R114): width, fraction bits, bias, and which formats have no infinity or no NaN. -/
structure Fmt where
  bits : Nat
  frac : Nat
  bias : Nat
  hasInf : Bool
  hasNan : Bool
deriving DecidableEq, Repr

/-- The format of a type code from 0x8 to 0xE (R114). -/
def fmtOf (ty : Nat) : Fmt :=
  match ty with
  | 0x8 => { bits := 64, frac := 52, bias := 1023, hasInf := true, hasNan := true }
  | 0xA => { bits := 16, frac := 7, bias := 127, hasInf := true, hasNan := true }
  | 0xB => { bits := 16, frac := 10, bias := 15, hasInf := true, hasNan := true }
  | 0xC => { bits := 8, frac := 3, bias := 7, hasInf := false, hasNan := true }
  | 0xD => { bits := 8, frac := 2, bias := 15, hasInf := true, hasNan := true }
  | 0xE => { bits := 4, frac := 1, bias := 1, hasInf := false, hasNan := false }
  | _ => { bits := 32, frac := 23, bias := 127, hasInf := true, hasNan := true }

/-- The largest finite code of a format without its sign (R114). -/
def Fmt.maxCode (f : Fmt) : Nat :=
  if f.hasInf then (2 ^ (f.bits - 1 - f.frac) - 1) * 2 ^ f.frac - 1
  else if f.hasNan then 2 ^ (f.bits - 1) - 2
  else 2 ^ (f.bits - 1) - 1

/-- The code of infinity without its sign, in a format that has it. -/
def Fmt.infCode (f : Fmt) : Nat := (2 ^ (f.bits - 1 - f.frac) - 1) * 2 ^ f.frac

/-- The canonical NaN (R114, R115). -/
def Fmt.nanCode (f : Fmt) : Nat :=
  if f.hasInf then f.infCode + 2 ^ (f.frac - 1) else 2 ^ (f.bits - 1) - 1

/-- The sign bit of a code. -/
def Fmt.signBit (f : Fmt) (neg : Bool) : Nat := if neg then 2 ^ (f.bits - 1) else 0

/-- The exponent of the least significant bit of the subnormals. -/
def Fmt.qmin (f : Fmt) : Int := 1 - Int.ofNat f.bias - Int.ofNat f.frac

/-- The value of a code (R114, R115). -/
def Fmt.decode (f : Fmt) (code : Nat) : FVal :=
  let neg := code / 2 ^ (f.bits - 1) % 2 == 1
  let c := code % 2 ^ (f.bits - 1)
  if f.hasInf && f.infCode < c then .nan (f.bits != 8 && c / 2 ^ (f.frac - 1) % 2 == 0)
  else if f.hasInf && c == f.infCode then .inf neg
  else if !f.hasInf && f.hasNan && f.maxCode < c then .nan false
  else
    let ex := c / 2 ^ f.frac
    let fr := c % 2 ^ f.frac
    if ex = 0 then .fin { neg := neg, m := fr, e := if fr = 0 then 0 else f.qmin }
    else .fin { neg := neg, m := 2 ^ f.frac + fr, e := f.qmin + Int.ofNat ex - 1 }

/-! ## RoundTo -/

/-- The integer to which a magnitude m 2^-s rounds under a mode, and whether it is inexact (R124). -/
def roundNat (mode : Rnd) (neg : Bool) (m s : Nat) : Nat × Bool :=
  let n := m >>> s
  let r := m % 2 ^ s
  if r = 0 then (n, false)
  else
    let up := match mode with
      | .rne => 2 ^ s < 2 * r || (2 * r == 2 ^ s && n % 2 == 1)
      | .rna => 2 ^ s ≤ 2 * r
      | .rtz => false
      | .rup => !neg
      | .rdn => neg
    (if up then n + 1 else n, true)

/-- A magnitude at a quantum 2^q. -/
def roundAt (mode : Rnd) (d : Dy) (q : Int) : Nat × Bool :=
  if q ≤ d.e then (d.m <<< (d.e - q).toNat, false) else roundNat mode d.neg d.m (q - d.e).toNat

/-- Whether a mode takes a finite overflow to infinity (R126). -/
def toInfinity (mode : Rnd) (neg : Bool) : Bool :=
  match mode with
  | .rne => true
  | .rna => true
  | .rtz => false
  | .rup => !neg
  | .rdn => neg

/-- RoundTo of a finite exact value: the code and the flags (R6, R124, R126, R127, R128). `nov` is NOV of R127. -/
def Fmt.round (f : Fmt) (mode : Rnd) (nov : Bool) (d : Dy) : Nat × BitVec 8 :=
  if d.m = 0 then (f.signBit d.neg, 0)
  else
    let lead := Int.ofNat (Nat.log2 d.m) + d.e
    let q0 := lead - Int.ofNat f.frac
    let q := max q0 f.qmin
    let (n, inexact) := roundAt mode d q
    let code := (q - f.qmin).toNat * 2 ^ f.frac + n
    if f.maxCode < code then
      if f.hasInf then
        (f.signBit d.neg + (if toInfinity mode d.neg then f.infCode else f.maxCode), flOF ||| flNX)
      else if nov && f.hasNan then
        (if toInfinity mode d.neg then f.nanCode else f.signBit d.neg + f.maxCode, flOF ||| flNX)
      else (f.signBit d.neg + f.maxCode, flSAT ||| flNX)
    else
      let (n0, _) := roundAt mode d q0
      let tiny := Int.ofNat (Nat.log2 n0) + q0 < 1 - Int.ofNat f.bias
      (f.signBit d.neg + code, if inexact then (if tiny then flUF ||| flNX else flNX) else 0)

/-- Writing a value into a format (R115, R126, R127): a NaN as the canonical NaN, an infinity as R127 has it in a format without one.
An e2m1 code of a NaN is written as the converting rule has it, here as zero. -/
def Fmt.write (f : Fmt) (mode : Rnd) (nov : Bool) : FVal → Nat × BitVec 8
  | .nan _ => (if f.hasNan then f.nanCode else 0, 0)
  | .inf neg =>
    if f.hasInf then (f.signBit neg + f.infCode, 0)
    else if nov && f.hasNan then (f.nanCode, flNV)
    else (f.signBit neg + f.maxCode, flSAT)
  | .fin d => f.round mode nov d

/-- NV for a signalling NaN operand (R115). -/
def FVal.sigFlag : FVal → BitVec 8
  | .nan true => flNV
  | _ => 0

/-- Whether a value is a NaN. -/
def FVal.isNan : FVal → Bool
  | .nan _ => true
  | _ => false

end Sys2Proof.Machine
end

