-- ==== Sys2Proof/Machine/Num.lean ====
section
/-! DEFINITION. Arithmetic on lanes: integers (R122, R123, R306, R404), floating point (R115, R116, R339 to R344), conversions
(R129, R329), reductions in canonical order (R6, R132), and the block-scaled formats (R117 to R121). -/

namespace Sys2Proof.Machine

open Sys2Proof

/-! ## Integers (R122) -/

/-- A lane as the integer it stands for at an integer type. -/
def intOf (ty v : Nat) : Int :=
  let w := laneBits ty
  if signedTy ty && 2 ^ (w - 1) ≤ v then Int.ofNat v - 2 ^ w else Int.ofNat v

/-- The least value of an integer type. -/
def intLo (ty : Nat) : Int := if signedTy ty then -(2 ^ (laneBits ty - 1)) else 0
/-- The greatest value of an integer type. -/
def intHi (ty : Nat) : Int := if signedTy ty then 2 ^ (laneBits ty - 1) - 1 else 2 ^ laneBits ty - 1
/-- Whether a value lies in a type's range. -/
def inRange (ty : Nat) (v : Int) : Bool := intLo ty ≤ v && v ≤ intHi ty
/-- A value modulo 2^w as a lane. -/
def wrapInt (ty : Nat) (v : Int) : Nat := (v % (2 ^ laneBits ty : Int)).toNat
/-- A value clamped to a type's range. -/
def clampInt (ty : Nat) (v : Int) : Int := if v < intLo ty then intLo ty else if intHi ty < v then intHi ty else v

/-- The result of an exact integer modulo 2^w, with IOV when it lies outside the range. -/
def wrapIov (ty : Nat) (v : Int) : Nat × BitVec 8 := (wrapInt ty v, flagIf (!inRange ty v) flIOV)
/-- The result of an exact integer clamped to the range, with SAT. -/
def clampSat (ty : Nat) (v : Int) : Nat × BitVec 8 := (wrapInt ty (clampInt ty v), flagIf (!inRange ty v) flSAT)

/-- The two-operand integer operations of R304, R364, R404 and R447. -/
inductive IntOp2 where
  | add | sub | mul | mulh | div | rem | min | max | and | or | xor | andn | shl | shr | sar | rot | sext | zext | adds | subs
deriving DecidableEq, Repr

/-- One lane of a two-operand integer operation (R122, R304, R364, R404, R447). -/
def intLane2 (op : IntOp2) (ty a b : Nat) : Nat × BitVec 8 :=
  let w := laneBits ty
  let x := intOf ty a
  let y := intOf ty b
  let k := b % w
  match op with
  | .add => wrapIov ty (x + y)
  | .sub => wrapIov ty (x - y)
  | .mul => wrapIov ty (x * y)
  | .mulh => (wrapInt ty (x * y / 2 ^ w), 0)
  | .div => if y = 0 then (0, flDZ) else wrapIov ty (x.tdiv y)
  | .rem => if y = 0 then (a, flDZ) else (wrapInt ty (x.tmod y), flagIf (!inRange ty (x.tdiv y)) flIOV)
  | .min => (if x ≤ y then a else b, 0)
  | .max => (if y ≤ x then a else b, 0)
  | .and => (a &&& b, 0)
  | .or => (a ||| b, 0)
  | .xor => (a ^^^ b, 0)
  | .andn => (a &&& (2 ^ w - 1 - b), 0)
  | .shl => (a * 2 ^ k % 2 ^ w, 0)
  | .shr => (a / 2 ^ k, 0)
  | .sar => (a / 2 ^ k + (if a / 2 ^ (w - 1) % 2 = 1 then 2 ^ w - 2 ^ (w - k) else 0), 0)
  | .rot => ((a * 2 ^ k + a / 2 ^ (w - k)) % 2 ^ w, 0)
  | .sext => (a % 2 ^ (k + 1) + (if a / 2 ^ k % 2 = 1 then 2 ^ w - 2 ^ (k + 1) else 0), 0)
  | .zext => (a % 2 ^ (k + 1), 0)
  | .adds => clampSat ty (x + y)
  | .subs => clampSat ty (x - y)

/-- The one-operand integer operations of R304 and R364. -/
inductive IntOp1 where
  | neg | abs | clz | popc
deriving DecidableEq, Repr

/-- The number of set bits of a number within n bits. -/
def popCount : Nat → Nat → Nat
  | 0, _ => 0
  | n + 1, v => v % 2 + popCount n (v / 2)

/-- One lane of a one-operand integer operation (R304, R364). -/
def intLane1 (op : IntOp1) (ty a : Nat) : Nat × BitVec 8 :=
  let x := intOf ty a
  match op with
  | .neg => wrapIov ty (-x)
  | .abs => wrapIov ty (if x < 0 then -x else x)
  | .clz => (if a = 0 then laneBits ty else laneBits ty - 1 - Nat.log2 a, 0)
  | .popc => (popCount (laneBits ty) a, 0)

/-- The condition of CMP (R306). -/
def intCond (cc : Nat) (x y : Int) : Bool :=
  match cc with
  | 0 => x == y
  | 1 => x != y
  | 2 => x < y
  | 3 => x ≤ y
  | 4 => y < x
  | _ => y ≤ x

/-- All ones or zero in w bits (R306). -/
def maskLane (w : Nat) (b : Bool) : Nat := if b then 2 ^ w - 1 else 0

/-! ## Floating point -/

/-- The product of two values (R116, R339): 0 times infinity is a NaN with NV. -/
def FVal.mul (a b : FVal) : FVal × BitVec 8 :=
  match a, b with
  | .nan _, _ => (.nan false, 0)
  | _, .nan _ => (.nan false, 0)
  | .inf n, .inf k => (.inf (n != k), 0)
  | .inf n, .fin d => if d.m = 0 then (.nan false, flNV) else (.inf (n != d.neg), 0)
  | .fin d, .inf n => if d.m = 0 then (.nan false, flNV) else (.inf (n != d.neg), 0)
  | .fin d, .fin g => (.fin (d.mul g), 0)

/-- The finite values of a list. -/
def finsOf (l : List FVal) : List Dy := l.filterMap (fun v => match v with
  | .fin d => some d
  | _ => none)

/-- The exact sum of a list of values (R116, R132, R133): a NaN gives a NaN, opposite infinities a NaN with NV. -/
def sumVals (mode : Rnd) (l : List FVal) : FVal × BitVec 8 :=
  if l.any (·.isNan) then (.nan false, 0)
  else if l.contains (.inf false) && l.contains (.inf true) then (.nan false, flNV)
  else if l.contains (.inf false) then (.inf false, 0)
  else if l.contains (.inf true) then (.inf true, 0)
  else (.fin (Dy.sum mode (finsOf l)), 0)

/-- The negation of a value. -/
def FVal.negate : FVal → FVal
  | .nan b => .nan b
  | .inf n => .inf (!n)
  | .fin d => .fin { d with neg := !d.neg }

/-- The zero of an operation that is no multiplication and whose exact result is zero (R116): plus, and minus in RDN. -/
def zeroOf (mode : Rnd) : Dy := { neg := mode == .rdn, m := 0, e := 0 }

/-- The exact quotient of two values (R116, R339). -/
def FVal.div (mode : Rnd) (a b : FVal) : FVal × BitVec 8 :=
  match a, b with
  | .nan _, _ => (.nan false, 0)
  | _, .nan _ => (.nan false, 0)
  | .inf _, .inf _ => (.nan false, flNV)
  | .inf n, .fin d => (.inf (n != d.neg), 0)
  | .fin _, .inf _ => (.fin (zeroOf mode), 0)
  | .fin d, .fin g =>
    if g.m = 0 then (if d.m = 0 then (.nan false, flNV) else (.inf (d.neg != g.neg), flDZ))
    else if d.m = 0 then (.fin (zeroOf mode), 0)
    else (.fin (d.div g), 0)

/-- The square root (R116, R339). -/
def FVal.sqrt (mode : Rnd) (a : FVal) : FVal × BitVec 8 :=
  match a with
  | .nan _ => (.nan false, 0)
  | .inf n => if n then (.nan false, flNV) else (.inf false, 0)
  | .fin d => if d.m = 0 then (.fin (if d.neg then d else zeroOf mode), 0)
      else if d.neg then (.nan false, flNV) else (.fin d.sqrt, 0)

/-- Whether a value is below another, with minus zero below plus zero (R54, R339). -/
def FVal.below (a b : FVal) : Bool :=
  match a, b with
  | .nan _, _ => false
  | _, .nan _ => false
  | .inf n, .inf k => n && !k
  | .inf n, .fin _ => n
  | .fin _, .inf n => !n
  | .fin d, .fin g => if d.m = 0 && g.m = 0 then d.neg && !g.neg else d.lt g

/-- Whether two values that are no NaN are equal; minus zero equals plus zero (R341). -/
def FVal.equal (a b : FVal) : Bool :=
  match a, b with
  | .inf n, .inf k => n == k
  | .fin d, .fin g => (d.m == 0 && g.m == 0) || (!d.lt g && !g.lt d)
  | _, _ => false

/-- The lesser or the greater; a NaN when either is (R339). -/
def FVal.pick (greater : Bool) (a b : FVal) : FVal :=
  if a.isNan || b.isNan then .nan false
  else if greater then (if a.below b then b else a) else (if b.below a then b else a)

/-- The flags of R115 of a list of operands. -/
def sigFlags (l : List FVal) : BitVec 8 := orFlags (l.map (·.sigFlag))

/-- A result value and its flags written into a format with the operands' signalling flags. -/
def finishFp (f : Fmt) (mode : Rnd) (ops : List FVal) (r : FVal × BitVec 8) : Nat × BitVec 8 :=
  let w := f.write mode false r.1
  (w.1, w.2 ||| r.2 ||| sigFlags ops)

/-- The two-operand floating-point operations of R339. -/
inductive FpOp2 where
  | add | sub | mul | div | min | max
deriving DecidableEq, Repr

/-- One lane of a two-operand floating-point operation (R339). -/
def fpLane2 (op : FpOp2) (f : Fmt) (mode : Rnd) (a b : Nat) : Nat × BitVec 8 :=
  let x := f.decode a
  let y := f.decode b
  finishFp f mode [x, y] (match op with
    | .add => sumVals mode [x, y]
    | .sub => sumVals mode [x, y.negate]
    | .mul => x.mul y
    | .div => x.div mode y
    | .min => (x.pick false y, 0)
    | .max => (x.pick true y, 0))

/-- One lane of FFMA (R340). -/
def fmaLane (f : Fmt) (mode : Rnd) (a b c : Nat) : Nat × BitVec 8 :=
  let x := f.decode a
  let y := f.decode b
  let z := f.decode c
  let p := x.mul y
  let r := sumVals mode [p.1, z]
  finishFp f mode [x, y, z] (r.1, p.2 ||| r.2)

/-- One lane of FSQRT (R339). -/
def sqrtLane (f : Fmt) (mode : Rnd) (a : Nat) : Nat × BitVec 8 :=
  finishFp f mode [f.decode a] ((f.decode a).sqrt mode)

/-- One lane of FABS or FNEG (R339). -/
def fsignLane (f : Fmt) (neg : Bool) (a : Nat) : Nat × BitVec 8 :=
  let x := f.decode a
  finishFp f .rne [x] (match x with
    | .nan b => .nan b
    | .inf n => .inf (neg && !n)
    | .fin d => .fin { d with neg := neg && !d.neg }, 0)

/-- The condition of FCMP (R341). -/
def fpCond (cc : Nat) (x y : FVal) : Bool :=
  let un := x.isNan || y.isNan
  let eq := x.equal y
  let lt := !un && !eq && x.below y
  match cc with
  | 0 => !un && eq
  | 1 => un || !eq
  | 2 => lt
  | 3 => !un && (lt || eq)
  | 4 => !un && !lt && !eq
  | 5 => !un && !lt
  | 6 => un
  | _ => !un

/-- One lane of FCMP: the mask, and NV for a signalling NaN, or for any NaN under an ordering condition (R341). -/
def fcmpLane (f : Fmt) (cc a b : Nat) : Nat × BitVec 8 :=
  let x := f.decode a
  let y := f.decode b
  (maskLane f.bits (fpCond cc x y),
   sigFlags [x, y] ||| flagIf (2 ≤ cc && cc ≤ 5 && (x.isNan || y.isNan)) flNV)

/-- One lane of FCLAS (R342). -/
def fclasLane (f : Fmt) (a : Nat) : Nat × BitVec 8 :=
  let x := f.decode a
  (match x with
    | .nan sig => if sig then 8 else 9
    | .inf n => if n then 0 else 7
    | .fin d =>
      if d.m = 0 then (if d.neg then 3 else 4)
      else if d.m < 2 ^ f.frac then (if d.neg then 2 else 5)
      else (if d.neg then 1 else 6), x.sigFlag)

/-- One lane of FRND (R343). -/
def frndLane (f : Fmt) (mode : Rnd) (ex : Bool) (a : Nat) : Nat × BitVec 8 :=
  let x := f.decode a
  match x with
  | .fin d =>
    if 0 ≤ d.e then (a, 0)
    else
      let (n, inexact) := roundAt mode d 0
      ((f.round mode false { neg := d.neg, m := n, e := 0 }).1, flagIf (ex && inexact) flNX)
  | _ => finishFp f mode [x] (x, 0)

/-- The integer that a value truncates to, clamped to the range of R344. -/
def sclAmount (d : Dy) : Int :=
  let n : Int := Int.ofNat (roundAt .rtz { d with e := min d.e 40 } 0).1
  let v := if d.neg then -n else n
  max (-65536) (min 65536 v)

/-- One lane of FSCL (R344). -/
def fsclLane (f : Fmt) (mode : Rnd) (a b : Nat) : Nat × BitVec 8 :=
  let x := f.decode a
  let y := f.decode b
  finishFp f mode [x, y] (match x, y with
    | .nan _, _ => (.nan false, flagIf (y == .inf false || y == .inf true) flNV)
    | _, .nan _ => (.nan false, 0)
    | _, .inf _ => (.nan false, flNV)
    | .inf n, .fin _ => (.inf n, 0)
    | .fin d, .fin g => (.fin (if d.m = 0 then d else { d with e := d.e + sclAmount g }), 0))

/-! ## Conversions (R123, R129, R329) -/

/-- A value rounded to an integer under a mode, and whether it is inexact. -/
def roundInt (mode : Rnd) (d : Dy) : Int × Bool :=
  let (n, inexact) := roundAt mode d 0
  (if d.neg then -(Int.ofNat n) else Int.ofNat n, inexact)

/-- A floating-point value as an integer lane (R123). A magnitude of 2^80 or more is out of every range. -/
def toIntLane (ty : Nat) (mode : Rnd) (v : FVal) : Nat × BitVec 8 :=
  match v with
  | .nan _ => (0, flNV)
  | .inf n => (wrapInt ty (if n then intLo ty else intHi ty), flNV)
  | .fin d =>
    if d.m ≠ 0 && 80 < d.e then (wrapInt ty (if d.neg then intLo ty else intHi ty), flNV)
    else
      let (n, inexact) := roundInt mode d
      (wrapInt ty (clampInt ty n), if inRange ty n then flagIf inexact flNX else flNV)

/-- An exact quotient of integers as an integer lane (R329). -/
def ratToIntLane (ty : Nat) (mode : Rnd) (v : FVal) : Nat × BitVec 8 :=
  match v with
  | .fin d =>
    if d.m ≠ 0 && 80 < d.e then (wrapInt ty (if d.neg then intLo ty else intHi ty), flSAT)
    else
      let (n, inexact) := roundInt mode d
      (wrapInt ty (clampInt ty n), flagIf (!inRange ty n) flSAT ||| flagIf inexact flNX)
  | v => toIntLane ty mode v

/-- The value of an e8m0 scale, none for 0xFF (R117). -/
def scaleE8 (e : Nat) : Option Dy := if e = 255 then none else some { neg := false, m := 1, e := Int.ofNat e - 127 }

/-- The f32 scale of a conversion, none for a bad one (R129). -/
def scaleF32 (v : Nat) : Option Dy :=
  match (fmtOf 9).decode v with
  | .fin d => if d.m = 0 || d.neg then none else some d
  | _ => none

/-- A lane of any type from 0x0 to 0xE as a value (R114, R123). -/
def laneVal (ty v : Nat) : FVal :=
  if ty < 8 then .fin (Dy.ofInt (intOf ty v) 0 false) else (fmtOf ty).decode v

/-- The exact quotient of a value by a scale (R129); a zero takes the sign of R116. With no scale the value itself, its zero too
by R116. -/
def FVal.scaled (mode : Rnd) (s : Dy) (v : FVal) : FVal :=
  match v with
  | .fin d => if d.m = 0 then .fin (zeroOf mode) else if s.m = 1 then .fin { d with e := d.e - s.e } else .fin (d.div s)
  | v => v

/-! ## OX4 (R119 to R121) -/

/-- A nibble as a two's-complement integer. -/
def nibInt (n : Nat) : Int := if 8 ≤ n then Int.ofNat n - 16 else Int.ofNat n

/-- The walk of R120 from position i over the nibbles that remain, scale s: values, misplaced markers and NaN outliers. -/
def ox4Walk (s : Dy) : Nat → Nat → List Nat → List FVal × Nat × Nat
  | 0, _, _ => ([], 0, 0)
  | _ + 1, _, [] => ([], 0, 0)
  | fuel + 1, i, n :: ns =>
    let one := fun (v : FVal) (rest : List FVal × Nat × Nat) (b c : Nat) => (v :: rest.1, rest.2.1 + b, rest.2.2 + c)
    let zero : FVal := .fin { neg := false, m := 0, e := 0 }
    if n ≠ 8 then
      one (.fin (Dy.mul (Dy.ofInt (nibInt n) 0 false) s)) (ox4Walk s fuel (i + 1) ns) 0 0
    else if i ≤ 29 then
      match ns with
      | h :: l :: rest =>
        let v := ((fmtOf 0xC).decode (h * 16 + l)).mul (.fin s)
        let r := ox4Walk s fuel (i + 3) rest
        (v.1 :: zero :: zero :: r.1, r.2.1, r.2.2 + (if v.1.isNan then 1 else 0))
      | _ => one zero (ox4Walk s fuel (i + 1) ns) 1 0
    else one zero (ox4Walk s fuel (i + 1) ns) 1 0

/-- An OX4 block decoded (R120): 32 values, the misplaced markers, and what the block adds to NANC. -/
def ox4Decode (nibs : List Nat) (e : Nat) : List FVal × Nat × Nat :=
  match scaleE8 e with
  | none => (List.replicate 32 (.nan false), 0, 32)
  | some s => ox4Walk s 32 0 nibs

/-- The walk of R121 from position i over the exact quotients that remain: nibbles, flags, and how many elements set SAT (R134). -/
def ox4EncWalk (mode : Rnd) : Nat → Nat → List Dy → List Nat × BitVec 8 × Nat
  | 0, _, _ => ([], 0, 0)
  | _ + 1, _, [] => ([], 0, 0)
  | fuel + 1, i, d :: ds =>
    let (q, inexact) := roundInt mode d
    if q.natAbs ≤ 7 then
      let r := ox4EncWalk mode fuel (i + 1) ds
      (((q % 16).toNat) :: r.1, flagIf inexact flNX ||| r.2.1, r.2.2)
    else if i ≤ 29 then
      match ds with
      | g :: h :: rest =>
        let b := (fmtOf 0xC).round mode false d
        let r := ox4EncWalk mode fuel (i + 3) rest
        (8 :: b.1 / 16 :: b.1 % 16 :: r.1, b.2 ||| flagIf (g.m != 0 || h.m != 0) flNX ||| r.2.1, (if b.2 &&& flSAT != 0 then 1 else 0) + r.2.2)
      | _ => ([], 0, 0)
    else
      let r := ox4EncWalk mode fuel (i + 1) ds
      ((if d.neg then 9 else 7) :: r.1, flSAT ||| r.2.1, 1 + r.2.2)

/-- An OX4 block encoded from 32 exact quotients (R121): the nibbles, the flags, whether a NaN or infinite input spoiled it, and how many elements
set SAT. -/
def ox4Encode (mode : Rnd) (vs : List FVal) : List Nat × BitVec 8 × Bool × Nat :=
  let ds := finsOf vs
  if ds.length < vs.length then (List.replicate 32 0, 0, true, 0)
  else
    let r := ox4EncWalk mode 32 0 ds
    (r.1, r.2.1, false, r.2.2)

/-! ## Reductions (R6, R132) -/

/-- Combines a list of present and absent leaves pair by pair, one level of the canonical tree. -/
def canonLevel {α : Type} (f : α → α → α × BitVec 8) : List (Option α) → List (Option α) × BitVec 8
  | [] => ([], 0)
  | [a] => ([a], 0)
  | a :: b :: rest =>
    let r := canonLevel f rest
    match a, b with
    | some x, some y => (some (f x y).1 :: r.1, (f x y).2 ||| r.2)
    | some x, none => (some x :: r.1, r.2)
    | none, y => (y :: r.1, r.2)

/-- Canon of R6: levels until one value is left, padded on the right with absent leaves. -/
def canonGo {α : Type} (f : α → α → α × BitVec 8) : Nat → List (Option α) → BitVec 8 → Option α × BitVec 8
  | 0, l, fl => (l.headD none, fl)
  | n + 1, l, fl =>
    match l with
    | [] => (none, fl)
    | [a] => (a, fl)
    | l => canonGo f n (canonLevel f l).1 (fl ||| (canonLevel f l).2)

/-- Canon over logical indices (R6): at most 2^20 leaves. -/
def canon {α : Type} (f : α → α → α × BitVec 8) (l : List (Option α)) : Option α × BitVec 8 := canonGo f 20 l 0

/-- One node of a reduction by operation number (R54, R318, R402): 0 ADD, 1 AND, 2 OR, 3 XOR, 4 MIN, 5 MAX on integers, 6 FADD, 7
FMIN, 8 FMAX. -/
def redNode (op ty : Nat) (mode : Rnd) (a b : Nat) : Nat × BitVec 8 :=
  match op with
  | 0 => intLane2 .add ty a b
  | 1 => intLane2 .and ty a b
  | 2 => intLane2 .or ty a b
  | 3 => intLane2 .xor ty a b
  | 4 => intLane2 .min ty a b
  | 5 => intLane2 .max ty a b
  | 6 => fpLane2 .add (fmtOf ty) mode a b
  | 7 => fpLane2 .min (fmtOf ty) mode a b
  | _ => fpLane2 .max (fmtOf ty) mode a b

/-- A value that a reduction has only once: a NaN becomes the canonical NaN, a signalling one with NV (R115, R132). -/
def redLeaf (op ty a : Nat) : Nat × BitVec 8 :=
  if op < 6 then (a, 0)
  else match (fmtOf ty).decode a with
    | .nan sig => ((fmtOf ty).nanCode, flagIf sig flNV)
    | _ => (a, 0)

end Sys2Proof.Machine
end

