-- ==== Sys2Proof/Machine/Compute.lean ====
section
/-! DEFINITION. The shape that every computing instruction shares: the firing rule (R28), its flags and warnings (R130, R131, R294), and
one result token to both targets (R6, R26). -/

namespace Sys2Proof.Machine

open Sys2Proof

/-- What a firing answers: its token, its flags, its warnings. -/
structure Result where
  tok : Token
  flags : BitVec 8
  warn : BitVec 30
deriving DecidableEq, Repr

/-- Runs a firing by R28: a null-pass emits nulls to both targets, one predicated off emits nothing, and otherwise the effect given. -/
def State.runFiring (s : State) (o : SlotOps) (f : Ctx → Host.Outcome State Fault Refusal) : Host.Outcome State Fault Refusal :=
  match s.firing? with
  | none => .fault .notLatched
  | some c =>
    match fireCase (prEff o).1 c with
    | .nullPass => .next (s.emit2 c o (nullTok c.tag))
    | .off => .next s
    | .run => f c

/-- The state after an executed firing that answers one token (R6, R131, R294). -/
def State.deliver (s : State) (o : SlotOps) (c : Ctx) (r : Result) : State :=
  ((s.raiseFlags c.br c.u r.flags).raiseWarn c.br c.u ((prEff o).2 ||| tilehd c ||| r.warn)).emit2 c o r.tok

/-- A computing instruction: its result as a function of the firing. -/
def State.compute (s : State) (o : SlotOps) (f : Ctx → Result) : Host.Outcome State Fault Refusal :=
  s.runFiring o (fun c => .next (s.deliver o c (f c)))

/-- A result of lanes with their flags. -/
def laneResult (c : Ctx) (scalar : Bool) (w : Nat) (ls : List (Nat × BitVec 8)) (warn : BitVec 30) : Result :=
  { tok := laneTok c.tag scalar w (ls.map (·.1)), flags := orFlags (ls.map (·.2)), warn := warn }

/-- The immediate of a floating-point TY: the f32 number of R275 converted to TY, no flag. -/
def immFp (x : BitVec 29) (ty : Nat) : Nat :=
  ((fmtOf ty).write .rne false ((fmtOf 9).decode (x.toNat * 8))).1

/-- The lanes of operand A at a type. -/
def Ctx.lanesA (c : Ctx) (ty : Nat) : List Nat := c.atok.plain.lanes (laneBits ty) (laneCount ty)

/-- The lanes of operand B at a type: of its token, or of the immediate given when B is bound (R275). -/
def Ctx.lanesB (c : Ctx) (ty : Nat) (bound : Bool) (imm : Nat) : List Nat :=
  if bound then List.replicate (laneCount ty) imm else c.btok.plain.lanes (laneBits ty) (laneCount ty)

/-- Whether the result of a two-operand firing is scalar (R26). -/
def Ctx.scalar2 (c : Ctx) (bound : Bool) : Bool := c.atok.isScalar && (bound || c.btok.isScalar)

/-- RSVX for the immediate bits of a slot whose B is not bound (R275). -/
def rsvImm (bound : Bool) (o : SlotOps) : BitVec 30 := rsvx (!bound && o.x != 0)

/-- One executed firing of a deprecated instruction (R254, R255): DEPCOUNT of the virtual device rises by one, up to all ones; when it
passes LIMIT, the hub raises one advisory interrupt to the host driver, naming the virtual device and the image. -/
def State.deprecate (s : State) (rid : Nat) : State :=
  let v := s.vdOf rid
  match s.vdev? v, s.raising? rid with
  | some d, some r =>
    let n := satInc d.depcount
    let cross := d.depArmed && d.depctl != 0 && d.depcount < d.depctl && d.depctl ≤ n
    let s := s.updVdev v (fun d => { d with depcount := n, depArmed := d.depArmed && !cross })
    if cross then s.updPlat d.home (fun p => { p with driverIntr := p.driverIntr ++ [(v, r.image)] }) else s
  | _, _ => s

end Sys2Proof.Machine
end

