-- ==== Sys2Proof/Machine/Census.lean ====
section
/-! DEFINITION. The tokens and requests that exist for a raising, wherever they wait (R385, R429, R454), and the pool's contexts. -/

namespace Sys2Proof.Machine

open Sys2Proof

/-- The waiting tokens of a ready entry. -/
def Ready.toks (r : Ready) : List WaitTok := r.a.toList ++ r.b.toList ++ r.p.toList

/-- The tags of the tokens and of the work that an element holds. -/
def Elem.tags (e : Elem) : List Tag :=
  e.link.map (·.2.tok.tag) ++ e.rows.map (·.tok.tag) ++ (e.ready.flatMap Ready.toks).map (·.tok.tag) ++ e.join.map (·.tag) ++
  e.cmb.map (·.key) ++ e.streams.map (·.tag) ++ e.batches.map (·.tag) ++ (e.stats.filter (·.a.isSome)).map (·.tag)

/-- The tags of the tokens and of the work that a cluster's shared units hold. -/
def Cluster.tags (c : Cluster) : List Tag :=
  c.link.map (·.2.tok.tag) ++ c.rows.map (·.tok.tag) ++ (c.ready.flatMap Ready.toks).map (·.tok.tag) ++ c.scribe.map (·.key) ++
  c.copies.map (·.tag) ++ c.jointer.map (·.out.tag)

/-- The tags of the tokens that a bent holds: its elements and clusters, its spill ring and its Sill. -/
def Bent.tags (b : Bent) : List Tag :=
  b.elems.flatMap Elem.tags ++ b.clus.flatMap Cluster.tags ++ b.spill.map (·.tok.tag) ++
  b.timelines.flatMap (fun t => t.win.flatMap (fun e => e.held.map (·.2.tag)))

/-- Whether a message belongs to a raising: a token for one of its slots. -/
def Msg.forRaising (m : Msg) (rid : Nat) : Bool :=
  match m.body with
  | .tok r _ _ => r == rid
  | .burst r _ _ => r == rid
  | _ => false

/-- Whether a message is of a token for a bent. -/
def Msg.forBent (m : Msg) (rid bent : Nat) : Bool :=
  match m.body with
  | .tok r d _ => r == rid && d.bent == bent
  | .burst r d _ => r == rid && d.bent == bent
  | _ => false

/-- Whether a message ends a token: with it the token is there (R189). -/
def Msg.isTok (m : Msg) : Bool :=
  match m.body with
  | .tok _ _ _ => true
  | _ => false

/-- The messages in the fabric and at ingresses. -/
def State.allMsgs (s : State) : List Msg :=
  s.fqueues.flatMap (·.msgs) ++ s.inbox ++ s.reorders.flatMap (·.held)

/-- The tags of everything that exists for a raising (R429): tokens in its bents, in the fabric and in the catch buffer, its
requests, fences and multicast operations. -/
def State.liveTags (s : State) (rid : Nat) : List Tag :=
  (match s.raising? rid with
    | some r => r.bents.flatMap Bent.tags ++ r.brks.map (·.tok.tag)
    | none => []) ++
  (s.allMsgs.filter (fun m => m.isTok && m.forRaising rid)).map (·.tag) ++
  ((s.reqs.filter (fun r => r.br.rid == rid && !r.kind.detached)).map (·.tag)) ++
  ((s.fences.filter (·.br.rid == rid)).map (·.tag)) ++
  ((s.mcops.filter (·.br.rid == rid)).map (·.tag)) ++
  (s.parts.flatMap (fun p => (p.catch_.filter (·.rid == rid)).map (·.tok.tag)))

/-- The live count of a context of a raising (R429). -/
def State.liveCount (s : State) (rid ctx : Nat) : Nat := ((s.liveTags rid).filter (fun t => t.ctx == ctx)).length

/-- The bent of a raising whose table holds a context, with the entry (R31, R429). -/
def Raising.ctxEntry (r : Raising) (ctx : Nat) : Option CtxEntry :=
  r.bents.findSome? (fun b => b.ctxs.find? (·.ctx == ctx))

/-- Clears what the stations of an element keep for a context (R327, R349, R358, R406). -/
def Elem.clearCtx (e : Elem) (ctx : Nat) : Elem :=
  { e with
    ctr := e.ctr.filter (·.ctx != ctx)
    kbnd := e.kbnd.filter (·.ctx != ctx)
    gate := e.gate.filter (·.ctx != ctx)
    reord := e.reord.filter (·.ctx != ctx) }

end Sys2Proof.Machine
end

