-- ==== Sys2Proof/Machine/Sched.lean ====
section
/-! DEFINITION. What the step does around an instruction (log 1): which ready instruction a unit fires (R37, R151, R452), taking
a queue's words (R216, R293), the passing of time (R229), the acts an empty tape chooses from, and placing one instruction where
the step runs it. -/

namespace Sys2Proof.Machine

open Sys2Proof

/-! ## Ready instructions -/

/-- The earliest arrival among the operands of a ready entry, by which the element chooses (R37). -/
def Ready.since (r : Ready) : Nat :=
  ((r.a.toList ++ r.b.toList ++ r.p.toList).map (·.at_)).foldl min ((r.a.toList ++ r.b.toList ++ r.p.toList).map (·.at_) |>.headD 0)

/-- The instructions of a unit that its waiting tokens complete: those kept waiting for a resource, replayed or re-injected. -/
def State.rowMatches (s : State) (rid : Nat) (rows : List WaitTok) : List Ready :=
  rows.foldl (fun acc w =>
    if w.frozen then acc
    else match s.slot? rid w.blk w.slot with
      | some p =>
        match stationInstr p.word w.port with
        | some i =>
          match matchTok (portRule i p.bNamed) (rows.erase w) w with
          | some r => if acc.any (fun q => q.blk == r.blk && q.slot == r.slot && q.tag == r.tag && q.a == r.a && q.b == r.b)
              then acc else acc ++ [r]
          | none => acc
        | none => acc
      | none => acc) []

/-- Inserts a ready entry by its waiting time, oldest first, ties in the order found. -/
def insertReady (r : Ready) : List Ready → List Ready
  | [] => [r]
  | q :: qs => if r.since < q.since then r :: q :: qs else q :: insertReady r qs

/-- The rows and the ready buffer of a unit. -/
def State.unitToks (s : State) (br : BentRef) (u : UnitLoc) : List WaitTok × List Ready :=
  match u with
  | .elem cx cy => match s.elem? br cx cy with
    | some e => (e.rows, e.ready)
    | none => ([], [])
  | .station cX cY => match s.clus? br cX cY with
    | some c => (c.rows, c.ready)
    | none => ([], [])

/-- Whether a unit may begin a firing: its bent lives and is not frozen, and its element is not frozen (R38, R186, R230, R448). -/
def State.unitRuns (s : State) (br : BentRef) (u : UnitLoc) : Bool :=
  match s.raising? br.rid, s.bent? br with
  | some r, some b => s.bentLive br && !r.brkStop && !b.frozen &&
    (match u with
      | .elem cx cy => match b.elem? cx cy with
        | some e => !e.eccFrozen
        | none => false
      | .station cX cY => (b.clus? cX cY).isSome)
  | _, _ => false

/-- The ready instructions of a unit, the one whose oldest operand has waited longest first (R37, R452). -/
def State.candidates (s : State) (br : BentRef) (u : UnitLoc) : List Ready :=
  let (rows, ready) := s.unitToks br u
  (ready ++ s.rowMatches br.rid rows).foldl (fun l r => insertReady r l) []

/-- Takes the operands of a ready instruction out of the ready buffer, or out of the rows. -/
def State.takeReady (s : State) (br : BentRef) (u : UnitLoc) (r : Ready) : State :=
  match u with
  | .elem cx cy => s.updElem br cx cy (fun e =>
      if e.ready.contains r then { e with ready := e.ready.erase r } else { e with rows := takeRows e.rows r })
  | .station cX cY => s.updClus br cX cY (fun c =>
      if c.ready.contains r then { c with ready := c.ready.erase r } else { c with rows := takeRows c.rows r })

/-- The instruction that a ready entry fires. -/
def State.readyInstr (s : State) (br : BentRef) (r : Ready) : Except W64 Instr :=
  match s.slot? br.rid r.blk r.slot with
  | some p => match stationInstr p.word (if r.a.isSome then .a else if r.b.isSome then .b else .p) with
    | some i => .ok i
    | none => .error p.word
  | none => .error 0

/-- Whether an outcome says that the instruction waits (R57). -/
def waiting (o : Host.Outcome State Fault Refusal) : Bool :=
  match o with
  | .next t => t.cur == .waits
  | _ => false

/-- Fires the first of the candidates that does not wait; those passed over keep their operands as waiting tokens. With none,
only time passes. -/
def fireFirst (run : Instr → State → Host.Outcome State Fault Refusal) (s : State) (br : BentRef) (u : UnitLoc) :
    List Ready → Host.Outcome State Fault Refusal
  | [] => .next s
  | r :: rs =>
    match s.readyInstr br r with
    | .error w => .fault (.badStation w)
    | .ok i =>
      let taken := s.takeReady br u r
      let c : Ctx := { br := br, u := u, blk := r.blk, slot := r.slot, tag := r.tag, a := r.a, b := r.b, p := r.p }
      let charged := if s.replays c then taken else taken.chargeAct c (slotOpc ((s.slot? br.rid r.blk r.slot).elim 0 (·.word)))
      let o := run i { charged with cur := .firing br u r (!(s.unitToks br u).2.contains r) }
      if waiting o then
        fireFirst run (if (s.unitToks br u).2.contains r then taken.keepOperands c false else s) br u rs
      else o

/-- The package cells by whose routers a unit's emissions leave. -/
def Bent.unitCells (b : Bent) (u : UnitLoc) : List CellId :=
  match u with
  | .elem cx cy => [b.cell cx cy]
  | .station cX cY => (List.range 16).map (fun i => b.cell (4 * cX + i % 4) (4 * cY + i / 4))

/-- Whether the queue by which a unit's tokens enter its router has room: like a router's own it has 16 slots for VC 0 (R194, R195; log 93). -/
def State.injectFree (s : State) (br : BentRef) (u : UnitLoc) : Bool :=
  ((s.bent? br).elim [] (·.unitCells u)).all (fun c => (s.fqueues.find? (fun q => q.node == .cell c && q.out == .cell c && q.vc == 0)).elim true
    (fun q => (q.msgs.map (fun m => m.len + 1)).foldl (· + ·) 0 < 16))

/-- One firing of a unit. -/
def fireUnit (run : Instr → State → Host.Outcome State Fault Refusal) (s : State) (br : BentRef) (u : UnitLoc) :
    Host.Outcome State Fault Refusal :=
  if s.unitRuns br u && s.injectFree br u then fireFirst run s br u (s.candidates br u) else .next s

/-! ## Queues -/

/-- Whether the slot of a virtual device is current and in its quantum (R215, R226, R227). -/
def State.inSlot (s : State) (v : VdRef) : Bool :=
  match s.part? v.part with
  | some p => p.phase == .quantum && s.now < p.slotStart + p.q && !p.suspended &&
    (match ((s.vdevs.filter (·.vdr.part == v.part)).map (·.vdr.vd))[p.slot]? with
      | some d => d == v.vd
      | none => false)
  | none => false

/-- A queue stops with the fault that R293 finds at its word: STOPPED, QPTR left, and the record of R293. -/
def State.stopQueue (s : State) (q : Queue) (c : Cause) (idx : Nat) : State :=
  let s := s.updQueue q.vdr q.q (fun x => { x with state := .stopped, work := none })
  match s.vdev? q.vdr with
  | some v => s.pushRecord v.home q.vdr.part (fun seq =>
      { cause := c.code, part := q.vdr.part, vdid := q.vdr.vd, bent := 0, raiseid := 0xFFFFFFFF, ecx := 0, ecy := 0, eng := false,
        unit := 0, blk := 0, slot := 0, port := 0, tag := 0, addr := idx, level := 0, wr := false, park := false, j := 0, refc := 0,
        fire := 0, sub := 0, grp := 0, kstep := 0, acc := 0, seq := seq, aux := q.q, cycle := 0 })
  | none => s

/-- Whether a sequencer may take up a queue's word: it is READY, or the word waits on something other than a hub operation: a QSIG or
QINTR in EXEC, or a QFNC in WAIT (R216, R388 to R390). -/
def Queue.takes (x : Queue) : Bool :=
  match x.state, x.work with
  | .ready, _ => true
  | .exec, some (.semOp _) => false
  | .exec, _ => true
  | .wait, some (.fence _) => true
  | _, _ => false

/-- A sequencer takes the word at QPTR of a queue in its slot, with the checks of R293, and executes it. -/
def takeWord (run : Instr → State → Host.Outcome State Fault Refusal) (s : State) (v : VdRef) (q : Nat) :
    Host.Outcome State Fault Refusal :=
  match s.queue? v q with
  | some x =>
    if x.takes && s.inSlot v then
      match decodeQueue (x.prog.drop x.qptr) with
      | .ok (i, rest) =>
        let ws := (x.prog.drop x.qptr).take ((x.prog.drop x.qptr).length - rest.length)
        run i { s with cur := .word v q ws }
      | .error (.queueMisaligned k) => .next (s.stopQueue x .queueMisaligned (x.qptr + k))
      | .error (.queueUndefined k) => .next (s.stopQueue x .queueUndefined (x.qptr + k))
      | .error _ => .next (s.stopQueue x .queueUndefined x.qptr)
    else .next s
  | none => .next s

/-! ## Acts that an empty tape chooses from -/

/-- The units of a bent. -/
def Bent.units (b : Bent) : List UnitLoc :=
  b.elems.map (fun e => UnitLoc.elem e.cx e.cy) ++ b.clus.map (fun c => UnitLoc.station c.cX c.cY)

/-- The acts that an element's held work may be ready for: open gates, reorder windows, statistics, streams and batches. -/
def elemActs (br : BentRef) (e : Elem) : List Act :=
  (if e.link.isEmpty then [] else [Act.ev (.tokenArrival br (.elem e.cx e.cy)) .none]) ++
  e.gate.map (fun g => Act.ev (.gateRelease br e.cx e.cy g.blk g.slot g.ctx) .none) ++
  e.reord.map (fun r => Act.ev (.reordRelease br e.cx e.cy r.blk r.slot r.ctx) .none) ++
  (e.stats.filter (·.a.isSome)).map (fun r => Act.ev (.stsnkUpdate br e.cx e.cy r.blk r.slot) .none) ++
  e.streams.map (fun x => Act.ev (.streamElement br e.cx e.cy x.id x.next) .none) ++
  e.batches.map (fun x => Act.ev (.scatBatchApply br e.cx e.cy x.id) .none)

/-- The acts that a cluster's shared units may be ready for: the Truss, the Lahar's copies, ring slots and notices, and the Jointer. -/
def clusActs (br : BentRef) (k : Cluster) : List Act :=
  (if k.link.isEmpty then [] else [Act.ev (.tokenArrival br (.station k.cX k.cY)) .none]) ++
  (if k.nodes.isEmpty then [] else [Act.ev (.trussFiringBegin br k.cX k.cY) .none]) ++
  (if k.firing.isSome then [Act.ev (.trussFiringRetire br k.cX k.cY) .none] else []) ++
  k.copies.flatMap (fun x => [Act.ev (.laharTileStart br k.cX k.cY x.id) .none, Act.ev (.copyComplete br k.cX k.cY x.id) .none]) ++
  k.rings.flatMap (fun r =>
    (if 0 < r.notices then [Act.ev (.ringFreedSlotNotice br k.cX k.cY r.k) .none] else []) ++
    (if 0 < r.written then [Act.ev (.ringSlotFull br k.cX k.cY r.k) .none] else [])) ++
  (if k.jointer.isEmpty then [] else [Act.ev (.jointerLaneEntry br k.cX k.cY) .none, Act.ev (.jointerLaneResult br k.cX k.cY) .none])

/-- Whether the arbiter offers the commit of a timeline's oldest activation now: no token of the activation exists any more, or the clock
stands at a multiple of 64 (log 1). A tape may commit it earlier. -/
def State.offersCommit (s : State) (br : BentRef) (ctx : Nat) (t : Timeline) : Bool :=
  match t.win with
  | e :: _ => s.now % 64 == 0 || !(s.liveTags br.rid).any (fun g => g == Tag.mk ctx e.ts)
  | [] => false

/-- The acts of one bent that may be enabled: its units' work and firings, commits, re-injections, watched activations and closing contexts. -/
def State.bentActs (s : State) (br : BentRef) (b : Bent) : List Act :=
  b.elems.flatMap (elemActs br) ++ b.clus.flatMap (clusActs br) ++
  (b.units.filter (fun u => !(s.candidates br u).isEmpty)).map (Act.fire br) ++
  ((List.range b.timelines.length).flatMap (fun tl => match b.timelines[tl]? with
    | some t => (if s.offersCommit br (b.tlCtx.getD tl 0) t then [Act.ev (.activationCommit br tl) .none] else []) ++
        (if t.redeliver.isSome then [Act.ev (.abortRedeliver br tl) .none] else [])
    | none => [])) ++
  (List.range (b.spill.length + b.spilledParks.length)).map (fun i => Act.ev (.spillReinject br i) .none) ++
  ((List.range b.ages.length).filter (fun i => (b.ages[i]?).elim false (!·.told))).map (fun i => Act.ev (.blockStall br i) .none) ++
  (b.ctxs.filter (·.closing)).map (fun c => Act.ev (.contextReturn br c.ctx) .none)

/-- The act that moves a request on. -/
def reqAct (r : Req) : List Act :=
  (match r.stage with
  | .walk => [Act.ev .walk (.num r.id)]
  | .dirty => [Act.ev .dirtyLoggerSet (.num r.id)]
  | .home => match r.kind, r.reply with
    | .wqini, _ => [Act.ev .augerRangeSet (.num r.id)]
    | .wqnx, _ => [Act.ev .augerServe (.num r.id)]
    | _, some _ => [Act.ev .remoteFaultPark (.num r.id)]
    | _, none => [Act.ev (.memoryAccessAtHome (.req r.id)) .none]
  | .reply => [Act.ev .memoryReply (.num r.id)]
  | .turned => if r.resendAt = 0 then [] else [Act.ev .busyResend (.num r.id)]
  | _ => []) ++
  (match r.stage with
  | .toHome | .forward | .home | .parked | .toIssuer => [Act.ev .remoteTimeout (.num r.id)]
  | _ => [])

/-- The acts of a group operation: its members' accesses, their absence, and its own end. -/
def mcActs (m : McOp) : List Act :=
  (List.range m.members.length).flatMap (fun r => match m.members[r]? with
    | some McState.arrived => [Act.ev (.memoryAccessAtHome (.member m.id r)) .none, Act.ev (.memberAbsentTimeout m.id r) .none]
    | some McState.waiting => [Act.ev (.memberAbsentTimeout m.id r) .none]
    | some McState.answered => [Act.ev (.memberAbsentTimeout m.id r) .none]
    | _ => []) ++ [Act.ev .memoryReply (.num m.id)] ++ (if m.busy.all (·.at_.isNone) then [] else [Act.ev .busyResend (.num m.id)])

/-- Whether a sequence space of a VC ends at a die. -/
def Space.endsAt (sp : Space) (p : Pkg) (d : Nat) : Bool :=
  match sp with
  | .vc _ _ _ dp dd _ => dp == p && dd == d
  | _ => false

/-- The acts of the fabric: hops, multicast branches, reductions, re-requests, windows, and what waits at the ingresses. -/
def State.fabricActs (s : State) : List Act :=
  (s.fqueues.flatMap (fun q => if q.msgs.isEmpty then [] else [Act.ev (.flitHop q.node q.out) .none])) ++
  (List.range s.mccopies.length).map (fun i => Act.ev .multicastForward (.num i)) ++
  (List.range s.redslots.length).flatMap (fun i => [Act.ev .mcupCombine (.num i), Act.ev .mcupSlotTimeout (.num i)]) ++
  (s.groups.filter (·.came)).flatMap (fun g => (s.groupSets.filter (fun x => !x.installed && x.br == g.owner && x.cx == g.cx && x.cy == g.cy &&
    x.group == g.group)).map (fun x => Act.ev (.groupInstallAck x.req g.node) .none)) ++
  s.mcops.flatMap mcActs ++
  (List.range s.reorders.length).flatMap (fun i => match s.reorders[i]? with
    | some w => if w.unsacked = 0 then [] else [Act.ev .sackSend (.num i)]
    | none => []) ++
  s.platforms.flatMap (fun q => (List.range 4).flatMap (fun d =>
    (List.range (s.reorders.filter (fun w => w.space.endsAt q.pkg d)).length).map
      (fun i => Act.ev (.orderedMessageDelivery q.pkg d i) .none) ++
    (List.range (s.trims.filter (fun e => e.pkg == q.pkg && e.die == d)).length).map (fun i => Act.ev (.rereqTimer q.pkg d i) .none)) ++
    (List.range (s.parked.filter (·.pkg == q.pkg)).length).map (fun i => Act.ev (.keepWaitTimer q.pkg i) .none)) ++
  s.inbox.map (fun m =>
    let p := m.dst.pkg
    let d := m.dst.die
    if m.trim then Act.ev (.trimmedHeaderArrival p d) .none
    else match m.kind with
      | .rereq => .ev (.rereqArrival p d) .none
      | .sack => .ev (.sackArrival p d) .none
      | .error => .ev .errorArrival (.num m.mid)
      | .keepwait => .ev .keepWaitArrival (.num m.mid)
      | .busy => .ev .keepWaitArrival (.num m.mid)
      | _ => .ev (.requestDedup p d) .none)

/-- The acts of the hub: queues, semaphores, timers, mailboxes, loads, slots and ingress windows. -/
def State.hubActs (s : State) : List Act :=
  (s.queues.flatMap (fun q =>
    (match q.state with
    | .ready => [Act.take q.vdr q.q]
    | .exec => [Act.take q.vdr q.q]
    | .wait => [Act.take q.vdr q.q]
    | .admitting => [Act.ev .launchAdmit (.vdev q.vdr)]
    | .run => (match q.work with
      | some (.copy _ _ _ _ _ _ _ _) => [Act.ev (.memoryAccessAtHome (.qcopy q.vdr q.q)) .none]
      | _ => [])
    | .stopped => []) ++
    q.timers.map (fun t => Act.ev (.queueTimerExpiry q.vdr q.q t.tid) .none))) ++
  (s.semReqs.map (fun r => Act.ev .semaphoreOperation (.pkg r.pkg))) ++
  (s.loads.map (fun l => Act.ev (.imageLoad l.vdr true) .none)) ++
  ((List.range s.syncs.length).map (fun i => Act.ev (.memoryAccessAtHome (.sync i)) .none)) ++
  (s.hostWaits.map (fun x => Act.ev (.hostMemoryAccess x.1 .resume) .none)) ++
  s.vdevs.flatMap (fun d =>
    (if d.mailbox.isEmpty then [] else [Act.ev .interruptMailboxDrain (.vdev d.vdr)]) ++
    (if d.ingress.slots.isEmpty then [] else [Act.ev .ingressOpen (.vdev d.vdr), Act.ev .ingressToken (.vdev d.vdr)]) ++
    (if d.ingress.waiting.isEmpty then [] else [Act.ev .ingressTokenInject (.vdev d.vdr)])) ++
  s.parts.flatMap (fun p => match p.phase with
    | .idle => []
    | .quantum => [Act.ev .quantumEnd (.num p.lay.part)]
    | .grace => [Act.ev .graceWindowEnd (.num p.lay.part)]
    | .guard => p.lay.clusters.map (fun c => Act.ev (.clusterImageSaveDone p.lay.part c) .none) ++ [Act.ev (.clusterRestore p.lay.part []) .none]
    | .saved => [Act.ev .slotStart (.num p.lay.part)])

/-- The acts that an empty tape chooses from: every act of the device itself that has something to do, or may have. -/
def State.acts (s : State) : List Act :=
  (s.raisings.flatMap (fun r =>
    (((List.range r.bents.length).flatMap (fun i => match r.bents[i]? with
      | some b => s.bentActs { rid := r.rid, bent := i } b
      | none => [])) ++ (if r.halts.isEmpty then [] else [Act.ev .hubHalt (.num r.rid)]) ++ [Act.ev .phaseComplete (.num r.rid)]))) ++
  (s.reqs.flatMap reqAct) ++
  (s.fences.map (fun f => Act.ev .memoryReply (.num f.id))) ++
  s.fabricActs ++ s.hubActs

/-- The next act and the tape after it: the head of the tape, or, on an empty tape, one of the acts that may have something to do,
in rotation; with none, one cycle passes (log 1). -/
def State.nextAct (s : State) : Act × List Act :=
  match s.sched with
  | a :: rest => (a, rest)
  | [] =>
    match s.acts with
    | [] => (.tick 1, [])
    | a :: as => (((a :: as)[s.now % (as.length + 1)]?).getD a, [])

/-! ## SACKs that are due (R204) -/

/-- Puts a reorder window back. -/
def State.putWindow (s : State) (w : Reorder) : State :=
  { s with reorders := if s.reorders.any (·.space == w.space) then updIf s.reorders (·.space == w.space) (fun _ => w) else s.reorders ++ [w] }

/-- Whether a delivered message of a space has still to be performed. -/
def State.performing (s : State) (sp : Space) : Bool :=
  s.reqs.any (fun r => r.space == some sp && (r.stage == .home || r.stage == .forward || r.stage == .parked))

/-- The last SEQ of a space before which everything is performed, discarded or ended: the one before the store that is still to be performed, or
before the next one due (R204). -/
def State.lastDone (s : State) (w : Reorder) : Nat :=
  (((s.reqs.find? (fun r => r.space == some w.space && (r.stage == .home || r.stage == .forward || r.stage == .parked))).elim w.next (·.seq)) + 511) % 512

/-- An ingress acknowledges what it has performed of a space, cumulatively (R204). -/
def State.sack (s : State) (w : Reorder) : State :=
  match w.space with
  | .vc part sp sd _ _ v =>
    let last := s.lastDone w
    (s.putWindow { w with unsacked := 0 }).sendHeader .sack w.space.home (dieCell sp sd) part .egress (some w.space) last
      (BitVec.ofNat 32 (part + 16 * v)) .empty
  | _ => s

/-- Whether a window's SACK can wait no longer: 16 messages performed, or 256 cycles since the oldest (R204). -/
def Reorder.due (w : Reorder) (now : Nat) : Bool := 16 ≤ w.unsacked || (0 < w.unsacked && w.oldest + 256 ≤ now)

/-- Sends every SACK that is due. -/
def State.sackDue (s : State) : State := (s.reorders.filter (·.due s.now)).foldl State.sack s

/-- What follows every act: one cycle passes, the latch is cleared, memory is in its canonical form, and the SACKs that are due leave (R204). -/
def State.finish (s : State) (rest : List Act) : State :=
  ({ s with now := s.now + 1, cur := .none, sched := rest, mem := memCanon s.mem } : State).sackDue

/-- How many cycles may pass at once: none past the moment at which a SACK is due (R204). -/
def State.idle (s : State) (n : Nat) : Nat :=
  (s.reorders.filter (fun w => 0 < w.unsacked)).foldl (fun k w => Nat.min k (w.oldest + 255 - s.now)) (n - 1)

/-- The step of one act, with the meaning of every instruction given. -/
def stepAct (run : Instr → State → Host.Outcome State Fault Refusal) (s : State) (a : Act) (rest : List Act) :
    Host.Outcome State Fault Refusal :=
  let o := match a with
    | .fire br u => fireUnit run s br u
    | .take v q => takeWord run s v q
    | .ev i on => run i { s with cur := .event on }
    | .tick n => .next { s with now := s.now + s.idle n }
  match o with
  | .next t => .next (t.finish rest)
  | .fault f => .fault f
  | .refused r => .refused r

end Sys2Proof.Machine
end

