-- ==== Sys2Proof/Machine/Sill.lean ====
section
/-! DEFINITION. The Sill: starting activations (R42, R43), registers of a timeline (R45), aborts (R47, R454), and the event
ABORT_REDELIVER. -/

namespace Sys2Proof.Machine

open Sys2Proof

/-- Delivers a start token to slot 0 of a block, from a cell or from the Sill itself. -/
def State.deliverStart (s : State) (rid : Nat) (src : Option CellId) (blk : Nat) (t : Token) : State :=
  let bent := match s.block? rid blk with
    | some b => b.bent
    | none => 0
  let d : Dest := { bent := bent, blk := blk, slot := 0, port := .a }
  match src with
  | some c => s.sendTok rid c d t
  | none => s.intoLink rid 0 d t

/-- Opens a window entry for an activation and delivers its start token, stamped with its timestamp (R42). -/
def State.openEntry (s : State) (br : BentRef) (tl : Nat) (src : Option CellId) (st : StartTok) : State :=
  match s.bent? br with
  | some b =>
    let t := { st.tok with tag := Tag.mk (b.tlCtx.getD tl 0) st.ts }
    let e : WinEntry := { ts := st.ts, blk := st.blk, start := t, exits := 0, exitNull := 0, lsids := [], stores := [],
                          writes := [], held := [], reads := [], faults := [], charged := 0 }
    (s.updTl br tl (fun x => { x with win := x.win ++ [e] })).deliverStart br.rid src st.blk t
  | none => s

/-- Starts an activation of a timeline: at once while fewer than eight are in flight, else it waits at the Sill (R43). -/
def State.sillStart (s : State) (br : BentRef) (tl : Nat) (src : Option CellId) (st : StartTok) : State :=
  match (s.bent? br).bind (fun b => b.timelines[tl]?) with
  | some t =>
    if t.win.length < 8 && t.waiting.isEmpty && t.redeliver.isNone then s.openEntry br tl src st
    else s.updTl br tl (fun x => { x with waiting := x.waiting ++ [st] })
  | none => s

/-- Whether a bit of a 64-bit mask is set. -/
def maskBit (m i : Nat) : Bool := m / 2 ^ i % 2 == 1

/-- The value of a g register as an activation sees it (R45): none while an older activation's WRITE of it is pending. -/
def State.gValue (s : State) (rid : Nat) (t : Timeline) (ts g : Nat) : Option W64 :=
  ((t.win.filter (fun e => e.ts < ts)).reverse.foldr (fun e rest =>
    if maskBit ((s.block? rid e.blk).elim 0 (·.wrmask)) g then
      match e.writes.find? (fun w => w.1 == g) with
      | some (_, some v) => some v
      | some (_, none) => rest
      | none => none
    else rest) (some (t.g.getD g 0)))

/-- Whether a tag carries an aborted timestamp of a timeline of a bent (R454). -/
def Bent.abortedTag (b : Bent) (t : Tag) : Bool :=
  (List.range b.timelines.length).any (fun i => b.tlCtx.getD i 0 == t.ctx && (b.timelines[i]?).elim false (fun x => x.aborted.contains t.iter))

/-- A CMB row without the contributions of aborted activations: gone when its key is of one, and without such members of FADD with AM = 0, which
it keeps apart (R454; log 81). -/
def CmbRow.unaborted (r : CmbRow) (bad : Tag → Bool) : Option CmbRow :=
  if bad r.key then none
  else
    let vals := r.vals.filter (fun v => !bad (Tag.mk r.key.ctx (r.key.iter + v.1)))
    some { r with vals := vals, seen := r.seen - (r.vals.length - vals.length) }

/-- Discards the tokens of aborted activations where they wait, in rows, in the rows of JOIN and CMB, in the ready buffer and the spill ring
(R454). -/
def State.discardAborted (s : State) (br : BentRef) : State :=
  s.updBent br (fun b =>
    let bad := b.abortedTag
    let keep := fun w : WaitTok => !bad w.tok.tag
    { b with
      spill := b.spill.filter keep
      elems := b.elems.map (fun e => { e with
        rows := e.rows.filter keep
        ready := e.ready.filter (fun r => !bad r.tag)
        join := e.join.filter (fun j => !bad j.tag)
        cmb := e.cmb.filterMap (·.unaborted bad)
        stats := e.stats.map (fun r => if r.a.elim false (fun w => bad w.tok.tag) then { r with a := none, frozen := false } else r) }) })

/-- Aborts an activation and every younger one of a timeline (R47, R454): entries, buffered stores and WRITEs, held tokens and held faults
are discarded, their timestamps are marked, their waiting tokens discarded, their charges refunded (R236), and the oldest aborted start token
is kept for its re-delivery. -/
def State.abortFrom (s : State) (br : BentRef) (tl ts : Nat) : State :=
  match s.bent? br with
  | some b =>
    let ctx := b.tlCtx.getD tl 0
    let gone := fun (t : Tag) (l : List Nat) => t.ctx == ctx && l.contains t.iter
    match b.timelines[tl]? with
    | some t =>
      let dead := t.win.filter (fun e => ts ≤ e.ts)
      let its := dead.map (fun e => e.ts % 4096)
      let s := s.refund br.rid ((dead.map (·.charged)).foldl (· + ·) 0)
      let s := s.updTl br tl (fun x =>
        { x with
          win := x.win.filter (fun e => e.ts < ts)
          waiting := []
          aborted := x.aborted ++ its
          redeliver := (match dead with
            | e :: _ => some { ts := e.ts, blk := e.blk, tok := e.start }
            | [] => x.redeliver)
          chain := true })
      (s.updBent br (fun b => { b with
        frozenTags := b.frozenTags.filter (fun f => !gone f.2.tag its)
        ages := b.ages.filter (fun a => !gone a.tag its) })).discardAborted br
    | none => s
  | none => s

/-- Reports one fault that the Sill held (R187). -/
def State.reportOne (s : State) (br : BentRef) (tag : Tag) (h : FaultInfo × Nat × Nat) : State :=
  match (s.bent? br).bind (fun b => b.frozenTags.find? (fun f => f.2.blk == h.2.1 && f.2.slot == h.2.2 && f.2.tag == tag && f.2.held)) with
  | some f => (s.updBent br (fun b => b.setFrozen f.1 { f.2 with held := false })).record br f.1 h.2.1 h.2.2 tag h.1 f.2.refc
  | none => s

/-- Reports every fault that the Sill holds for an activation that has become the oldest, in the order they were raised (R47, R187). -/
def State.reportHeld (s : State) (br : BentRef) (tl : Nat) : State :=
  match s.bent? br with
  | some b =>
    match (b.timelines[tl]?).bind (fun t => t.win.head?) with
    | some e =>
      let tag := Tag.mk (b.tlCtx.getD tl 0) e.ts
      e.faults.foldl (fun s h => s.reportOne br tag h) (s.updTl br tl (fun t => t.updEntry tag (fun e => { e with faults := [] })))
    | none => s
  | none => s

/-- Whether an activation is complete (R44). -/
def State.entryDone (s : State) (rid : Nat) (e : WinEntry) : Bool :=
  match s.block? rid e.blk with
  | some b =>
    (List.range 32).all (fun l => !maskBit b.stmask l || e.lsids.contains l) &&
    (List.range 64).all (fun g => !maskBit b.wrmask g || e.writes.any (fun w => w.1 == g)) && e.exits == 1
  | none => false

/-- Inserts a buffered store by LSID, lowest first. -/
def insertStore (x : SillStore) : List SillStore → List SillStore
  | [] => [x]
  | y :: ys => if x.lsid < y.lsid then x :: y :: ys else y :: insertStore x ys

/-- ABORT_REDELIVER: once no token and no request of an aborted activation exists, the marks are cleared and the oldest aborted
activation starts again with its retained start token (R47, R454). Waiting tokens of aborted activations are discarded first. -/
def execAbortRedeliver (br : BentRef) (tl : Nat) (s : State) : Host.Outcome State Fault Refusal :=
  if !s.bentLive br then .next s else
  let s := s.discardAborted br
  match s.bent? br with
  | some b =>
    match b.timelines[tl]? with
    | some t =>
      match t.redeliver with
      | some st =>
        let ctx := b.tlCtx.getD tl 0
        if (s.liveTags br.rid).any (fun g => g.ctx == ctx && t.aborted.contains g.iter) then .next s
        else .next ((s.updTl br tl (fun x => { x with aborted := [], redeliver := none })).openEntry br tl none st)
      | none => .next s
    | none => .next s
  | none => .next s

end Sys2Proof.Machine
end

