-- ==== Sys2Proof/Machine/TokenOps.lean ====
section
/-! DEFINITION. The token-control group (R32 to R34, R40, R45, R53 to R56, R327 to R331, R335 to R337, R348 to R358, R371, R376, R401,
R406, R424, R428 to R430, R444) and the combine CMB (R54, R318), with the events that release what they hold. -/

namespace Sys2Proof.Machine

open Sys2Proof

/-- An executed firing of a token-control instruction raises its warnings only (R294). -/
def State.warnAs (s : State) (c : Ctx) (w : BitVec 30) : State := s.raiseWarn c.br c.u w

/-- The answer of an instruction that waits for a resource (R57). -/
def State.wait (s : State) : Host.Outcome State Fault Refusal := .next { s with cur := .waits }

/-! ## Steering -/

/-- PRCTL, and PRILL beside it, for a control instruction whose PR is not 00 (R55, R274, R295). -/
def prCtl (o : SlotOps) : BitVec 30 := (if o.pr != 0 then warnBit 1 else 0) ||| (prEff o).2

/-- STEER: A's token to T0 when P is true and to T1 when it is false (R424). -/
def execSteer (o : SlotOps) (s : State) : Host.Outcome State Fault Refusal :=
  match s.firing? with
  | none => .fault .notLatched
  | some c =>
    match fireCase 0 c with
    | .nullPass => .next (s.emit2 c o (nullTok c.tag))
    | _ =>
      let s := s.warnAs c (prCtl o ||| rsvx (o.x != 0))
      let t := match c.p with
        | some p => if p.tok.truth then o.t0 else o.t1
        | none => o.t1
      .next (s.emit c t c.atok)

/-- MERGE: the token that P selects (R371); a null P gives a null token. -/
def execMerge (o : SlotOps) (s : State) : Host.Outcome State Fault Refusal :=
  match s.firing? with
  | none => .fault .notLatched
  | some c =>
    match fireCase 0 c with
    | .nullPass => .next (s.emit2 c o (nullTok c.tag))
    | _ => .next ((s.warnAs c (prCtl o ||| rsvx (o.x != 0))).emit2 c o (if c.a.isSome then c.atok else c.btok))

/-- NULL: a null token under A's tag, whatever A holds (R376). -/
def execNull (o : SlotOps) (s : State) : Host.Outcome State Fault Refusal :=
  s.runFiring o (fun c => .next ((s.warnAs c ((prEff o).2 ||| rsvx (o.x != 0))).emit2 c o (nullTok c.tag)))

/-- DROP: the token is consumed (R331). -/
def execDrop (o : SlotOps) (s : State) : Host.Outcome State Fault Refusal :=
  s.runFiring o (fun c => .next (s.warnAs c ((prEff o).2 ||| rsvx (o.x != 0))))

/-! ## Tags and contexts -/

/-- Emits A's payload under another tag (R32). -/
def State.emitRetagged (s : State) (c : Ctx) (o : SlotOps) (w : BitVec 30) (t : Tag) : State :=
  (s.warnAs c ((prEff o).2 ||| rsvx (o.x != 0) ||| w)).emit2 c o { c.atok with tag := t }

/-- TAGI.ctx: a free context of the bent's pool, whose parent is A's tag (R32, R33); with an empty pool it waits. A MOD that R32 does
not list executes as 000 under TAGMOD. -/
def execTagiCtx (o : SlotOps) (s : State) : Host.Outcome State Fault Refusal :=
  s.runFiring o (fun c =>
    match (s.bent? c.br).map (·.pool) with
    | some (k :: rest) =>
      let s := s.updBent c.br (fun b => { b with pool := rest, ctxs := b.ctxs ++ [{ ctx := k, parent := c.tag, closing := false }] })
      .next (s.emitRetagged c o (if o.mod != 0 then warnBit 14 else 0) (Tag.mk k 0))
    | _ => s.wait)

/-- TAGI.nxt: the next iteration, modulo 4,096 (R32). -/
def execTagiNxt (o : SlotOps) (s : State) : Host.Outcome State Fault Refusal :=
  s.runFiring o (fun c => .next (s.emitRetagged c o 0 (c.tag.adv 1)))

/-- The parent tag recorded for the context of a tag, in the table of the bent that owns it (R32, R429). -/
def State.parentOf (s : State) (rid : Nat) (t : Tag) : Option Tag :=
  ((s.raising? rid).bind (·.ctxEntry t.ctx)).map (·.parent)

/-- TAGX: A's payload under the recorded parent tag; TAGX_ROOT where the context has none (R32, R33). -/
def execTagx (o : SlotOps) (s : State) : Host.Outcome State Fault Refusal :=
  s.runFiring o (fun c =>
    match s.parentOf c.br.rid c.tag with
    | some t => .next (s.emitRetagged c o (if o.mod != 0 then warnBit 14 else 0) t)
    | none => .next (s.fault c { cause := .tagxRoot }))

/-- TAGX.fin: as TAGX, and the context is marked closing (R32, R429). -/
def execTagxFin (o : SlotOps) (s : State) : Host.Outcome State Fault Refusal :=
  s.runFiring o (fun c =>
    match s.parentOf c.br.rid c.tag with
    | some t =>
      let s := s.updRaising c.br.rid (fun r => { r with bents := r.bents.map (fun b =>
        { b with ctxs := updIf b.ctxs (fun e => e.ctx == c.tag.ctx) (fun e => { e with closing := true }) }) })
      .next (s.emitRetagged c o 0 t)
    | none => .next (s.fault c { cause := .tagxRoot }))

/-! ## KBND (R34, R357, R358) -/

/-- The element of a firing. -/
def State.elemOf (s : State) (c : Ctx) : Option Elem :=
  match c.u with
  | .elem cx cy => s.elem? c.br cx cy
  | .station _ _ => none

/-- Changes the element of a firing. -/
def State.updElemOf (s : State) (c : Ctx) (f : Elem → Elem) : State :=
  match c.u with
  | .elem cx cy => s.updElem c.br cx cy f
  | .station _ _ => s

/-- The most contexts a station keeps entries for: KBND, GATE and REORD (R349, R358, R406). -/
def maxCtxs : Nat := 64

/-- The KBND entry of a firing's slot and context. -/
def Elem.kbndOf (e : Elem) (c : Ctx) : Option KbndCtx :=
  e.kbnd.find? (fun k => k.blk == c.blk && k.slot == c.slot && k.ctx == c.tag.ctx)

/-- Sets the KBND entry of a slot and context. -/
def Elem.setKbnd (e : Elem) (k : KbndCtx) : Elem :=
  { e with kbnd := e.kbnd.filter (fun j => !(j.blk == k.blk && j.slot == k.slot && j.ctx == k.ctx)) ++ [k] }

/-- KBND on a token of port A: admitted below k, else it waits in its row (R34). -/
def execKbndAdmit (o : SlotOps) (s : State) : Host.Outcome State Fault Refusal :=
  s.runFiring o (fun c =>
    match s.elemOf c with
    | none => .next s
    | some e =>
      let w := (prEff o).2 ||| rsvx (o.xf 9 20 != 0)
      match e.kbndOf c with
      | some k =>
        if k.live < o.xf 0 9 then
          .next (((s.updElemOf c (fun e => e.setKbnd { k with live := k.live + 1 })).warnAs c w).emit2 c o c.atok)
        else s.wait
      | none =>
        if (e.kbnd.filter (fun k => k.blk == c.blk && k.slot == c.slot)).length < maxCtxs then
          .next (((s.updElemOf c (fun e => e.setKbnd { blk := c.blk, slot := c.slot, ctx := c.tag.ctx, live := 1, first := c.tag.iter }
            )).warnAs c w).emit2 c o c.atok)
        else s.wait)

/-- Whether an A token of a firing's slot and context waits in its unit: in a row or in the spill ring (R358). -/
def State.kbndWaits (s : State) (e : Elem) (c : Ctx) : Bool :=
  (e.rows ++ (s.bent? c.br).elim [] (·.spill)).any (fun w => w.blk == c.blk && w.slot == c.slot && w.port == .a && w.tok.tag.ctx == c.tag.ctx)

/-- Among the waiting A tokens of a slot and context, the one nearest to the first admitted iteration (R34). -/
def nearestOf (first : Nat) : List Ready → Option Ready
  | [] => none
  | r :: rs =>
    match nearestOf first rs with
    | none => some r
    | some q => if (q.tag.iter + 4096 - first) % 4096 < (r.tag.iter + 4096 - first) % 4096 then some q else some r

/-- KBND on a token of port B: one iteration of its context retires and the nearest waiting A token is admitted; KBND_UNDERFLOW at a
count of zero (R34, R358). A null or predicated-off B token changes nothing. -/
def execKbndRetire (o : SlotOps) (s : State) : Host.Outcome State Fault Refusal :=
  match s.firing? with
  | none => .fault .notLatched
  | some c =>
    match fireCase (prEff o).1 c with
    | .nullPass => .next s
    | .off => .next s
    | .run =>
      match s.elemOf c with
      | none => .next s
      | some e =>
        match e.kbndOf c with
        | none => .next (s.fault c { cause := .kbndUnderflow })
        | some k =>
          if k.live = 0 then .next (s.fault c { cause := .kbndUnderflow })
          else
            let s := s.warnAs c ((prEff o).2 ||| rsvx (o.xf 9 20 != 0))
            let ws := (s.rowMatches c.br.rid e.rows).filter
              (fun r => r.blk == c.blk && r.slot == c.slot && r.a.isSome && r.tag.ctx == c.tag.ctx)
            match nearestOf k.first ws with
            | some r =>
              let s := (s.updElemOf c (fun e => { e with rows := takeRows e.rows r })).chargeAct c 0x5E
              match r.a with
              | some a => .next (s.emit2 c o a.tok)
              | none => .next s
            | none => .next (s.updElemOf c (fun e =>
                if k.live = 1 && !s.kbndWaits e c then { e with kbnd := e.kbnd.filter (fun j => j != k) } else e.setKbnd { k with live := k.live - 1 }))

/-! ## GATE (R55, R349) -/

/-- The opening of a firing's gate for its context. -/
def Elem.gateOf (e : Elem) (blk slot ctx : Nat) : Option GateCtx :=
  e.gate.find? (fun g => g.blk == blk && g.slot == slot && g.ctx == ctx)

/-- GATE: a P token opens the gate for its context; an A token passes once the gate is open, as null when a null opened it (R55). -/
def execGate (o : SlotOps) (s : State) : Host.Outcome State Fault Refusal :=
  match s.firing? with
  | none => .fault .notLatched
  | some c =>
    match s.elemOf c with
    | none => .next s
    | some e =>
      match c.p with
      | some p =>
        if (e.gateOf c.blk c.slot c.tag.ctx).isSome then .next s
        else if (e.gate.filter (fun g => g.blk == c.blk && g.slot == c.slot)).length < maxCtxs then
          .next (s.updElemOf c (fun e => { e with gate := e.gate ++
            [{ blk := c.blk, slot := c.slot, ctx := c.tag.ctx, null := p.tok.shape == .null }] }))
        else s.wait
      | none =>
        match e.gateOf c.blk c.slot c.tag.ctx with
        | some g =>
          if g.null || c.atok.shape == .null then .next (s.emit2 c o (nullTok c.tag))
          else .next ((s.warnAs c (prCtl o ||| rsvx (o.x != 0))).emit2 c o c.atok)
        | none => s.wait

/-- GATE_RELEASE: the first held A token of an open context leaves (R349). -/
def execGateRelease (br : BentRef) (cx cy : Nat) (blk slot ctx : Nat) (s : State) : Host.Outcome State Fault Refusal :=
  if !s.unitRuns br (.elem cx cy) then .next s else
  match s.elem? br cx cy, s.slot? br.rid blk slot with
  | some e, some p =>
    match e.gateOf blk slot ctx, e.rows.find? (fun w => w.blk == blk && w.slot == slot && w.port == .a && w.tok.tag.ctx == ctx) with
    | some g, some w =>
      let o := SlotOps.ofWord p.word
      let c : Ctx := { br := br, u := .elem cx cy, blk := blk, slot := slot, tag := w.tok.tag, a := some w, b := none, p := none }
      let s := (s.updElem br cx cy (fun e => { e with rows := e.rows.erase w })).chargeAct c (slotOpc p.word)
      if g.null || w.tok.shape == .null then .next (s.emit2 c o (nullTok w.tok.tag))
      else .next ((s.warnAs c (prCtl o ||| rsvx (o.x != 0))).emit2 c o w.tok)
    | _, _ => .next s
  | _, _ => .next s

/-! ## REORD (R56, R406) -/

/-- The due iteration of a slot's context, 0 for a context it has not seen (R406). -/
def Elem.dueOf (e : Elem) (blk slot ctx : Nat) : Option Nat :=
  (e.reord.find? (fun r => r.blk == blk && r.slot == slot && r.ctx == ctx)).map (·.due)

/-- Whether a REORD slot of an element has room for a further context (R406). -/
def Elem.reordRoom (e : Elem) (blk slot : Nat) : Bool := (e.reord.filter (fun r => r.blk == blk && r.slot == slot)).length < maxCtxs

/-- Sets the due iteration of a slot's context. -/
def Elem.setDue (e : Elem) (blk slot ctx due : Nat) : Elem :=
  { e with reord := e.reord.filter (fun r => !(r.blk == blk && r.slot == slot && r.ctx == ctx)) ++
      [{ blk := blk, slot := slot, ctx := ctx, due := due }] }

/-- The entry that a data token of a REORD makes for a context that the slot has not seen, if there is room (R406). -/
def State.noteReord (s : State) (br : BentRef) (u : UnitLoc) (i : Instr) (w : WaitTok) : State :=
  match i, u with
  | .reord _, .elem cx cy => s.updElem br cx cy (fun e =>
      if w.port == .a && (e.dueOf w.blk w.slot w.tok.tag.ctx).isNone && e.reordRoom w.blk w.slot then e.setDue w.blk w.slot w.tok.tag.ctx 0 else e)
  | _, _ => s

/-- Gives the contexts that wait at the REORDs of a raising the room that others have left (R406). -/
def State.refillReord (s : State) (rid : Nat) : State :=
  ((s.raising? rid).elim [] (fun r => r.bents.zipIdx)).foldl (fun s b => b.1.elems.foldl (fun s e => e.rows.foldl (fun s w =>
    match (s.slot? rid w.blk w.slot).bind (fun p => stationInstr p.word w.port) with
    | some i => s.noteReord { rid := rid, bent := b.2 } (.elem e.cx e.cy) i w
    | none => s) s) s) s

/-- Emits one token of REORD by R28: a null as null, one predicated off not at all (R406). -/
def State.reordEmit (s : State) (o : SlotOps) (c : Ctx) : State :=
  match fireCase (prEff o).1 c with
  | .nullPass => s.emit2 c o (nullTok c.tag)
  | .off => s
  | .run => (s.warnAs c ((prEff o).2 ||| rsvx (o.x != 0))).emit2 c o c.atok

/-- Emits the due token of a firing, advances the due iteration, and emits its waiting twins after it, from the rows and from the ready buffer
(R56, R406, R452). -/
def State.reordTake (s : State) (o : SlotOps) (c : Ctx) (due : Nat) : State :=
  let s := (s.updElemOf c (fun e => e.setDue c.blk c.slot c.tag.ctx ((due + 1) % 4096))).reordEmit o c
  match s.elemOf c with
  | none => s
  | some e =>
    let twin := fun (r : Ready) => r.blk == c.blk && r.slot == c.slot && r.tag == c.tag
    let waits := (s.rowMatches c.br.rid e.rows).filter twin
    let s := waits.foldl (fun s r =>
      let s := (s.updElemOf c (fun e => { e with rows := takeRows e.rows r, nondet := e.nondet ||| 2 })).chargeAct c 0x63
      s.reordEmit o { c with a := r.a, b := r.b, p := r.p }) s
    (e.ready.filter twin).foldl (fun s r =>
      let s := (s.updElemOf c (fun e => { e with ready := e.ready.erase r, nondet := e.nondet ||| 2 })).chargeAct c 0x63
      s.reordEmit o { c with a := r.a, b := r.b, p := r.p }) s

/-- REORD: a token of the iteration due leaves; a later one waits (R56, R406). -/
def execReord (o : SlotOps) (s : State) : Host.Outcome State Fault Refusal :=
  match s.firing? with
  | none => .fault .notLatched
  | some c =>
    match s.elemOf c with
    | none => .next s
    | some e =>
      match e.dueOf c.blk c.slot c.tag.ctx with
      | some due => if c.tag.iter = due then .next (s.reordTake o c due) else s.wait
      | none =>
        if e.reordRoom c.blk c.slot && c.tag.iter == 0 then .next (s.reordTake o c 0) else s.wait

/-- REORD_RELEASE: the waiting token of the iteration due leaves (R406). -/
def execReordRelease (br : BentRef) (cx cy : Nat) (blk slot ctx : Nat) (s : State) : Host.Outcome State Fault Refusal :=
  if !s.unitRuns br (.elem cx cy) then .next s else
  match s.elem? br cx cy, s.slot? br.rid blk slot with
  | some e, some p =>
    match e.dueOf blk slot ctx with
    | some due =>
      match (s.rowMatches br.rid e.rows).find? (fun r => r.blk == blk && r.slot == slot && r.tag == Tag.mk ctx due) with
      | some r =>
        let c : Ctx := { br := br, u := .elem cx cy, blk := blk, slot := slot, tag := r.tag, a := r.a, b := r.b, p := r.p }
        let s := (s.updElem br cx cy (fun e => { e with rows := takeRows e.rows r })).chargeAct c (slotOpc p.word)
        .next (s.reordTake (SlotOps.ofWord p.word) c due)
      | none => .next s
    | none => .next s
  | _, _ => .next s

/-- CONTEXT_RETURN: a closing context whose live count is zero returns to the end of its bent's pool, and the stations forget it
(R33, R429). -/
def execContextReturn (br : BentRef) (ctx : Nat) (s : State) : Host.Outcome State Fault Refusal :=
  match (s.bent? br).bind (fun b => b.ctxs.find? (·.ctx == ctx)) with
  | some e =>
    if e.closing && s.liveCount br.rid ctx == 0 then
      let s := s.updBent br (fun b => { b with pool := b.pool ++ [ctx], ctxs := b.ctxs.filter (·.ctx != ctx) })
      .next ((s.updRaising br.rid (fun r => { r with bents := r.bents.map (fun b =>
        { b with elems := b.elems.map (fun e => e.clearCtx ctx) }) })).refillReord br.rid)
    else .next s
  | none => .next s

/-! ## JOIN (R53, R356, R453) -/

/-- The row of a firing's JOIN for its tag. -/
def Elem.joinOf (e : Elem) (c : Ctx) : Option JoinRow :=
  e.join.find? (fun j => j.blk == c.blk && j.slot == c.slot && j.tag == c.tag)

/-- Frees the row of a JOIN. -/
def Elem.dropJoin (e : Elem) (c : Ctx) : Elem :=
  { e with join := e.join.filter (fun j => !(j.blk == c.blk && j.slot == c.slot && j.tag == c.tag)) }

/-- A row merged with one token of a JOIN: an arc, a completion or the P token; none where the arc is illegal (R53). -/
def joinMerge (o : SlotOps) (j : JoinRow) (c : Ctx) : Option JoinRow :=
  let c48 := fun (t : Token) => t.pay.toNat % 2 ^ 48
  let counted := o.x.getLsbD 6
  match c.a, c.b, c.p with
  | some a, _, _ =>
    if a.tok.shape = .null then some { j with nulls := j.nulls + 1 }
    else
      let arc := laneAt a.tok.pay 64 0 / 2 ^ 58
      if o.xf 0 6 < arc || j.arcs.contains arc then none
      else some { j with arcs := j.arcs ++ [arc], counter := if counted then (j.counter + c48 a.tok) % 2 ^ 48 else j.counter }
  | none, some b, _ =>
    if b.tok.shape = .null || !counted then some j
    else some { j with counter := (j.counter + 2 ^ 48 - c48 b.tok) % 2 ^ 48 }
  | none, none, some p => some { j with p := some p.tok }
  | none, none, none => some j

/-- Whether a row's instance is ready to release: all arcs, a counter of zero, and the P token where PR asks for one (R53, R453). -/
def joinReady (o : SlotOps) (j : JoinRow) : Bool :=
  j.arcs.length + j.nulls == o.xf 0 6 + 1 && j.counter == 0 && (!slotPredicated o || j.p.isSome)

/-- Whether a firing that needs a row of its own has one: a free one, which no spilled token claims first unless an operand has just left it (R35,
R37). -/
def State.rowOf (s : State) (c : Ctx) : Bool :=
  s.rowFree c.br c.u && (s.ownRows || !s.hasSpill c.br c.u || 1 < (c.a.toList ++ c.b.toList ++ c.p.toList).length)

/-- JOIN: each token is merged into the row of its tag; a complete row releases a scalar N, a null when an arc or P was null, and
nothing when the predicate is off (R28, R53, R356). A second P token of a tag waits for the next instance (R30). -/
def execJoin (o : SlotOps) (s : State) : Host.Outcome State Fault Refusal :=
  match s.firing? with
  | none => .fault .notLatched
  | some c =>
    match s.elemOf c with
    | none => .next s
    | some e =>
      let fresh : JoinRow := { blk := c.blk, slot := c.slot, tag := c.tag, arcs := [], nulls := 0, counter := 0, p := none }
      if c.a.isNone && c.b.isNone && c.p.isSome && (e.joinOf c).elim false (·.p.isSome) then s.wait
      else match e.joinOf c, joinMerge o ((e.joinOf c).getD fresh) c with
      | _, none => .next (s.fault c { cause := .joinArc })
      | old, some j =>
        if joinReady o j then
          let s := s.updElemOf c (fun e => e.dropJoin c)
          let isOff := match j.p with
            | some p => (o.pr == 1 && !p.truth) || (o.pr == 2 && p.truth)
            | none => false
          let isNull := j.nulls != 0 || (match j.p with
            | some p => p.shape == .null
            | none => false)
          if isNull then .next (s.emit2 c o (nullTok c.tag))
          else if isOff then .next s
          else .next ((s.warnAs c ((prEff o).2 ||| rsvx (o.xf 7 22 != 0))).emit2 c o (scalarTok c.tag (o.xf 0 6 + 1)))
        else if old.isSome || s.rowOf c then
          .next (s.updElemOf c (fun e => { e.dropJoin c with join := (e.dropJoin c).join ++ [j] }))
        else .next ((c.a.toList ++ c.b.toList ++ c.p.toList).foldl (fun s w => s.spillTok c.br c.u w) s)

/-! ## CTR (R327) -/

/-- CTR: every token passes to T0; every n-th of its context sends the scalar n to T1 (R327). A token of a seventeenth context waits. -/
def execCtr (o : SlotOps) (s : State) : Host.Outcome State Fault Refusal :=
  s.runFiring o (fun c =>
    match s.elemOf c with
    | none => .next s
    | some e =>
      let mine := fun (k : CtrCtx) => k.blk == c.blk && k.slot == c.slot
      let here := fun (k : CtrCtx) => mine k && k.ctx == c.tag.ctx
      let n := o.xf 0 16 + 1
      let count := ((e.ctr.find? here).elim 0 (·.count)) + 1
      if count ≠ n && !e.ctr.any here && 16 ≤ (e.ctr.filter mine).length then s.wait
      else
        let rest := e.ctr.filter (fun k => !here k)
        let s := s.updElemOf c (fun e => { e with ctr :=
          if count = n then rest else rest ++ [{ blk := c.blk, slot := c.slot, ctx := c.tag.ctx, count := count }] })
        let s := (s.warnAs c ((prEff o).2 ||| rsvx (o.xf 16 13 != 0))).emit c o.t0 c.atok
        .next (if count = n then s.emit c o.t1 (scalarTok c.tag n) else s))

/-! ## EXIT, READ and WRITE -/

/-- Ends the watch over an activation (R58). -/
def State.endAge (s : State) (c : Ctx) : State :=
  s.updBent c.br (fun b => { b with ages := b.ages.filter (fun a => !(a.blk == c.blk && a.tag == c.tag)) })

/-- An EXIT that is nullified (R28, R337): in an ORDERED activation it is counted, and EXIT_NONE is raised when it is the last EXIT and
none has executed (R44). `pass` emits nulls. -/
def State.exitNullified (s : State) (o : SlotOps) (c : Ctx) (pass : Bool) : State :=
  let out := fun (s : State) => if pass then s.emit2 c o (nullTok c.tag) else s
  match s.ctxTl c, s.bent? c.br, s.block? c.br.rid c.blk with
  | some tl, some b, some k =>
    match (b.timelines[tl]?).bind (·.entry? c.tag) with
    | some e =>
      if e.exits = 0 && k.nexit ≤ e.exitNull + 1 then s.fault c { cause := .exitNone }
      else out (s.updEntry c (fun e => { e with exitNull := e.exitNull + 1 }))
    | none => out s
  | _, _, _ => out s

/-- EXIT (R40, R42, R44, R336, R337). -/
def execExit (o : SlotOps) (s : State) : Host.Outcome State Fault Refusal :=
  match s.firing? with
  | none => .fault .notLatched
  | some c =>
    match fireCase (prEff o).1 c with
    | .nullPass => .next (s.exitNullified o c true)
    | .off => .next (s.exitNullified o c false)
    | .run =>
      let nx := o.x.getLsbD 12
      let idx := o.xf 0 12
      let w := (prEff o).2 ||| rsvx (o.xf 13 16 != 0)
      match s.ctxTl c, s.raising? c.br.rid with
      | some tl, _ =>
        match ((s.bent? c.br).bind (fun b => b.timelines[tl]?)).bind (·.entry? c.tag) with
        | some e =>
          if e.exits ≠ 0 then .next (s.fault c { cause := .exitTwice })
          else
            let s := ((s.endAge c).updEntry c (fun e => { e with exits := 1 })).warnAs c w
            let s := s.emit2 c o c.atok
            .next (if nx then s.sillStart c.br tl (some (s.srcCell c)) { ts := e.ts + 1, blk := idx, tok := c.atok }
              else s.updTl c.br tl (fun t => { t with chain := false }))
        | none => .next s
      | none, some r =>
        if nx && r.blocks.length ≤ idx then .next (s.fault c { cause := .blockIndex })
        else
          let s := ((s.endAge c).updBent c.br (fun b => { b with completions := b.completions + 1 })).warnAs c w
          let s := s.emit2 c o c.atok
          .next (if nx then s.deliverStart c.br.rid (some (s.srcCell c)) idx c.atok else s)
      | none, none => .next s

/-- READ: the register as seen at the activation's timestamp; it waits for an older WRITE that is pending (R45, R401). -/
def execRead (o : SlotOps) (s : State) : Host.Outcome State Fault Refusal :=
  s.runFiring o (fun c =>
    match s.ctxTl c with
    | none => .next s
    | some tl =>
      match (s.bent? c.br).bind (fun b => b.timelines[tl]?) with
      | none => .next s
      | some t =>
        let v := match t.entry? c.tag with
          | some e => s.gValue c.br.rid t e.ts (o.xf 0 6)
          | none => some (t.g.getD (o.xf 0 6) 0)
        match v with
        | some v => .next ((s.warnAs c ((prEff o).2 ||| tilehd c ||| rsvx (o.xf 6 23 != 0))).emit2 c o (scalarTok c.tag v.toNat))
        | none => s.wait)

/-- Accounts a register of the write mask, with its buffered value (R44, R45). -/
def State.bufferWrite (s : State) (c : Ctx) (g : Nat) (v : Option W64) : State :=
  s.updEntry c (fun e => { e with writes := e.writes.filter (fun w => w.1 != g) ++ [(g, v)] })

/-- WRITE: buffers bits 63 to 0 of A under the activation's timestamp and passes A on (R45, R444). -/
def execWrite (o : SlotOps) (s : State) : Host.Outcome State Fault Refusal :=
  match s.firing? with
  | none => .fault .notLatched
  | some c =>
    match fireCase (prEff o).1 c with
    | .nullPass => .next ((s.bufferWrite c (o.xf 0 6) none).emit2 c o (nullTok c.tag))
    | .off => .next (s.bufferWrite c (o.xf 0 6) none)
    | .run =>
      let s := s.bufferWrite c (o.xf 0 6) (some (c.atok.pay.setWidth 64))
      .next ((s.warnAs c ((prEff o).2 ||| tilehd c ||| rsvx (o.xf 6 23 != 0))).emit2 c o c.atok.plain)

/-! ## CMB (R54, R318, R319) -/

/-- The key of a contribution to a CMB: its tag without the member number (R54, R318). -/
def cmbKey (o : SlotOps) (t : Tag) : Tag := Tag.mk t.ctx (t.iter - t.iter % 2 ^ o.xf 12 3)

/-- The row of a key of a firing's CMB. -/
def Elem.cmbOf (e : Elem) (c : Ctx) (key : Tag) : Option CmbRow :=
  e.cmb.find? (fun r => r.blk == c.blk && r.slot == c.slot && r.key == key)

/-- Frees the row of a key. -/
def Elem.dropCmb (e : Elem) (c : Ctx) (key : Tag) : Elem :=
  { e with cmb := e.cmb.filter (fun r => !(r.blk == c.blk && r.slot == c.slot && r.key == key)) }

/-- Combines two payloads lane by lane (R54, R132). -/
def combinePay (op ty : Nat) (mode : Rnd) (a b : W256) : W256 × BitVec 8 :=
  let w := laneBits ty
  let rs := List.zipWith (redNode op ty mode) (lanesOf a w (laneCount ty)) (lanesOf b w (laneCount ty))
  (BitVec.ofNat 256 (packLanes w (rs.map (·.1))), orFlags (rs.map (·.2)))

/-- A payload that stands alone: its NaNs made canonical (R115, R132). -/
def settlePay (op ty : Nat) (a : W256) : W256 × BitVec 8 :=
  let w := laneBits ty
  let rs := (lanesOf a w (laneCount ty)).map (redLeaf op ty)
  (BitVec.ofNat 256 (packLanes w (rs.map (·.1))), orFlags (rs.map (·.2)))

/-- A contribution's payload with a scalar replicated to every lane (R26, R54). -/
def Token.spread (t : Token) (ty : Nat) : W256 :=
  BitVec.ofNat 256 (packLanes (laneBits ty) (t.lanes (laneBits ty) (laneCount ty)))

/-- The row after one contribution: none when its member number is illegal (R54). `v` is none for a null or predicated-off one. The member number
of a null one is not checked: R54 states the check for contributions with a value and for those predicated off (log 82). -/
def cmbAdd (o : SlotOps) (mode : Rnd) (r : CmbRow) (member : Nat) (v : Option W256) (null vector : Bool) :
    Option (CmbRow × BitVec 8) :=
  let op := o.xf 16 4
  let ty := o.ty.toNat
  if op = 6 && !o.x.getLsbD 15 then
    if null then some ({ r with seen := r.seen + 1, null := true }, 0)
    else if o.xf 0 6 < member || r.vals.any (fun x => x.1 == member) then none
    else some ({ r with seen := r.seen + 1, vals := r.vals ++ [(member, v)], vector := r.vector || vector }, 0)
  else
    match v, r.acc with
    | some x, some y =>
      let z := combinePay op ty mode y x
      some ({ r with seen := r.seen + 1, acc := some z.1, vector := r.vector || vector }, z.2)
    | some x, none => some ({ r with seen := r.seen + 1, acc := some x, vector := r.vector || vector }, 0)
    | none, _ => some ({ r with seen := r.seen + 1, null := r.null || null }, 0)

/-- The combined value of a full row, none when every contribution was predicated off (R54). -/
def cmbValue (o : SlotOps) (mode : Rnd) (r : CmbRow) : Option W256 × BitVec 8 :=
  let op := o.xf 16 4
  let ty := o.ty.toNat
  if op = 6 && !o.x.getLsbD 15 then
    let leaves := (List.range (o.xf 0 6 + 1)).map (fun m => (r.vals.find? (fun x => x.1 == m)).bind (·.2))
    match leaves.filterMap id with
    | [v] => let z := settlePay op ty v; (some z.1, z.2)
    | _ => canon (combinePay op ty mode) leaves
  else
    match r.acc with
    | some v => let z := settlePay op ty v; (some z.1, z.2)
    | none => (none, 0)

/-- CMB: merges one contribution into the row of its key; the last of CNT1 + 1 releases the combined value under the key, and the flags and WARN
bits of all contributions with it (R54, R131, R294, R318). -/
def execCmb (o : SlotOps) (s : State) : Host.Outcome State Fault Refusal :=
  match s.firing? with
  | none => .fault .notLatched
  | some c =>
    match s.elemOf c with
    | none => .next s
    | some e =>
      let member := c.tag.iter % 2 ^ o.xf 12 3
      let key := cmbKey o c.tag
      let m := if o.xf 16 4 = 6 then rndOf o.mod (s.rmodeOf c.br c.u) else (.rne, 0)
      let old := e.cmbOf c key
      let row := old.getD { blk := c.blk, slot := c.slot, key := key, seen := 0, vals := [], acc := none, null := false, vector := false,
                               flags := 0, warn := 0 }
      let fc := fireCase (prEff o).1 c
      let v := if fc = .run then some (c.atok.plain.spread o.ty.toNat) else none
      match cmbAdd o m.1 row member v (fc == .nullPass) (fc == .run && !c.atok.isScalar) with
      | none => .next (s.fault c { cause := .cmbMember })
      | some (r, fl) =>
        let warn := if fc = .run then (prEff o).2 ||| m.2 ||| rsvx (o.xf 20 9 != 0 || o.xf 6 6 != 0) else 0
        let arrivalMode := o.xf 16 4 == 6 && o.x.getLsbD 15 && fc == .run
        let r := { r with flags := r.flags ||| fl, warn := r.warn ||| warn }
        let mark := fun (s : State) => s.updElemOf c (fun e => if arrivalMode then { e with nondet := e.nondet ||| 1 } else e)
        if r.seen = o.xf 0 6 + 1 then
          let s := mark (s.updElemOf c (fun e => e.dropCmb c key))
          let z := cmbValue o m.1 r
          if r.null then .next (s.emit2 c o (nullTok key))
          else match z.1 with
            | some pay =>
              let w := laneBits o.ty.toNat
              .next (((s.raiseFlags c.br c.u (r.flags ||| z.2)).warnAs c r.warn).emit2 c o (laneTok key (!r.vector) w (lanesOf pay w (laneCount o.ty.toNat))))
            | none => .next s
        else if old.isSome || s.rowOf c then
          .next (mark (s.updElemOf c (fun e => { e.dropCmb c key with cmb := (e.dropCmb c key).cmb ++ [r] })))
        else .next ((c.a.toList ++ c.p.toList).foldl (fun s w => s.spillTok c.br c.u w) s)

end Sys2Proof.Machine
end

