-- ==== Sys2Proof/Machine/Translate.lean ====
section
/-! DEFINITION. Addresses: local ones (R61), page tables and walks (R169 to R172), windows (R176, R179), the dirty logger (R183), shadowed
buffers (R100 to R103), and reading and writing at a home with its key, its migration record and its errors (R182, R186, R266). -/

namespace Sys2Proof.Machine

open Sys2Proof

/-! ## Page-table entries (R170, R171) -/

/-- A field of an entry. -/
def pteF (e : W64) (lo n : Nat) : Nat := e.toNat / 2 ^ lo % 2 ^ n
/-- V. -/
def pteV (e : W64) : Bool := e.getLsbD 0
/-- RD. -/
def pteRd (e : W64) : Bool := e.getLsbD 1
/-- WR. -/
def pteWr (e : W64) : Bool := e.getLsbD 2
/-- A. -/
def pteA (e : W64) : Bool := e.getLsbD 3
/-- D. -/
def pteD (e : W64) : Bool := e.getLsbD 4
/-- IST. -/
def pteIst (e : W64) : Bool := e.getLsbD 5
/-- SHD. -/
def pteShd (e : W64) : Bool := e.getLsbD 6
/-- MIG. -/
def pteMig (e : W64) : Bool := e.getLsbD 7
/-- ENC. -/
def pteEnc (e : W64) : Nat := pteF e 8 4
/-- HOME. -/
def pteHome (e : W64) : Nat := pteF e 12 2
/-- FRAME. -/
def pteFrame (e : W64) : Nat := pteF e 14 36
/-- PY. -/
def ptePy (e : W64) : Nat := pteF e 50 7
/-- PX. -/
def ptePx (e : W64) : Nat := pteF e 57 7

/-- Whether a physical address range of a package exists (R2, R21, R63). -/
def State.physOk (s : State) (p : Pkg) (pa : Nat) : Bool :=
  match s.plat? p with
  | some q =>
    match regionOf pa with
    | .hbm k => !q.failedStacks.contains k
    | .sinter => pa - 0x10000000000 < (q.sinter.foldl (· + ·) 0) * 2 ^ 30
    | .vault _ => true
    | .host => true
    | .spad => true
    | .reserved => false
  | none => false

/-- Whether the frame of an entry lies in the range of its HOME and exists there (R63, R171). -/
def State.frameOk (s : State) (p : Pkg) (e : W64) : Bool :=
  let pa := pteFrame e * 2 ^ 16
  match pteHome e with
  | 0 => (match regionOf pa with
    | .hbm _ => s.physOk p pa
    | _ => false)
  | 1 => regionOf pa == .sinter && s.physOk p pa
  | 2 => regionOf pa == .host
  | _ => true

/-- Whether an entry is a valid pointer (R171). -/
def State.pointerOk (s : State) (p : Pkg) (e : W64) : Bool :=
  pteV e && !pteRd e && !pteWr e && pteF e 3 11 == 0 && pteF e 50 14 == 0 && s.frameOk p e

/-- The package whose security block holds the key of a leaf: that of its home (R171, R266). -/
def keyPkg (p : Pkg) (e : W64) : Pkg := if pteHome e = 3 then { px := ptePx e, py := ptePy e } else p

/-- Whether the ENC of a leaf is plaintext or names a key that is assigned to a partition on the leaf's home package (R266). -/
def State.keyed (s : State) (p : Pkg) (part : Nat) (leaf : W64) : Bool :=
  pteEnc leaf == 0 || (s.plat? (keyPkg p leaf)).elim false (fun q => q.keys.any (fun k => k.1 == pteEnc leaf && k.2.1 == part))

/-- Whether an entry is a valid leaf at a level (R171, R266). -/
def State.leafOk (s : State) (p : Pkg) (part level : Nat) (e : W64) : Bool :=
  pteV e && (pteRd e || pteWr e) && level != 1 &&
  !(level == 2 && (pteFrame e % 2 ^ 13 != 0 || pteMig e)) &&
  s.frameOk p e &&
  (if pteHome e = 3 then ptePx e < s.domW && ptePy e < s.domH else ptePx e == 0 && ptePy e == 0) &&
  !(pteIst e && pteHome e != 0) &&
  s.keyed p part e

/-! ## The walk (R172) -/

/-- What an access needs of a leaf. -/
structure Need where
  rd : Bool
  wr : Bool
deriving DecidableEq, Repr

/-- Needs RD. -/
def needRd : Need := { rd := true, wr := false }
/-- Needs WR. -/
def needWr : Need := { rd := false, wr := true }
/-- Needs both. -/
def needBoth : Need := { rd := true, wr := true }

/-- The cause of a leaf that lacks a permission (R172): XL_WRITE first where both are needed. -/
def Need.lack (n : Need) (e : W64) : Option Cause :=
  if n.wr && !pteWr e then some .xlWrite else if n.rd && !pteRd e then some .xlRead else none

/-- Whether bits 63 to 55 of an address equal bit 54 (R62). -/
def canonVa (a : W64) : Bool := a.toNat / 2 ^ 54 == 0 || a.toNat / 2 ^ 54 == 2 ^ 10 - 1

/-- The root of a virtual device on a package (R169). -/
def State.trootOf (s : State) (v : VdRef) (p : Pkg) : Option Nat :=
  (s.vdev? v).bind (fun d => (d.troot.find? (fun t => t.1 == p)).map (·.2))

/-- The translation generation of a virtual device on a package (R173). -/
def State.tgenOf (s : State) (v : VdRef) (p : Pkg) : Nat :=
  ((s.vdev? v).bind (fun d => (d.tgen.find? (fun t => t.1 == p)).map (·.2))).getD 0

/-- How a walk ends. -/
inductive WalkEnd where
  | ok (w : Window)
  | bad (i : FaultInfo)
deriving DecidableEq, Repr

/-- A 55-bit virtual address as the 64-bit address that a program gives: bit 54 repeated above it (R62, R178). -/
def canon64 (va : Nat) : Nat := if va / 2 ^ 54 % 2 = 1 then va % 2 ^ 55 + (2 ^ 64 - 2 ^ 55) else va % 2 ^ 55

/-- The end of a walk at a leaf: its permissions, and the window it makes (R172, R176). -/
def State.leafEnd (s : State) (p : Pkg) (v : VdRef) (va : Nat) (need : Need) (big : Bool) (ptea : Nat) (e : W64) : WalkEnd :=
  let level := if big then 2 else 3
  match need.lack e with
  | some c => .bad { cause := c, addr := canon64 va, level := level, wr := need.wr, aux := e.toNat }
  | none =>
    let size := if big then 2 ^ 29 else 2 ^ 16
    .ok { gen := s.tgenOf v p, big := big, ptea := ptea, leaf := e ||| 8, vbase := va / size * size, at_ := s.now }

/-- The walk of a 55-bit virtual address on a package (R172). An entry with an uncorrectable error is not used: the error reaches the unit that
walks (R186). -/
def State.walkEnd (s : State) (p : Pkg) (v : VdRef) (va : Nat) (need : Need) : WalkEnd :=
  let bad := fun (level : Nat) (e : W64) =>
    WalkEnd.bad { cause := .xlInvalid, addr := canon64 va, level := level, wr := need.wr, aux := e.toNat }
  let ecc := fun (level : Nat) => WalkEnd.bad { cause := .eccUncorr, addr := canon64 va, level := level, wr := need.wr }
  match s.trootOf v p with
  | none => bad 1 0
  | some root =>
    let a1 := root + 8 * (va / 2 ^ 42 % 2 ^ 13)
    let e1 := s.read8 (gaOf p a1)
    if s.eccIn (gaOf p a1) 8 then ecc 1
    else if !s.pointerOk p e1 then bad 1 e1
    else
      let a2 := pteFrame e1 * 2 ^ 16 + 8 * (va / 2 ^ 29 % 2 ^ 13)
      let e2 := s.read8 (gaOf p a2)
      if s.eccIn (gaOf p a2) 8 then ecc 2
      else if s.leafOk p v.part 2 e2 then s.leafEnd p v va need true a2 e2
      else if !s.pointerOk p e2 then bad 2 e2
      else
        let a3 := pteFrame e2 * 2 ^ 16 + 8 * (va / 2 ^ 16 % 2 ^ 13)
        let e3 := s.read8 (gaOf p a3)
        if s.eccIn (gaOf p a3) 8 then ecc 3
        else if s.leafOk p v.part 3 e3 then s.leafEnd p v va need false a3 e3 else bad 3 e3

/-- Sets bits of an entry in memory with an atomic OR (R172, R183). -/
def State.orPte (s : State) (p : Pkg) (ptea bits : Nat) : State :=
  s.writeBytes (gaOf p ptea) (bytesOf 8 (s.read8 (gaOf p ptea) ||| BitVec.ofNat 64 bits).toNat)

/-- A walk, which sets A at a leaf that grants the access (R172). -/
def State.walk (s : State) (p : Pkg) (v : VdRef) (va : Nat) (need : Need) : WalkEnd × State :=
  match s.walkEnd p v va need with
  | .ok w => (.ok w, if pteA (s.read8 (gaOf p w.ptea)) then s else s.orPte p w.ptea 8)
  | .bad i => (.bad i, s)

/-! ## Windows (R176, R179) -/

/-- Whether a window covers an address. -/
def Window.covers (w : Window) (va : Nat) : Bool := w.vbase ≤ va && va < w.vbase + (if w.big then 2 ^ 29 else 2 ^ 16)

/-- Whether an access hits a window (R179). -/
def Window.hits (w : Window) (tgen va : Nat) (need : Need) : Bool :=
  w.covers va && w.gen == tgen && (need.lack w.leaf).isNone

/-- Whether an access of a virtual device on a package hits a window, whose leaf grants nothing once its key is erased (R179, R266). -/
def State.winHits (s : State) (p : Pkg) (v : VdRef) (w : Window) (va : Nat) (need : Need) : Bool :=
  w.hits (s.tgenOf v p) va need && s.keyed p v.part w.leaf

/-- The home address of a virtual address through a window, from a package. -/
def Window.ga (w : Window) (p : Pkg) (va : Nat) : Nat :=
  let home : Pkg := if pteHome w.leaf = 3 then { px := ptePx w.leaf, py := ptePy w.leaf } else p
  gaOf home (pteFrame w.leaf * 2 ^ 16 + va % (if w.big then 2 ^ 29 else 2 ^ 16))

/-- Installs a walk's window in the entry filled longest ago of at most eight (R179). R179 gives the eight entries to an AG and states no number for a
Lahar or a vent port; the model gives each of them eight too (log 83). -/
def installOwn (l : List Window) (w : Window) : List Window :=
  let l := l.filter (fun x => !(x.vbase == w.vbase && x.big == w.big))
  (if 8 ≤ l.length then l.drop 1 else l) ++ [w]

/-- Refreshes the program window whose page a walk read, if there is one (R179). -/
def refreshProg (l : List (Option Window)) (w : Window) : List (Option Window) × Bool :=
  (l.map (fun x => match x with
    | some y => if y.vbase = w.vbase ∧ y.big = w.big then some w else some y
    | none => none),
   l.any (fun x => match x with
    | some y => y.vbase == w.vbase && y.big == w.big
    | none => false))

/-- Sets D in every copy of a leaf that a list of windows holds. -/
def markDirty (ptea : Nat) (l : List Window) : List Window :=
  l.map (fun w => if w.ptea = ptea then { w with leaf := w.leaf ||| 16 } else w)

/-! ## The dirty logger (R183) -/

/-- Sets D at PTEA with an atomic OR; the request that finds D = 0 appends an entry for its page to the partition's log, or sets OVF when the ring
is full. None when PTEA holds an uncorrectable error, which the OR reads (R186). The ring of a partition of several packages stands, for each
entry, in the HBM of the package whose logger writes it: R183 names one ring and no package (log 84). -/
def State.setDirty (s : State) (p : Pkg) (v : VdRef) (ptea va : Nat) (big : Bool) : Option State :=
  let was := pteD (s.read8 (gaOf p ptea))
  if s.eccIn (gaOf p ptea) 8 then none
  else
  let s := s.orPte p ptea 16
  some (if was then s
  else match s.part? v.part with
    | some q =>
      let d := q.dirty
      if d.size = 0 ∨ d.size ≤ d.wr - d.rd then s.updPart v.part (fun q => { q with dirty := { q.dirty with ovf := true } })
      else
        let page := if big then va / 2 ^ 29 * 2 ^ 29 else va
        let entry := page / 2 ^ 16 % 2 ^ 39 + v.vd * 2 ^ 39 + (if big then 2 ^ 45 else 0)
        (s.writeBytes (gaOf p (d.base + 8 * (d.wr % d.size))) (bytesOf 8 entry)).updPart v.part
          (fun q => { q with dirty := { q.dirty with wr := q.dirty.wr + 1 } })
    | none => s)

/-- The fault of a write whose page entry cannot be read for its D bit (R186). -/
def dirtyEcc (va : Nat) : FaultInfo := { cause := .eccUncorr, addr := canon64 va, wr := true }

/-- An access of an engine through a list of windows: a hit, or a walk whose window it installs; a write sets D first (R179). -/
def State.engineAccess (s : State) (p : Pkg) (v : VdRef) (wins : List Window) (va : Nat) (need : Need) :
    WalkEnd × List Window × State :=
  let dirty := fun (w : Window) (l : List Window) (s : State) =>
    if need.wr && !pteD w.leaf then
      match s.setDirty p v w.ptea va w.big with
      | some t => (WalkEnd.ok { w with leaf := w.leaf ||| 16 }, markDirty w.ptea l, t)
      | none => (WalkEnd.bad (dirtyEcc va), l, s)
    else (WalkEnd.ok w, l, s)
  match wins.find? (fun w => s.winHits p v w va need) with
  | some w => dirty w wins s
  | none =>
    match s.walk p v va need with
    | (.ok w, s) => dirty w (installOwn wins w) s
    | (.bad i, s) => (.bad i, wins, s)

/-! ## Shadowed buffers (R100 to R103) -/

/-- The shadowed buffer that holds a virtual address. -/
def State.shadowOf (s : State) (v : VdRef) (va : Nat) : Option ShadowBuf :=
  (s.vdev? v).bind (fun d => d.shadows.find? (fun b => b.vbase ≤ va && va < b.vbase + b.len))

/-- The address of a buffer's byte in the set visible at a generation (R100): VBASE's frames at an even one. -/
def ShadowBuf.at_ (b : ShadowBuf) (g va : Nat) : Nat := if g % 2 = 0 then va else va - b.vbase + b.sbase

/-- Whether a number, as a virtual address, lies in a buffer. -/
def ShadowBuf.holds (b : ShadowBuf) (a : Nat) : Bool := b.vbase ≤ a % 2 ^ 55 && a % 2 ^ 55 < b.vbase + b.len

/-- The generation in which a reader that took the given ones, by VBASE, reads a buffer: the one it took, or the buffer's own (R101). -/
def ShadowBuf.genIn (b : ShadowBuf) (gens : List (Nat × Nat)) : Nat := ((gens.find? (·.1 == b.vbase)).map (·.2)).getD b.g

/-- The address an access of the visible set translates, with the generations its reader took (R100, R101). -/
def State.visibleVa (s : State) (v : VdRef) (va : Nat) (gens : List (Nat × Nat)) : Nat :=
  match s.shadowOf v va with
  | some b => b.at_ (b.genIn gens) va
  | none => va

/-- The generations that a read of addresses takes as it starts, of every buffer it touches (R101). -/
def State.gensNow (s : State) (v : VdRef) (addrs : List Nat) : List (Nat × Nat) :=
  (((s.vdev? v).elim [] (·.shadows)).filter (fun b => addrs.any b.holds)).map (fun b => (b.vbase, b.g))

/-- The generations that a read of a range takes as it starts. -/
def State.gensOfRange (s : State) (v : VdRef) (lo len : Nat) : List (Nat × Nat) :=
  (((s.vdev? v).elim [] (·.shadows)).filter (fun b => b.vbase < lo % 2 ^ 55 + len && lo % 2 ^ 55 < b.vbase + b.len)).map (fun b => (b.vbase, b.g))

/-- The address a write with SH translates: in the shadow set; none where no buffer holds it (R100). -/
def State.shadowVa (s : State) (v : VdRef) (va : Nat) : Option Nat := (s.shadowOf v va).map (fun b => b.at_ (b.g + 1) va)

/-! ## Local addresses (R61) -/

/-- What a local address names. -/
inductive LocalAt where
  | spad (off : Nat)
  | vault (k : Clu) (off : Nat)
  | ring (k : Clu) (n off : Nat)
  | bad
deriving DecidableEq, Repr

/-- The cluster of a local address's DIE and VAULT, displaced by its bent's moves; none outside the package (R9, R61, R232). -/
def Bent.laClu (b : Bent) (a : Nat) : Option Clu :=
  let k := Clu.ofVault b.pkg (a / 2 ^ 22 % 2 ^ 10)
  let x := Int.ofNat k.X + b.vdx
  let y := Int.ofNat k.Y + b.vdy
  if 0 ≤ x ∧ x < 32 ∧ 0 ≤ y ∧ y < 32 then some { k with X := x.toNat, Y := y.toNat } else none

/-- The decoding of a local address with the checks of R61 but the ring's own (R61). -/
def Bent.localAt (b : Bent) (a : Nat) : LocalAt :=
  if a / 2 ^ 40 % 2 ^ 24 ≠ 0 ∨ a / 2 ^ 32 % 2 ^ 6 ≠ 0 ∨ a / 2 ^ 21 % 2 ≠ 0 then .bad
  else
    match a / 2 ^ 38 % 4, (b.laClu a).filter (fun k => b.grant.contains k.vault) with
    | 0, _ => if a / 2 ^ 22 % 2 ^ 10 ≠ 0 ∨ a / 2 ^ 14 % 2 ^ 7 ≠ 0 then .bad else .spad (a % 2 ^ 14)
    | 1, some k => .vault k (a % 2 ^ 21)
    | 2, some k => .ring k (a / 2 ^ 16 % 32) (a % 2 ^ 16)
    | _, _ => .bad

/-- The canonical cluster of a physical cluster of a bent. -/
def Bent.canonClu (b : Bent) (k : Clu) : Nat × Nat := (k.X - b.x0 / 4, k.Y - b.y0 / 4)

/-- The package cluster of a canonical cluster of a bent. -/
def Bent.physClu (b : Bent) (cX cY : Nat) : Clu := { pkg := b.pkg, X := b.x0 / 4 + cX, Y := b.y0 / 4 + cY }

/-! ## Keys, migration and errors at a home -/

/-- Whether a leaf's frame lies in HBM or in the Sinter store, of its own package or of the one that HOME = 11 names (R171, R266). -/
def leafCrypt (leaf : W64) : Bool :=
  match pteHome leaf, regionOf (pteFrame leaf * 2 ^ 16) with
  | 2, _ => false
  | 3, .hbm _ => true
  | 3, .sinter => true
  | 3, _ => false
  | _, _ => true

/-- The number of a key that is erased: no unit was ever written under it, so nothing reads plainly through it. -/
def erasedKey (enc : Nat) : Nat := 2 ^ 68 + enc

/-- The key of an access through a leaf, of the security block of the home's package (R266): 0 for plaintext, and for every home but HBM and the
Sinter store. A key of the partition that has been erased since the access was translated gives no plaintext. -/
def State.keyOf (s : State) (p : Pkg) (part : Nat) (leaf : W64) : Nat :=
  if pteEnc leaf = 0 ∨ !leafCrypt leaf then 0
  else
    match (s.plat? (keyPkg p leaf)).bind (fun q => q.keys.find? (fun k => k.1 == pteEnc leaf && k.2.1 == part)) with
    | some k => k.2.2 * 16 + pteEnc leaf
    | none => erasedKey (pteEnc leaf)

/-- The migration record of a home address, with its index. -/
def State.migOf (s : State) (ga : Nat) : Option MigRec := s.migs.find? (fun m => m.new_ == ga / 2 ^ 16 * 2 ^ 16)

/-- Pulls one line of a migrating page from its old home, each unit of it under the key that it was last written under (R182, R266). -/
def State.pullLine (s : State) (m : MigRec) (line : Nat) : State :=
  let s := (List.range 8).foldl (fun s i =>
    let a := m.old + 256 * line + 32 * i
    s.writeKey (m.new_ + 256 * line + 32 * i) (s.unitKey (a / 32)) (s.readKey a 32 (s.unitKey (a / 32)))) s
  { s with migs := updIf s.migs (fun x => x.new_ == m.new_) (fun x =>
      let bits := x.bits.set line true
      { x with bits := bits, state := if bits.all id then .done else x.state }) }

/-- How the memory port of a home meets an access: it waits for a record that is pending, it reaches an uncorrectable error at the old
home, or it is ready after its lines are pulled (R182). -/
inductive PortEnd where
  | waits
  | ecc (s : State)
  | ready (s : State)
deriving DecidableEq, Repr

/-- The lines of an access served one after another (R182). -/
def State.portLines (s : State) : List Nat → PortEnd
  | [] => .ready s
  | ga :: rest =>
    match s.migOf ga with
    | some m =>
      let line := ga % 2 ^ 16 / 256
      if m.bits.getD line true then s.portLines rest
      else match m.state with
        | .pending => .waits
        | _ => if s.eccIn (m.old + 256 * line) 256 then .ecc s else (s.pullLine m line).portLines rest
    | none => s.portLines rest

/-- The memory port's part in an access of n bytes (R182). -/
def State.portReady (s : State) (ga n : Nat) : PortEnd :=
  s.portLines ((List.range ((ga + n + 255) / 256 - ga / 256)).map (fun i => (ga / 256 + i) * 256))

end Sys2Proof.Machine
end

