-- ==== Sys2Proof/Machine/Route.lean ====
section
/-! DEFINITION. Routes (R20, R196), the homes that messages go to (R88, R192), sequence spaces, retransmit copies and the sending of
messages (R190, R193, R197, R198, R200). -/

namespace Sys2Proof.Machine

open Sys2Proof

/-! ## Routes -/

/-- The way round a ring of packages: none at the same coordinate, else whether the coordinate increases (R20). -/
def torusStep (size a b : Nat) : Option Bool :=
  if a = b then none else some (2 * ((b + size - a) % size) ≤ size)

/-- The edge of the next move between packages, X first (R20, R196). -/
def State.moveEdge (s : State) (p q : Pkg) : Option Edge :=
  match torusStep s.domW p.px q.px with
  | some true => some .east
  | some false => some .west
  | none => match torusStep s.domH p.py q.py with
    | some true => some .south
    | some false => some .north
    | none => none

/-- The package beyond an edge (R20). -/
def State.neighbour (s : State) (p : Pkg) (e : Edge) : Pkg :=
  match e with
  | .east => { p with px := (p.px + 1) % s.domW }
  | .west => { p with px := (p.px + s.domW - 1) % s.domW }
  | .south => { p with py := (p.py + 1) % s.domH }
  | .north => { p with py := (p.py + s.domH - 1) % s.domH }

/-- The edge by which a message enters that left by another. -/
def Edge.opposite : Edge → Edge
  | .north => .south
  | .south => .north
  | .west => .east
  | .east => .west

/-- Whether an edge is one of X moves. -/
def Edge.isX : Edge → Bool
  | .west => true
  | .east => true
  | _ => false

/-- The die that borders half of an edge (R8, R196). -/
def Edge.die (e : Edge) (half : Nat) : Nat :=
  match e with
  | .north => half
  | .south => 2 + half
  | .west => 2 * half
  | .east => 2 * half + 1

/-- The cells along half of an edge of a package, in order. -/
def halfCells (p : Pkg) (e : Edge) (half : Nat) : List CellId :=
  (List.range 64).map (fun i => match e with
    | .north => { pkg := p, x := 64 * half + i, y := 0 }
    | .south => { pkg := p, x := 64 * half + i, y := 127 }
    | .west => { pkg := p, x := 0, y := 64 * half + i }
    | .east => { pkg := p, x := 127, y := 64 * half + i })

/-- The cell by which a message enters a package through half of an edge: the first of the half that is not fenced, none where all are (R21; log
19). -/
def State.entryCell (s : State) (p : Pkg) (e : Edge) (half : Nat) : Option CellId := (halfCells p e half).find? (fun c => !s.cellFenced c)

/-- The numbers after a up to b, or down to it. -/
def numbersTo (a b : Nat) : List Nat :=
  if a ≤ b then (List.range (b - a)).map (fun i => a + 1 + i) else (List.range (a - b)).map (fun i => a - 1 - i)

/-- The cells that a flit passes between two cells of a package, X first and then Y (R196). -/
def straight (a b : CellId) : List CellId :=
  (numbersTo a.x b.x).map (fun x => { a with x := x }) ++ (numbersTo a.y b.y).map (fun y => { a with x := b.x, y := y })

/-- Whether no fenced router stands on the way X first, then Y, between two cells of a package. -/
def State.clearWay (s : State) (a b : CellId) : Bool :=
  (s.plat? a.pkg).elim true (fun q => q.fenced.isEmpty && q.fencedClus.isEmpty) || (straight a b).all (fun c => !s.cellFenced c)

/-- The cells beside a cell of a package. -/
def CellId.beside (c : CellId) : List CellId :=
  (if c.x < 127 then [{ c with x := c.x + 1 }] else []) ++ (if 0 < c.x then [{ c with x := c.x - 1 }] else []) ++
  (if c.y < 127 then [{ c with y := c.y + 1 }] else []) ++ (if 0 < c.y then [{ c with y := c.y - 1 }] else [])

/-- The cell beside a cell that lies nearest to some goals past fenced routers: the goals spread outward, one ring of routers at a time, until they
stand beside the cell. None where no way is left. -/
def State.around (s : State) (c : CellId) : Nat → List CellId → List CellId → Option CellId
  | 0, _, _ => none
  | k + 1, seen, front =>
    match c.beside.find? front.contains with
    | some n => some n
    | none =>
      let next := ((front.flatMap CellId.beside).filter (fun x => !s.cellFenced x && !seen.contains x)).eraseDups
      if next.isEmpty then none else s.around c k (seen ++ next) next

/-- The next cell toward a cell of the same package: X first, then Y; around the fenced routers where that way meets one; none where they leave no way
(R21, R22, R196; log 19). -/
def State.nextCell (s : State) (c : CellId) (goals : List CellId) (dst : CellId) : Option CellId :=
  if s.clearWay c dst && goals.contains dst then some ((straight c dst).headD c) else s.around c 16384 goals goals

/-- The cell that a hub unit's router on the edge to a die joins: the one in the die's first row whose column is the unit's number (R13; log 8). -/
def State.hubCell (s : State) (p : Pkg) (unit die : Nat) : CellId :=
  s.portCell { pkg := p, x := 64 * (die % 2) + unit, y := 64 * (die / 2) }

/-- The next router on the way out of a package by an edge: straight to the edge, and over it by the half of the die's row or column (R196). -/
def State.nextOut (s : State) (c : CellId) (e : Edge) : Option Node :=
  let h := if e.isX then c.y / 64 else c.x / 64
  let last : CellId := match e with
    | .east => { c with x := 127 }
    | .west => { c with x := 0 }
    | .south => { c with y := 127 }
    | .north => { c with y := 0 }
  if c = last then some (.edge c.pkg e h)
  else (s.nextCell c ((halfCells c.pkg e h).filter (fun x => !s.cellFenced x)) last).map .cell

/-- Whether a router is the last of the route to a cell or a unit of the hub (R13, R196). -/
def State.atGoal (s : State) (n : Node) (dst : CellId) (hub : Option Nat) : Bool :=
  match n, hub with
  | .cell c, none => c == s.portCell dst
  | .hub p u _, some v => p == dst.pkg && u == v
  | _, _ => false

/-- The next router on the fixed route to a cell, or to the unit `hub` of the hub; none at the last one, and where fenced routers leave no way (R13,
R196; log 8, 19). -/
def State.nextNode (s : State) (n : Node) (dst : CellId) (hub : Option Nat) : Option Node :=
  match n with
  | .hub p u d => if hub == some u && dst.pkg == p then none else some (.cell (s.hubCell p u d))
  | .cell c =>
    if c.pkg = dst.pkg then
      match hub with
      | some u =>
        let j := s.hubCell c.pkg u c.die
        if c = j then some (.hub c.pkg u c.die) else (s.nextCell c [j] j).map .cell
      | none =>
        let g := s.portCell dst
        if c = g then none else (s.nextCell c [g] g).map .cell
    else (s.moveEdge c.pkg dst.pkg).bind (s.nextOut c)
  | .edge p e h =>
    if p = dst.pkg then (s.entryCell p e h).map .cell
    else match s.moveEdge p dst.pkg with
      | some f =>
        if f = e then some (.edge (s.neighbour p e) e.opposite h)
        else if f.isX = e.isX then some (.edge p f h)
        else some (.edge p f (if e = .west then 0 else 1))
      | none => none

/-- The edge and half by which a message enters the destination package, following its route from edge to edge. -/
def State.entryOf (s : State) (dst : CellId) : Nat → Node → Edge × Nat
  | 0, _ => (.west, 0)
  | k + 1, n =>
    match n with
    | .edge p e h => if p = dst.pkg then (e, h) else
      match s.nextNode n dst none with
      | some m => s.entryOf dst k m
      | none => (e, h)
    | _ => (.west, 0)

/-- The die of a target package that a request translated at its target names (R197). -/
def State.ingressDie (s : State) (src : CellId) (q : Pkg) : Nat :=
  match s.moveEdge src.pkg q with
  | none => src.die
  | some e =>
    let h := if e.isX then src.y / 64 else src.x / 64
    let r := s.entryOf { pkg := q, x := 0, y := 0 } 300 (.edge src.pkg e h)
    r.1.die r.2

/-- Whether a route between two cells crosses a die edge (R197). -/
def crossesDie (a b : CellId) : Bool := a.pkg != b.pkg || a.die != b.die

/-- Whether a unit is of the hub, behind routers of its own (R13, R192). -/
def FUnit.isHub : FUnit → Bool
  | .hubUnit _ => true
  | _ => false

/-- The number of a hub unit. -/
def FUnit.hubNum : FUnit → Option Nat
  | .hubUnit n => some n
  | _ => none

/-- Whether the route from a cell to a home crosses a die edge: the hub die's too, where the home is a unit of the hub (R13, R197). -/
def crossesTo (a : CellId) (h : CellId × FUnit) : Bool := crossesDie a h.1 || h.2.isHub

/-- Whether two homes lie on different dies, the hub die among them (R13, R387). -/
def homesApart (a b : CellId × FUnit) : Bool := crossesDie a.1 b.1 || a.2.isHub != b.2.isHub

/-- The unit of the hub that a message is for. -/
def Msg.hubUnit (m : Msg) : Option Nat :=
  match m.hubDst, m.unit with
  | true, .hubUnit n => some n
  | _, _ => none

/-- The router at which a message starts: its sender's, or that of the hub's unit on the edge to its destination's die (R13). -/
def Msg.start (m : Msg) : Node := m.hubSrc.elim (.cell m.src) (fun u => .hub m.src.pkg u (if m.dst.pkg = m.src.pkg then m.dst.die else 0))

/-! ## Homes (R88, R192) -/

/-- The cell and unit of an address's home. -/
def homeOf (ga : Nat) : CellId × FUnit :=
  let p := gaPkg ga
  match regionOf (gaPhys ga) with
  | .vault v => let k := Clu.ofVault p v; ({ pkg := p, x := 4 * k.X, y := 4 * k.Y }, .vault)
  | .hbm k => (dieCell p (k / 2), .hbm (k % 2))
  | .spad => let c := (gaPhys ga - 2 ^ 52) / 0x4000; ({ pkg := p, x := c % 128, y := c / 128 }, .vault)
  | .sinter => (dieCell p 0, .hubUnit 4)
  | .host => (dieCell p 0, .hubUnit 3)
  | .reserved => (dieCell p 0, .hubUnit 3)

/-! ## Sequence spaces and copies (R197, R198) -/

/-- The state of a sequence space, 0 outstanding and SEQ 0 when it is new. -/
def State.seqSpace (s : State) (sp : Space) : SeqSpace :=
  (s.seqs.find? (·.space == sp)).getD { space := sp, next := 0, outstanding := [] }

/-- Changes a sequence space. -/
def State.updSeq (s : State) (sp : Space) (f : SeqSpace → SeqSpace) : State :=
  { s with seqs := [f (s.seqSpace sp)] ++ s.seqs.filter (·.space != sp) }

/-- The bytes of a message: 48 for each flit (R189). -/
def Msg.bytes (m : Msg) : Nat := 48 * (m.len + 1)

/-- The most messages outstanding in a space (R197). -/
def Space.limit : Space → Nat
  | .vc _ _ _ _ _ v => if v = 1 then 128 else 64
  | _ => 128

/-- Whether a space may send one more message of a partition on a package: its limit and the retransmit buffer (R197, R198). -/
def State.spaceFree (s : State) (sp : Space) (part : Nat) (p : Pkg) (bytes : Nat) : Bool :=
  (s.seqSpace sp).outstanding.length < sp.limit &&
  (match s.part? part with
    | some q => ((s.copies.filter (fun c => c.part == part && c.pkg == p)).map (·.msg.bytes)).foldl (· + ·) 0 + bytes ≤ q.txSize
    | none => true)

/-- Sends a message in a sequence space: it takes the next SEQ and leaves a copy in the retransmit buffer. -/
def State.sendSeq (s : State) (sp : Space) (vd : Nat) (m : Msg) (waiting : List Nat) : Nat × State :=
  let q := (s.seqSpace sp).next
  let m := { m with seq := q, space := some sp }
  let s := s.updSeq sp (fun x => { x with next := (x.next + 1) % 512, outstanding := x.outstanding ++ [q] })
  let c : TxCopy := { part := m.part, pkg := m.src.pkg, space := sp, seq := q, msg := m, vd := vd, waiting := waiting }
  let s := { s with copies := s.copies ++ [c] }
  (q, s.inject m.start m)

/-- Sends a copy of a message that holds its SEQ already (R180, R202). -/
def State.resend (s : State) (m : Msg) : State := s.inject m.start m

/-- Ends a message of a space: it is outstanding no more and its copy is released (R198). -/
def State.release (s : State) (sp : Space) (seq : Nat) : State :=
  let s := s.updSeq sp (fun x => { x with outstanding := x.outstanding.filter (· != seq) })
  { s with copies := s.copies.filter (fun c => !(c.space == sp && c.seq == seq)) }

/-- Sends a 32-byte unit of a copy between dies, in the VC 3 space of its dies (R197, R325, R387). None while the space or the retransmit buffer is
full. -/
def State.sendBulk (s : State) (v : VdRef) (tag : Tag) (unit : FUnit) (b : Bulk) : Option State :=
  let sp : Space := .vc v.part b.src.pkg b.src.die b.goal.pkg b.goal.die 3
  if !s.spaceFree sp v.part b.src.pkg 48 then none
  else
    let (id, s) := s.newId
    let (q, s) := s.sendSeq sp v.vd
      { mid := id, kind := b.kind, src := b.src, dst := b.goal, unit := unit, hubDst := unit.isHub, tag := tag, len := 0, trim := false, gen := 0,
        seq := 0, space := none, part := v.part, sub := 0, body := .bulk b.id, hubSrc := b.hubSrc } []
    some { s with bulks := s.bulks.filter (·.id != b.id) ++ [{ b with space := sp, seq := q, lost := false }] }

/-- An ERROR to a request's continuation, or to the source die's egress when it names none (R202, R207). `rank` is the member of a group that it
concerns. -/
def State.sendError (s : State) (src dst : CellId) (part : Nat) (unit : FUnit) (sp : Option Space) (seq : Nat) (tag : Tag)
    (req : Option Nat) (code cause addr : Nat) (rank : Option Nat := none) : State :=
  let (id, s) := s.newId
  s.inject (.cell src)
    { mid := id, kind := .error, src := src, dst := unit.atDie dst, unit := unit, hubDst := false, tag := tag, len := 0, trim := false, gen := 0,
      seq := seq, space := sp, part := part, sub := 0, body := .err req rank code cause addr }

end Sys2Proof.Machine
end

