-- ==== Sys2Proof/Machine/Reqs.lean ====
section
/-! DEFINITION. Requests of an AG (R15, R60 to R65, R88 to R94, R172, R179, R197): starting one, its translation, its way to its home,
and its answer; and the commit of an ORDERED activation (R44, R46, R97). -/

namespace Sys2Proof.Machine

open Sys2Proof

/-! ## What a request is -/

/-- Whether a request writes memory. -/
def AccKind.isWrite : AccKind → Bool
  | .st | .sti | .stiClr | .atom _ | .rst | .rstp | .ratm _ | .late _ => true
  | _ => false

/-- What a request needs of a leaf (R172, R310, R362, R381, R396, R425). -/
def AccKind.need : AccKind → Need
  | .st | .sti | .rst | .rstp | .publ | .late _ => needWr
  | .stiClr | .atom _ | .ratm _ => needBoth
  | .xlate wr => if wr then needWr else needRd
  | _ => needRd

/-- Whether a request is translated at its target (R197). -/
def AccKind.remote : AccKind → Bool
  | .rld | .rst | .rstp | .ratm _ | .late _ => true
  | _ => false

/-- Whether a request is the late write of an MCST's member (R369). -/
def AccKind.late? : AccKind → Bool
  | .late _ => true
  | _ => false

/-- Whether a request is a write of scope ELEM that has emitted: the AG has accepted it (R89, R93). -/
def Req.early (r : Req) : Bool := r.posted && r.scope == 0

/-- Whether a request accesses memory of its own package's virtual device (R91). -/
def AccKind.accesses : AccKind → Bool
  | .ld | .st | .ldi | .sti | .stiClr | .atom _ | .gath => true
  | _ => false

/-- Whether nothing waits for a request's answer, which is discarded: one that timed out (R185), or a late write of an MCST (R369). -/
def Req.lingers (r : Req) : Bool := r.posted && r.scope != 0 && r.kind != .rstp

/-- Whether two requests are of one firing of one instruction. -/
def Req.sameFiring (r q : Req) : Bool := q.br == r.br && q.blk == r.blk && q.slot == r.slot && q.tag == r.tag

/-- The firing that issued a request. -/
def Req.ctx (r : Req) : Ctx :=
  { br := r.br, u := .elem r.cx r.cy, blk := r.blk, slot := r.slot, tag := r.tag, a := r.a, b := r.b, p := r.p }

/-- The slot fields of the instruction that issued a request. -/
def State.reqOps (s : State) (r : Req) : SlotOps := SlotOps.ofWord ((s.slot? r.br.rid r.blk r.slot).elim 0 (·.word))

/-- The package cell of a request's AG. -/
def State.reqCell (s : State) (r : Req) : CellId :=
  match s.bent? r.br with
  | some b => b.cell r.cx r.cy
  | none => { pkg := r.target, x := 0, y := 0 }

/-- A request of a firing, not yet numbered. -/
def Req.make (s : State) (c : Ctx) (kind : AccKind) (va size ty : Nat) : Req :=
  let p := ((s.bent? c.br).map (·.pkg)).getD { px := 0, py := 0 }
  let xy := match c.u with
    | .elem cx cy => (cx, cy)
    | .station _ _ => (0, 0)
  { id := s.nextId, br := c.br, cx := xy.1, cy := xy.2, blk := c.blk, slot := c.slot, tag := c.tag, kind := kind, stage := .walk,
    loc := false, va := va, size := size, ty := ty, data := 0, data2 := 0, scope := 9, a := c.a, b := c.b, p := c.p, tgen := 0,
    big := false, ptea := 0, leaf := 0, ga := none, reply := none, deadline := s.now + 4000000, busy := 0,
    space := none, seq := 0, pinned := false, shadow := false, posted := false, target := p, vdr := s.vdOf c.br.rid, resendAt := 0,
    warn := 0 }

/-- Puts a request into the state, in place of an earlier stage of it. -/
def State.putReq (s : State) (r : Req) : State :=
  if s.reqs.any (·.id == r.id) then s.updReq r.id (fun _ => r)
  else { s with reqs := s.reqs ++ [r], nextId := Nat.max s.nextId (r.id + 1) }

/-- The virtual address of a request in the set of frames it takes (R100, R101). -/
def State.xvaOf (s : State) (r : Req) : Nat :=
  let va := r.va % 2 ^ 55
  match s.shadowOf r.vdr va with
  | some b => b.at_ (if r.shadow then 1 else 0) va
  | none => va

/-- The parity of the generation that an access takes now (R100). -/
def State.parityOf (s : State) (v : VdRef) (va : Nat) : Bool :=
  match s.shadowOf v (va % 2 ^ 55) with
  | some b => b.g % 2 == 1
  | none => false

/-! ## Faults of a request -/

/-- Whether the activation of an ORDERED firing has been aborted (R47). -/
def State.ctxAborted (s : State) (c : Ctx) : Bool :=
  match s.ctxTl c with
  | some tl => (((s.bent? c.br).bind (fun b => b.timelines[tl]?)).bind (·.entry? c.tag)).isNone
  | none => false

/-- A precise fault of a request that has performed nothing: the instruction freezes (R179). Of a write that has emitted a mark is left, so
that its replay emits no second time. -/
def State.reqFault (s : State) (r : Req) (i : FaultInfo) : State :=
  let s := s.dropReq r.id
  let s := if r.early then s.putReq { r with stage := .frozen, reply := none, space := none } else s
  if s.ctxAborted r.ctx then s else s.fault r.ctx { i with wr := r.kind.isWrite || i.wr }

/-- An uncorrectable error that an element would consume freezes it: it fires nothing more (R186). -/
def State.eccFreeze (s : State) (br : BentRef) (cx cy : Nat) (i : FaultInfo) : State :=
  if i.cause = .eccUncorr then s.updElem br cx cy (fun e => { e with eccFrozen := true }) else s

/-- A fault that a walk found, under the address that the program gave (R178, R180); an uncorrectable error in an entry freezes the element (R186). -/
def State.walkFault (s : State) (r : Req) (i : FaultInfo) : State :=
  (s.reqFault r { i with addr := r.va }).eccFreeze r.br r.cx r.cy i

/-! ## Emission -/

/-- Emits a request's token to both targets, and sets the WARN bits of its instruction (R294). -/
def State.emitReq (s : State) (r : Req) (t : Token) : State := (s.raiseWarn r.br r.ctx.u r.warn).emit2 r.ctx (s.reqOps r) t

/-! ## The Sill's part of an ORDERED access (R46 to R48) -/

/-- The window entry of an ORDERED firing. -/
def State.entryOfCtx (s : State) (c : Ctx) : Option WinEntry :=
  match s.ctxTl c with
  | some tl => ((s.bent? c.br).bind (fun b => b.timelines[tl]?)).bind (·.entry? c.tag)
  | none => none

/-- Whether two byte ranges overlap. -/
def overlaps (a n b m : Nat) : Bool := a < b + m && b < a + n

/-- The timestamps of younger activations that have read bytes a store overwrites. -/
def Timeline.readersAfter (t : Timeline) (ts ga n : Nat) : List Nat :=
  (t.win.filter (fun e => ts < e.ts && e.reads.any (fun r => overlaps r.1 r.2 ga n))).map (·.ts)

/-- A store of an ORDERED activation: buffered under its timestamp, its LSID accounted, younger readers aborted (R46, R47). -/
def State.sillStore (s : State) (r : Req) (ga key : Nat) : State :=
  let c := r.ctx
  let lsid := (s.reqOps r).xf 24 5
  let bs := bytesOf r.size r.data.toNat
  let s := s.dropReq r.id
  let s := s.updEntry c (fun e => { e with
    lsids := e.lsids ++ [lsid]
    stores := e.stores ++ [{ lsid := lsid, slot := r.slot, cx := r.cx, cy := r.cy, loc := r.loc, va := r.va, tgen := r.tgen, shadow := r.shadow,
                             ga := ga, key := key, bytes := bs, frozen := false }] })
  let s := match s.ctxTl c, s.entryOfCtx c with
    | some tl, some e =>
      match ((s.bent? c.br).bind (fun b => b.timelines[tl]?)).map (fun (t : Timeline) => t.readersAfter e.ts ga r.size) with
      | some (x :: xs) => s.abortFrom c.br tl (xs.foldl Nat.min x)
      | _ => s
    | _, _ => s
  s.emitReq r c.atok.plain

/-- Whether a buffered store's translation is no longer the one to perform it by: TGEN has risen (R173), or its buffer's visible set has changed
(R100). -/
def State.storeStale (s : State) (v : VdRef) (p : Pkg) (x : SillStore) : Bool :=
  !x.loc && (x.tgen != s.tgenOf v p || x.shadow != s.parityOf v x.va)

/-- The address that a buffered store translates now: in the set that is visible (R100). -/
def State.storeVa (s : State) (v : VdRef) (x : SillStore) : Nat := s.visibleVa v (x.va % 2 ^ 55) []

/-- The home address of a buffered store as things stand. -/
def State.storeGa (s : State) (br : BentRef) (x : SillStore) : Nat :=
  match s.bent? br with
  | some b =>
    let v := s.vdOf br.rid
    if s.storeStale v b.pkg x then
      match s.walkEnd b.pkg v (s.storeVa v x) needWr with
      | .ok w => w.ga b.pkg (s.storeVa v x)
      | .bad _ => x.ga
    else x.ga
  | none => x.ga

/-- The bytes that an ORDERED load sees: the home's, overlaid with the buffered stores of its own and older activations (R46). -/
def State.forwarded (s : State) (c : Ctx) (ga : Nat) (bs : List Byte) : List Byte :=
  match s.ctxTl c, s.entryOfCtx c with
  | some tl, some e =>
    match (s.bent? c.br).bind (fun b => b.timelines[tl]?) with
    | some t =>
      ((t.win.filter (fun x => x.ts ≤ e.ts)).flatMap (fun x => x.stores.foldr insertStore [])).foldl
        (fun l st =>
          let g := s.storeGa c.br st
          (List.range l.length).map (fun i => if g ≤ ga + i ∧ ga + i < g + st.bytes.length then st.bytes.getD (ga + i - g) 0 else l.getD i 0)) bs
    | none => bs
  | _, _ => bs

/-- Whether the read set of an ORDERED firing has room for its load, or its activation is the oldest (R48). -/
def State.readSetFree (s : State) (c : Ctx) : Bool :=
  match s.entryOfCtx c with
  | some e => s.isOldest c ||
      e.reads.length + (s.reqs.filter (fun r => r.kind == .ld && r.br == c.br && r.tag == c.tag)).length < 64
  | none => true

/-! ## Going to the home -/

/-- Whether a request has not yet reached its home. -/
def ReqStage.before : ReqStage → Bool
  | .walk | .dirty | .toHome | .forward | .home | .parked | .turned => true
  | _ => false

/-- Where a stage of a request stands. -/
inductive Went where
  | done (s : State)
  | bad (i : FaultInfo)
  | busy
deriving DecidableEq, Repr

/-- The message kind of a request (R193). -/
def AccKind.msg (k : AccKind) (pinned : Bool) : MKind :=
  match k with
  | .rstp => .post
  | .st | .sti | .stiClr | .rst => if pinned then .wrreqP else .wrreq
  | .atom _ | .ratm _ => if pinned then .atreqP else .atreq
  | _ => if pinned then .rdreqP else .rdreq

/-- The request of an instruction that an error ended, whose SEQ its replay uses again (R185). -/
def State.ended? (s : State) (r : Req) (sp : Space) : Option Req :=
  s.reqs.find? (fun q => q.stage == .frozen && r.sameFiring q && q.space == some sp)

/-- Whether a firing's write emitted before an error ended it: one of scope ELEM, or a posted store. -/
def State.emittedBefore (s : State) (r : Req) : Bool := s.reqs.any (fun q => q.stage == .frozen && r.sameFiring q && (q.early || q.kind == .rstp))

/-- Takes away what errors left of a firing's earlier requests, once a replay is on its way. -/
def State.dropEnded (s : State) (r : Req) : State := { s with reqs := s.reqs.filter (fun q => !(q.stage == .frozen && r.sameFiring q)) }

/-- Sends a request on its way to a cell of another die (R197): busy while its space or the retransmit buffer is full. The replay of a
request that an error ended goes out under its first SEQ, and takes the answer of a first copy that is still at its target (R185, R205); where its SEQ was released it takes its place in the space and the buffer
again (R197, R198). -/
def State.sendReq (s : State) (r : Req) (dst : CellId) (unit : FUnit) : Went :=
  let src := s.reqCell r
  let v := r.vdr
  let vc := if r.kind = .rstp then 4 else 1
  let sp : Space := .vc v.part src.pkg src.die dst.pkg dst.die vc
  let (id, s1) := s.newId
  let m : Msg := { mid := id, kind := r.kind.msg r.pinned, src := src, dst := dst, unit := unit, hubDst := unit.isHub, tag := r.tag, len := 0,
                   trim := false, gen := 0, seq := 0, space := none, part := v.part, sub := 0, body := .req r.id }
  let r := { r with stage := .toHome, space := some sp, deadline := s.now + 4000000 }
  match s.ended? r sp with
  | some q =>
    let r := match s.reqs.find? (fun x => x.lingers && x.stage != .frozen && x.space == some sp && x.seq == q.seq) with
      | some x => { x with posted := r.posted, scope := r.scope, a := r.a, b := r.b, p := r.p, deadline := s.now + 4000000 }
      | none => if r.kind = .rstp then { r with seq := q.seq, id := q.id } else { r with seq := q.seq }
    let m := { m with seq := q.seq, space := some sp, body := .req r.id }
    let s2 := (s1.dropEnded r).updSeq sp (fun x => { x with outstanding := x.outstanding.filter (· != q.seq) ++ [q.seq] })
    let c : TxCopy := { part := m.part, pkg := src.pkg, space := sp, seq := q.seq, msg := m, vd := v.vd, waiting := [] }
    let s2 := { s2 with copies := s2.copies.filter (fun (c : TxCopy) => !(c.space == sp && c.seq == q.seq)) ++ [c] }
    let stands := (s.seqSpace sp).outstanding.contains q.seq && s.copies.any (fun (c : TxCopy) => c.space == sp && c.seq == q.seq)
    if stands || s.spaceFree sp v.part src.pkg m.bytes then .done (((s2.count .resent src.pkg (portVc src.die vc)).resend m).putReq r) else .busy
  | none =>
    if s.spaceFree sp v.part src.pkg m.bytes then
      let (q, s2) := (s1.dropEnded r).sendSeq sp v.vd m []
      .done (s2.putReq { r with seq := q })
    else .busy

/-- Whether a request is of an AG. -/
def Req.ofAg (q : Req) (br : BentRef) (cx cy : Nat) : Bool := q.br == br && q.cx == cx && q.cy == cy

/-- Whether a request is a store of a FREE block on its way to its home, whose bytes its AG can forward (R91, R94). -/
def Req.onWay (q : Req) : Bool := q.kind == .st && (q.stage == .toHome || q.stage == .home || q.stage == .turned) && q.ga.isSome

/-- The bytes that an AG forwards to a load from its own stores on their way to the home, the latest of each byte; none unless they hold every
byte, or while another access of the AG to these bytes comes before, or a batch of SCAT that fired earlier is still to be applied: then the load is
read at the home behind them (R91, R94). -/
def State.ownForward (s : State) (r : Req) (ga : Nat) : Option (List Byte) :=
  let mine := s.reqs.filter (fun q => q.id < r.id && q.ofAg r.br r.cx r.cy && q.onWay && (q.ga.elim false (fun g => overlaps g q.size ga r.size)))
  let other := s.reqs.any (fun q => q.id < r.id && q.ofAg r.br r.cx r.cy && q.stage.before && !q.onWay && q.kind.isWrite &&
    (match q.ga with
      | some g => overlaps g q.size ga r.size
      | none => q.loc == r.loc && overlaps q.va q.size r.va r.size))
  let batch := (s.elem? r.br r.cx r.cy).elim false (fun e => e.batches.any (·.id < r.id))
  if r.kind != .ld || other || batch || s.isOrdered r.br.rid r.blk then none
  else (List.range r.size).mapM (fun i => (mine.reverse.find? (fun q => q.ga.elim false (fun g => g ≤ ga + i && ga + i < g + q.size))).bind
    (fun q => (bytesOf q.size q.data.toNat)[ga + i - q.ga.getD 0]?))

/-- A request with its home address goes to its home: a store of an ORDERED activation into the Sill; across a die edge as a message;
else to the home itself. A load whose bytes its AG's own stores on their way hold is answered from them (R94). A write of scope ELEM emits when
the AG accepts it, once (R89, R93). -/
def State.toHome (s : State) (r : Req) (ga : Nat) : Went :=
  let p := gaPkg ga
  if r.kind = .st ∧ s.isOrdered r.br.rid r.blk then .done (s.sillStore r ga (s.keyOf p r.vdr.part r.leaf))
  else match s.ownForward r ga with
  | some bs => .done ((s.dropEnded r).putReq { r with ga := some ga, stage := .reply, reply := some (.val (BitVec.ofNat 256 (natOfBytes bs))) })
  | none =>
    let early := r.scope == 0 && (r.kind == .st || r.kind == .sti || r.kind == .stiClr) && regionOf (gaPhys ga) != .spad
    let again := s.emittedBefore r
    let r := { r with ga := some ga, posted := r.posted || early }
    let h := homeOf ga
    let w := if crossesTo (s.reqCell r) h then s.sendReq r h.1 h.2
      else .done ((s.dropEnded r).putReq { r with stage := .home })
    match w with
    | .done t => .done (if early && !again then t.emitReq r r.ctx.atok.plain else t)
    | w => w

/-- Whether an ATOM may be sent to host memory (R106). -/
def atomHostOk (op : AtomOp) (ty size : Nat) : Bool :=
  (size == 4 || size == 8) && op != .or && !(op == .add && 8 ≤ ty)

/-- A request meets the leaf of its page (R49, R106, R179, R310, R381, R421). -/
def State.translated (s : State) (r : Req) (w : Window) : Went :=
  let v := r.vdr
  let bad := fun (c : Cause) => Went.bad { cause := c, addr := r.va, level := if w.big then 2 else 3, aux := w.leaf.toNat }
  let isAtom := match r.kind with
    | .atom _ => true
    | _ => false
  let hostBad := match r.kind with
    | .atom op => !atomHostOk op r.ty r.size
    | _ => false
  let p := ((s.bent? r.br).map (·.pkg)).getD r.target
  let r := { r with leaf := w.leaf, ptea := w.ptea, big := w.big, tgen := w.gen, ga := some (w.ga p (s.xvaOf r)) }
  if isAtom && pteIst w.leaf then bad .atomIst
  else if hostBad && pteHome w.leaf == 2 then bad .atomHost
  else if r.kind == .st && s.isOrdered r.br.rid r.blk && 2 ≤ pteHome w.leaf then bad .storeHomeRemote
  else if r.kind == .publ then
    (if (s.shadowOf v (r.va % 2 ^ 55)).isNone then bad .shadowNone else .done (s.putReq { r with stage := .home }))
  else if r.kind.isWrite && !pteD w.leaf then .done (s.putReq { r with stage := .dirty })
  else s.toHome r (w.ga p (s.xvaOf r))

/-! ## Starting an access (R60 to R62, R65, R71, R179) -/

/-- Whether a byte range overlaps an entry of the range scoreboard of an AG's cluster (R71). -/
def State.scored (s : State) (br : BentRef) (cx cy ga n : Nat) : Bool :=
  match s.clus? br (cx / 4) (cy / 4) with
  | some k => k.score.any (fun e => overlaps e.lo e.len ga n)
  | none => false

/-- Whether the AG may hold one more read (R360). -/
def State.readFree (s : State) (r : Req) : Bool :=
  r.kind != .ld ||
  (s.reqs.filter (fun q => q.kind == .ld && q.br == r.br && q.cx == r.cx && q.cy == r.cy)).length < 64 && s.readSetFree r.ctx

/-- Answers a start that may wait or fault (R57, R179). -/
def State.begun (s : State) (r : Req) (w : Went) : Host.Outcome State Fault Refusal :=
  match w with
  | .done t => .next t
  | .bad i => .next (s.reqFault r i)
  | .busy => s.wait

/-- A local access at its home address: it waits while the scoreboard overlaps (R71). -/
def State.startAt (s : State) (r : Req) (ga : Nat) : Went :=
  let held := match r.kind with
    | .ld | .st | .ldi | .sti | .stiClr => s.scored r.br r.cx r.cy ga r.size
    | _ => false
  if held || !s.readFree r then .busy else s.toHome r ga

/-- A local access; bits 63 to 40 of its lane are zero, whatever its offset makes of the sum (R61, R69, R362, R425). -/
def State.startLocal (s : State) (r : Req) : Went :=
  let perm : Went := .bad { cause := .laPerm, addr := r.va }
  let words := r.kind == .ldi || r.kind == .sti || r.kind == .stiClr
  match s.bent? r.br with
  | none => perm
  | some b =>
    if laneAt r.ctx.atok.pay 64 0 / 2 ^ 40 ≠ 0 then perm
    else match b.localAt r.va with
    | .bad => perm
    | .spad off => if words then perm else s.startAt r (spadGa (b.cell r.cx r.cy) off)
    | .vault k off => s.startAt r (vaultGa b.pkg k.vault off)
    | .ring k n off =>
      if r.kind != .ld then perm
      else match (b.clus? (b.canonClu k).1 (b.canonClu k).2).bind (fun c => c.rings.find? (·.k == n)) with
        | none => perm
        | some g =>
          if g.slotsz ≤ off then perm
          else if g.states.getD g.head .empty != .full then .busy
          else s.startAt r (vaultGa b.pkg k.vault (g.base + g.head * g.slotsz + off))

/-- A virtual access: the address is canonical, then a window or a walk (R62, R179). -/
def State.startVirtual (s : State) (r : Req) : Went :=
  if !canonVa (BitVec.ofNat 64 r.va) then .bad { cause := .vaCanon, addr := r.va }
  else if !s.readFree r then .busy
  else
    let v := r.vdr
    let r := { r with shadow := s.parityOf v r.va }
    match s.bent? r.br, s.elem? r.br r.cx r.cy with
    | some b, some e =>
      match (e.pwin.filterMap id ++ e.own).find? (fun w => s.winHits b.pkg v w (s.xvaOf r) r.kind.need) with
      | some w => s.translated r w
      | none => .done (s.putReq { r with stage := .walk })
    | _, _ => .done (s.putReq { r with stage := .walk })

/-- An element access: aligned, then local or virtual (R60, R65). -/
def State.startAccess (s : State) (r : Req) : Went :=
  if r.va % r.size ≠ 0 then .bad { cause := .misaligned, addr := r.va }
  else if r.loc then s.startLocal r else s.startVirtual r

/-- The address of a firing: lane 0 of A plus the offset (R60). -/
def Ctx.addr (c : Ctx) (o : SlotOps) : Nat := (laneAt c.atok.pay 64 0 + o.xf 0 20) % 2 ^ 64

/-! ## Order and answers at the home -/

/-- Where a request leads: its home address, or, while it has none, the one that a walk of its package's entries finds as they stand (R91, R197). -/
def State.aims (s : State) (q : Req) : Option Nat :=
  match q.ga with
  | some g => some g
  | none =>
    if q.loc then none
    else match s.walkEnd q.target q.vdr (s.xvaOf q) q.kind.need with
      | .ok w => some (w.ga q.target (s.xvaOf q))
      | .bad _ => none

/-- Whether an access of the same AG that fired earlier to the same bytes has still to reach its home (R91), whether its instruction names them in its
own package or in another one. -/
def State.behind (s : State) (r : Req) : Bool :=
  s.reqs.any (fun q => q.id < r.id && q.br == r.br && q.cx == r.cx && q.cy == r.cy && q.stage.before &&
    (q.kind.accesses || q.kind.remote) && q.kind != .gath && !q.kind.late? && !r.kind.late? &&
    (match s.aims q, s.aims r with
      | some x, some y => overlaps x q.size y r.size
      | _, _ => q.target == r.target && q.loc == r.loc && overlaps q.va q.size r.va r.size))

/-- The table of REQUEST_DEDUP that holds a space's requests. -/
def Dedup.holds (d : Dedup) : Space → Bool
  | .vc part sp sd dp dd 1 => d.pkg == dp && d.die == dd && d.part == part && d.spkg == sp && d.sdie == sd
  | _ => false

/-- The reply kind of a request (R193). -/
def AccKind.answer : AccKind → MKind
  | .st | .sti | .stiClr | .rst => .wrack
  | .atom _ | .ratm _ => .atrep
  | _ => .rdrep

/-- Sends the reply of a sequenced request from its home die ingress; REMOTE_FAULT goes as an ERROR (R197, R205, R207). -/
def State.sendReply (s : State) (r : Req) (sp : Space) (a : Reply) : State :=
  let rep := fun (s : State) =>
    let (id, s) := s.newId
    s.inject (.cell sp.home)
      { mid := id, kind := r.kind.answer, src := sp.home, dst := s.reqCell r, unit := .cont r.id, hubDst := false, tag := r.tag, len := 0,
        trim := false, gen := 0, seq := r.seq, space := some sp, part := r.vdr.part, sub := 0, body := .rep r.id a }
  match a with
  | .err i =>
    if i.cause = .remoteFault then
      s.sendError sp.home (s.reqCell r) r.vdr.part (.cont r.id) (some sp) r.seq r.tag (some r.id) i.cause.code i.aux i.addr
    else rep s
  | _ => rep s

/-- A home answers a request: a sequenced one is marked DONE in its table and answered by a message; any other has its answer at
once (R197, R205). -/
def State.answer (s : State) (r : Req) (a : Reply) : State :=
  match r.space with
  | some sp =>
    let s := { s with dedups := updIf s.dedups (fun d => d.holds sp) (fun d =>
      { d with entries := updIf d.entries (fun e => e.seq == r.seq) (fun e => { e with reply := some a }) }) }
    (s.updReq r.id (fun _ => { r with stage := .toIssuer })).sendReply r sp a
  | none => s.updReq r.id (fun _ => { r with stage := .reply, reply := some a })

/-! ## The accesses themselves -/

/-- Whether the word of an access has a presence bit: of a vault, or of an IST page (R82). -/
def Req.hasPresence (r : Req) : Bool := r.loc || (pteIst r.leaf && pteHome r.leaf == 0)

/-- The new value of an atomic operation, and its flags (R310). -/
def atomNew (op : AtomOp) (ty w old b expect : Nat) : Nat × BitVec 8 :=
  match op with
  | .add => if 8 ≤ ty then fpLane2 .add (fmtOf ty) .rne old b else ((old + b) % 2 ^ w, 0)
  | .or => (old ||| b, 0)
  | .swap => (b, 0)
  | .cas => (if old = expect then b else old, 0)

/-- The entries of a pool of deferred readers: a vault's, or an HBM4 stack's (R84). -/
def State.poolUse (s : State) (ga : Nat) : Nat :=
  (s.deferred.filter (fun d => d.pool && gaPkg d.ga == gaPkg ga && regionOf (gaPhys d.ga) == regionOf (gaPhys ga))).length

/-- Appends a request to the deferred list of its word (R83, R84): in the pool, or past it in the bent's spill area, which freezes the
bent when it is full. -/
def State.defer (s : State) (r : Req) (ga : Nat) : State :=
  let pool := s.poolUse ga < 4096
  let full := match s.bent? r.br with
    | some b => !pool && b.spillSize < (b.spill.length + s.overflow r.br + 1) * spillEntryBytes
    | none => false
  let d : Deferred := { ga := ga / 8 * 8, req := r.id, pool := pool }
  let s := { s with deferred := s.deferred ++ [d] }
  let s := s.updReq r.id (fun _ => { r with stage := .deferred })
  if full then
    let s := s.updBent r.br (fun b => { b.stopClock s.now with frozen := true })
    s.record r.br (.elem r.cx r.cy) r.blk r.slot r.tag { cause := .spillExhausted } 0
  else s

/-- Answers every deferred reader of a word, oldest first (R83). -/
def State.answerDeferred (s : State) (ga : Nat) (v : W256) : State :=
  let mine := s.deferred.filter (fun d => d.ga == ga / 8 * 8)
  let s := { s with deferred := s.deferred.filter (fun d => d.ga != ga / 8 * 8) }
  mine.foldl (fun s d => match s.req? d.req with
    | some q => s.answer q (.val v)
    | none => s) s

/-- The bytes of a request's data. -/
def Req.bytes (r : Req) : List Byte := bytesOf r.size r.data.toNat

/-- A load's value at the home: with forwarding and the read set in an ORDERED activation (R46, R47, R360). -/
def State.homeLoad (s : State) (r : Req) (ga key : Nat) : State :=
  let c := r.ctx
  let s := if s.isOldest c then s else s.updEntry c (fun e => { e with reads := e.reads ++ [(ga, r.size)] })
  s.answer r (.val (BitVec.ofNat 256 (natOfBytes (s.forwarded c ga (s.readKey ga r.size key)))))

/-- An atomic step at the home; its old value answers, and the flags of a floating add travel above it, in bits 71 to 64 of the answer (R310). -/
def State.homeAtom (s : State) (r : Req) (op : AtomOp) (ga key : Nat) : State :=
  let w := 8 * r.size
  let old := natOfBytes (s.readKey ga r.size key)
  let n := atomNew op r.ty w old (r.data.toNat % 2 ^ w) (r.data2.toNat % 2 ^ w)
  let s := s.writeKey ga key (bytesOf r.size n.1)
  s.answer r (.val (BitVec.ofNat 256 (old + n.2.toNat * 2 ^ 64)))

/-- One access at its home once its memory port is ready (R83, R90, R310). -/
def State.homeDo (s : State) (r : Req) (ga key : Nat) : State :=
  let err : Reply := .err { cause := .eccUncorr, addr := r.va }
  match r.kind with
  | .ld | .rld => if s.eccIn ga r.size then s.answer r err else s.homeLoad r ga key
  | .st | .rst | .rstp | .late _ => (s.writeKey ga key r.bytes).answer r .ack
  | .ldi =>
    if r.hasPresence && !s.present ga then s.defer r ga
    else if s.eccIn ga 8 then s.answer r err
    else s.answer r (.val (BitVec.ofNat 256 (natOfBytes (s.readKey ga 8 key))))
  | .sti =>
    if !r.hasPresence then (s.writeKey ga key r.bytes).answer r .ack
    else if s.present ga then
      let s := if r.posted then s.raiseWarn r.br (.elem r.cx r.cy) (warnBit 29) else s
      (s.advise r.ctx { cause := .iwriteTwice, addr := r.va, wr := true }).answer { r with warn := r.warn ||| warnBit 29 } .ack
    else (((s.writeKey ga key r.bytes).setPresent ga true).answer r .ack).answerDeferred ga (r.data &&& BitVec.ofNat 256 (2 ^ 64 - 1))
  | .stiClr =>
    let s := s.writeKey ga key (bytesOf 8 0)
    (if r.hasPresence then s.setPresent ga false else s).answer r .ack
  | .atom op | .ratm op => if s.eccIn ga r.size then s.answer r err else s.homeAtom r op ga key
  | _ => s

/-! ## The commit of an ORDERED activation (R44, R46, R97) -/

/-- How a buffered store stands at its commit: ready at its home, with the state after its walk and its port; waiting for a migrating line; or
faulted. -/
inductive StoreEnd where
  | ready (x : SillStore) (s : State)
  | waits
  | bad (i : FaultInfo) (s : State)
deriving DecidableEq, Repr

/-- A buffered store is brought to its home as it stands at the commit: translated again when its translation is stale (R100, R173), its page
marked dirty (R183), its lines pulled (R182). -/
def State.settleStore (s : State) (br : BentRef) (p : Pkg) (x : SillStore) : StoreEnd :=
  let v := s.vdOf br.rid
  let port := fun (s : State) (x : SillStore) => match s.portReady x.ga x.bytes.length with
    | .waits => StoreEnd.waits
    | .ecc s => .bad { cause := .eccUncorr, addr := x.va, wr := true } s
    | .ready s => .ready x s
  if !s.storeStale v p x then port s x
  else
    let va := s.storeVa v x
    match s.walk p v va needWr with
    | (.bad i, s) => .bad { i with addr := x.va, wr := true } s
    | (.ok w, s) =>
      if 2 ≤ pteHome w.leaf then .bad { cause := .storeHomeRemote, addr := x.va, level := if w.big then 2 else 3, wr := true, aux := w.leaf.toNat } s
      else
        let y := { x with ga := w.ga p va, key := s.keyOf p v.part w.leaf, tgen := w.gen, shadow := s.parityOf v x.va }
        if pteD w.leaf then port s y
        else match s.setDirty p v w.ptea va w.big with
          | some s => port s y
          | none => .bad (dirtyEcc x.va) s

/-- How all the stores of a commit stand. -/
inductive StoresEnd where
  | ready (l : List SillStore) (s : State)
  | waits
  | bad (x : SillStore) (i : FaultInfo) (s : State)

/-- Brings the stores of a commit to their homes, to the first that waits or faults. -/
def State.settleStores (s : State) (br : BentRef) (p : Pkg) : List SillStore → StoresEnd
  | [] => .ready [] s
  | x :: xs =>
    match s.settleStore br p x with
    | .waits => .waits
    | .bad i s => .bad x i s
    | .ready y s =>
      match s.settleStores br p xs with
      | .ready ys s => .ready (y :: ys) s
      | .waits => .waits
      | .bad x i s => .bad x i s

/-- What a commit does once its stores stand at their homes: they become visible together, its registers are committed, its held tokens leave, a
waiting start token enters, and faults held for the next activation are reported (R44, R46, R97). -/
def State.commitEntry (s : State) (br : BentRef) (tl : Nat) (e : WinEntry) (stores : List SillStore) : State :=
  let s := (stores.foldr insertStore []).foldl (fun s st => s.writeKey st.ga st.key st.bytes) s
  let s := s.updTl br tl (fun x =>
    { x with
      win := x.win.drop 1
      g := e.writes.foldl (fun g w => match w.2 with
        | some v => g.set w.1 v
        | none => g) x.g })
  let src := match s.bent? br, s.slot? br.rid e.blk 0 with
    | some b, some p => b.cell p.cx p.cy
    | _, _ => { pkg := { px := 0, py := 0 }, x := 0, y := 0 }
  let s := e.held.foldl (fun s h => s.sendTok br.rid src h.1 h.2) s
  let s := match (s.bent? br).bind (fun b => b.timelines[tl]?) with
    | some t => (match t.waiting with
      | st :: rest => (s.updTl br tl (fun x => { x with waiting := rest })).openEntry br tl none st
      | [] => s)
    | none => s
  s.reportHeld br tl

/-- ACTIVATION_COMMIT: the oldest activation of a timeline, when complete, commits (R44, R46, R97). Its stores are performed where their addresses
lead at that moment (R100, R173, R182); one that faults there holds the commit until Kiln replays it (log 85). -/
def execActivationCommit (br : BentRef) (tl : Nat) (s : State) : Host.Outcome State Fault Refusal :=
  if !s.bentLive br then .next s else
  match s.bent? br with
  | none => .next s
  | some b =>
    match (b.timelines[tl]?).bind (fun t => t.win.head?) with
    | none => .next s
    | some e =>
      if s.entryDone br.rid e && e.faults.isEmpty && !(e.stores.any (·.frozen)) then
        match s.settleStores br b.pkg e.stores with
        | .waits => .next s
        | .bad x i s =>
          let tag := Tag.mk (b.tlCtx.getD tl 0) e.ts
          let s := s.updTl br tl (fun t => t.updEntry tag (fun e => { e with stores := e.stores.map (fun y =>
            if y.lsid = x.lsid then { y with frozen := true } else y) }))
          .next ((s.eccFreeze br x.cx x.cy i).workFault br (.elem x.cx x.cy) (UnitLoc.elem x.cx x.cy).place e.blk x.slot tag x.lsid i)
        | .ready l s => .next (s.commitEntry br tl e l)
      else .next s

end Sys2Proof.Machine
end

