-- ==== Sys2Proof/Machine/Engine.lean ====
section
/-! DEFINITION. Descriptors and their walks (R73, R119, R419), and the accesses that engines make through them: local or virtual, of the
visible set or the shadow, each byte at its home (R61, R69, R100, R179, R182). -/

namespace Sys2Proof.Machine

open Sys2Proof

/-! ## Descriptors (R73) -/

/-- A descriptor by its fields. `tr` and `tc` are the tile's rows and columns. -/
structure Desc where
  base : Nat
  scale : Nat
  ext : List Nat
  str : List Int
  fmt : Nat
  nd1 : Nat
  sh : Bool
  tagged : Bool
  loc : Bool
  idx : Nat
  cop : Nat
  tl : Bool
  tr : Nat
  tc : Nat
  rm : Nat
deriving DecidableEq, Repr

/-- A field of a descriptor. -/
def descF (b : BitVec 512) (lo n : Nat) : Nat := b.toNat / 2 ^ lo % 2 ^ n

/-- A signed 40-bit stride. -/
def strideOf (n : Nat) : Int := (BitVec.ofNat 40 n).toInt

/-- The fields of a descriptor's 64 bytes. -/
def Desc.ofBits (b : BitVec 512) : Desc where
  base := descF b 0 64
  scale := descF b 64 64
  ext := (List.range 5).map (fun i => descF b (128 + 32 * i) 32)
  str := (List.range 4).map (fun i => strideOf (descF b (288 + 40 * i) 40))
  fmt := descF b 508 4
  nd1 := descF b 505 3
  sh := b.getLsbD 504
  tagged := b.getLsbD 503
  loc := b.getLsbD 502
  idx := descF b 500 2
  cop := descF b 496 4
  tl := b.getLsbD 495
  tr := descF b 488 7 + 1
  tc := descF b 480 8 + 1
  rm := descF b 477 3

/-- A descriptor of a firing's block by its index. -/
def State.descAt (s : State) (rid blk i : Nat) : Desc :=
  Desc.ofBits (((s.block? rid blk).map (fun b => b.descs.getD i 0)).getD 0)

/-- The extents a descriptor uses. -/
def Desc.dims (d : Desc) : List Nat := d.ext.take (d.nd1 + 1)
/-- The elements of a walk. -/
def Desc.total (d : Desc) : Nat := d.dims.foldl (· * ·) 1
/-- Bits of an element. -/
def Desc.eb (d : Desc) : Nat := laneBits d.fmt
/-- Bytes of an element, for formats of a byte or more. -/
def Desc.es (d : Desc) : Nat := tyBytes d.fmt

/-- The coordinates of an element by its place in walk order, dimension 0 fastest. -/
def coordsOf : List Nat → Nat → List Nat
  | [], _ => []
  | e :: es, i => i % Nat.max e 1 :: coordsOf es (i / Nat.max e 1)

/-- The byte offset of an element at coordinates. -/
def Desc.offset (d : Desc) (cs : List Nat) : Int :=
  Int.ofNat (cs.headD 0 * d.eb / 8) + (List.zipWith (fun c st => Int.ofNat c * st) cs.tail d.str).foldl (· + ·) 0

/-- The 64-bit address at an offset from a base. -/
def addrAt (base : Nat) (off : Int) : Nat := ((Int.ofNat base + off) % (2 ^ 64 : Int)).toNat

/-- The place in walk order of coordinates. -/
def Desc.linear (d : Desc) (cs : List Nat) : Nat :=
  (List.zip cs d.dims).foldr (fun x acc => x.1 + x.2 * acc) 0

/-! ## Units of a walk (R75, R323, R419) -/

/-- The tiles along dimensions 0 and 1, and the extents beyond. -/
def Desc.tileDims (d : Desc) : List Nat :=
  match d.dims with
  | [e0] => [e0 / d.tc]
  | e0 :: e1 :: rest => e0 / d.tc :: e1 / d.tr :: rest
  | [] => []

/-- Bytes of a walk, packed. -/
def Desc.bytes (d : Desc) : Nat := (d.total * d.eb + 7) / 8
/-- The rows of a tile. -/
def Desc.rows (d : Desc) : Nat := if d.nd1 = 0 then 1 else d.tr
/-- Bytes of a row of a tile. -/
def Desc.rowBytes (d : Desc) : Nat := (d.tc * d.eb + 7) / 8

/-- The units of a walk: its tiles, or its 32-byte tokens. -/
def Desc.units (d : Desc) : Nat := if d.tl then d.tileDims.foldl (· * ·) 1 else (d.bytes + 31) / 32

/-- The addresses of the bytes of n elements from a place in walk order, packed (R119). -/
def Desc.elemAddrs (d : Desc) (base first n : Nat) : List Nat :=
  if d.eb < 8 then
    (List.range ((n + 1) / 2)).map (fun k => addrAt base (d.offset (coordsOf d.dims (first + 2 * k))))
  else (List.range n).flatMap (fun k =>
    (List.range d.es).map (fun b => addrAt base (d.offset (coordsOf d.dims (first + k)) + Int.ofNat b)))

/-- The coordinates of the first element of a row of a tile. -/
def Desc.tileRow (d : Desc) (j r : Nat) : List Nat :=
  match coordsOf d.tileDims j with
  | [t0] => [t0 * d.tc]
  | t0 :: t1 :: rest => t0 * d.tc :: (t1 * d.tr + r) :: rest
  | [] => []

/-- The addresses of the bytes of a row of a tile. -/
def Desc.rowAddrs (d : Desc) (base j r : Nat) : List Nat := d.elemAddrs base (d.linear (d.tileRow j r)) d.tc

/-- The addresses of the bytes of a unit, in walk order. -/
def Desc.unitAddrs (d : Desc) (base j : Nat) : List Nat :=
  if d.tl then (List.range d.rows).flatMap (d.rowAddrs base j)
  else
    let per := 256 / d.eb
    d.elemAddrs base (j * per) (Nat.min per (d.total - j * per))

/-- Whether a walk has scales: SCALE is not zero (R73), whatever FMT is. The spec does not say what a SCALE beside a FMT below 0xC does (log 86). -/
def Desc.scaled (d : Desc) : Bool := d.scale != 0

/-- The addresses of the scales of a unit: one for each 32 elements in dimension-0 order (R73, R419). -/
def Desc.scaleAddrs (d : Desc) (j : Nat) : List Nat :=
  if !d.scaled then []
  else if d.tl then
    (List.range d.rows).flatMap (fun r =>
      let i := d.linear (d.tileRow j r)
      (List.range ((i + d.tc + 31) / 32 - i / 32)).map (fun k => (d.scale + i / 32 + k) % 2 ^ 64))
  else
    let per := 256 / d.eb
    let i := j * per
    (List.range ((i + Nat.min per (d.total - i) + 31) / 32 - i / 32)).map (fun k => (d.scale + i / 32 + k) % 2 ^ 64)

/-- The distances in walk order between neighbouring tiles of each dimension. -/
def Desc.tileSteps (d : Desc) : List Nat :=
  match d.dims with
  | [_] => [d.tc]
  | e0 :: e1 :: rest => d.tc :: e0 * d.tr :: (rest.foldl (fun (acc : List Nat × Nat) e => (acc.1 ++ [acc.2], acc.2 * e)) ([], e0 * e1)).1
  | [] => []

/-- The places within a block of 32 elements at which the tiles of a walk begin. -/
def Desc.tileStarts (d : Desc) : List Nat :=
  (List.zip d.tileDims d.tileSteps).foldl (fun l x =>
    l.foldl (fun acc a => (List.range (min x.1 32)).foldl (fun acc c => setIns acc ((a + c * x.2) % 32)) acc) []) [0]

/-- The most scales that a tile of a walk needs (R73, R419). -/
def Desc.mostScales (d : Desc) : Nat :=
  (d.tileStarts.map (fun i => ((List.range d.rows).map (fun r =>
    ((i + (if d.nd1 = 0 then 0 else d.ext.headD 0 * r)) % 32 + d.tc + 31) / 32)).foldl (· + ·) 0)).foldl Nat.max 0

/-- Every address that a walk touches, its scales among them. -/
def Desc.walkAddrs (d : Desc) (base : Nat) : List Nat := (List.range d.units).flatMap (fun j => d.unitAddrs base j ++ d.scaleAddrs j)

/-! ## Engine accesses -/

/-- What an engine accesses for: its bent, the scratchpad that KIND 00 names, whether its address is local, and, for a read, the
generations it took; `sh` writes the shadow; `tile` says that it moves a whole tile, for `owner` (R104). For an AG's own stream, `ag` is its
cell, whose windows the access uses (R179), and `since` its place in the order in which the AG's instructions fired (R91). -/
structure Access where
  br : BentRef
  spad : CellId
  loc : Bool
  need : Need
  sh : Bool
  gens : List (Nat × Nat)
  tile : Bool
  owner : Nat
  ag : Option (Nat × Nat) := none
  since : Nat := 0

/-- A byte's home address and key, or the fault that its address meets. -/
inductive Found where
  | at_ (ga key : Nat)
  | bad (i : FaultInfo)
deriving DecidableEq, Repr

/-- The element after a walk: the window refreshes a program window or takes an own entry (R179). -/
def Elem.install (e : Elem) (w : Window) : Elem :=
  let r := refreshProg e.pwin w
  if r.2 then { e with pwin := r.1 } else { e with own := installOwn e.own w }

/-- Sets D in every copy of a leaf that an element's windows hold. -/
def Elem.markDirty (e : Elem) (ptea : Nat) : Elem :=
  { e with
    pwin := e.pwin.map (fun w => w.map (fun w => if w.ptea = ptea then { w with leaf := w.leaf ||| 16 } else w))
    own := Sys2Proof.Machine.markDirty ptea e.own }

/-- An access of an AG's stream through the AG's windows, program windows first: a hit, or a walk whose window it installs; a write sets D first
(R179). -/
def State.agWindow (s : State) (br : BentRef) (cx cy : Nat) (p : Pkg) (v : VdRef) (va : Nat) (need : Need) : WalkEnd × State :=
  let dirty := fun (w : Window) (s : State) =>
    if need.wr && !pteD w.leaf then
      match s.setDirty p v w.ptea va w.big with
      | some t => (WalkEnd.ok { w with leaf := w.leaf ||| 16 }, t.updElem br cx cy (·.markDirty w.ptea))
      | none => (WalkEnd.bad (dirtyEcc va), s)
    else (WalkEnd.ok w, s)
  let wins := (s.elem? br cx cy).elim [] (fun e => e.pwin.filterMap id ++ e.own)
  match wins.find? (fun w => s.winHits p v w va need) with
  | some w => dirty w s
  | none =>
    match s.walk p v va need with
    | (.ok w, s) => dirty w (s.updElem br cx cy (·.install w))
    | (.bad i, s) => (.bad i, s)

/-- Finds the home of one address for an engine (R61, R62, R69, R100, R179). A fault names the address that the program gave (R178). A local
address of a write with SH lies in no shadowed buffer (R100). The local address of a descriptor's instruction is BASE plus its lane: that sum is what
R61 is applied to, and the lane by itself has no zero bits to keep (log 113). -/
def State.locate (s : State) (x : Access) (wins : List Window) (a : Nat) : Found × List Window × State :=
  match s.bent? x.br with
  | none => (.bad { cause := .laPerm, addr := a }, wins, s)
  | some b =>
    if x.loc then
      if x.sh then (.bad { cause := .shadowNone, addr := a, wr := true }, wins, s)
      else match b.localAt a with
      | .spad off => (.at_ (spadGa x.spad off) 0, wins, s)
      | .vault k off => (.at_ (vaultGa b.pkg k.vault off) 0, wins, s)
      | _ => (.bad { cause := .laPerm, addr := a, wr := x.need.wr }, wins, s)
    else if !canonVa (BitVec.ofNat 64 a) then (.bad { cause := .vaCanon, addr := a, wr := x.need.wr }, wins, s)
    else
      let v := s.vdOf x.br.rid
      let va := a % 2 ^ 55
      match if x.sh then s.shadowVa v va else some (s.visibleVa v va x.gens) with
      | none => (.bad { cause := .shadowNone, addr := a, wr := true }, wins, s)
      | some y =>
        match (match x.ag with
          | some (cx, cy) => (match s.agWindow x.br cx cy b.pkg v y x.need with
            | (w, t) => (w, wins, t))
          | none => s.engineAccess b.pkg v wins y x.need) with
        | (.ok w, wins, s) => (.at_ (w.ga b.pkg y) (s.keyOf b.pkg v.part w.leaf), wins, s)
        | (.bad i, wins, s) => (.bad { i with addr := a }, wins, s)

/-- Finds the homes of addresses, in order, to the first fault. -/
def State.locateAll (s : State) (x : Access) (wins : List Window) :
    List Nat → Except FaultInfo (List (Nat × Nat)) × List Window × State
  | [] => (.ok [], wins, s)
  | a :: as =>
    match s.locate x wins a with
    | (.bad i, wins, s) => (.error i, wins, s)
    | (.at_ ga key, wins, s) =>
      match s.locateAll x wins as with
      | (.ok l, wins, s) => (.ok ((ga, key) :: l), wins, s)
      | (.error i, wins, s) => (.error i, wins, s)

/-- How an engine's access ends: with bytes, with a fault, or not yet. -/
inductive EngEnd where
  | ok (bytes : List Byte) (wins : List Window) (s : State)
  | bad (i : FaultInfo) (wins : List Window) (s : State)
  | waits

/-- Makes the memory ports ready for bytes (R182); none while a line is pending. -/
def State.portsReady (s : State) : List (Nat × Nat) → Option (Except FaultInfo State)
  | [] => some (.ok s)
  | (ga, key) :: rest =>
    match s.portReady ga 1 with
    | .waits => none
    | .ecc _ => some (.error { cause := .eccUncorr, addr := ga })
    | .ready s => s.portsReady rest

/-- Whether a tile mark of another owner holds a whole-tile access: a read waits for writes' marks, a write for reads' (R104). -/
def State.tileHeld (s : State) (x : Access) (l : List (Nat × Nat)) : Bool :=
  x.tile && s.marks.any (fun m => m.owner != x.owner && m.write != x.need.wr && l.any (fun g => overlaps m.lo m.len g.1 1))

/-! ## The order of an AG's accesses (R89, R91) -/

/-- Bytes of an index type (R73). -/
def idxBytes (i : Nat) : Nat := if i < 2 then 4 else 8

/-- An index lane as a number: unsigned for codes 00 and 10, signed for 01 and 11 (R73, R77). -/
def idxLane (i : Nat) (pay : W256) (l : Nat) : Int :=
  let w := 8 * idxBytes i
  let v := laneAt pay w l
  if i % 2 = 1 ∧ 2 ^ (w - 1) ≤ v then Int.ofNat v - 2 ^ w else Int.ofNat v

/-- The lanes' addresses of a GATH request (R77, R351). -/
def State.gathAddrs (s : State) (r : Req) : List Nat :=
  let d := s.descAt r.br.rid r.blk ((s.reqOps r).xf 0 20)
  let n := if r.ctx.atok.isScalar then 1 else Nat.min (32 / idxBytes d.idx) (32 / d.es)
  let idx := (List.range n).map (idxLane d.idx r.data)
  (idx.filter (fun (i : Int) => 0 ≤ i && i < Int.ofNat (d.ext.headD 0))).flatMap
    (fun i => (List.range d.es).map (fun k => addrAt r.va (i * Int.ofNat d.es + Int.ofNat k)))

/-- Whether an address lies in the bytes of a request, as the program gave them. -/
def State.reqTouches (s : State) (q : Req) (loc : Bool) (a : Nat) : Bool :=
  if q.kind == .gath then !loc && (s.gathAddrs q).any (fun b => b % 2 ^ 55 == a % 2 ^ 55)
  else q.loc == loc && q.va ≤ a && a < q.va + q.size

/-- The slot fields of a slot of a raising. -/
def State.opsAt (s : State) (rid blk slot : Nat) : SlotOps := SlotOps.ofWord ((s.slot? rid blk slot).elim 0 (·.word))

/-- Inserts an element by index, then position. -/
def insertElem (x : ScatElem) : List ScatElem → List ScatElem
  | [] => [x]
  | y :: ys => if x.idx < y.idx || (x.idx == y.idx && x.pos < y.pos) then x :: y :: ys else y :: insertElem x ys

/-- The segments of a batch: its elements by rising index, each in rising position (R78). -/
def segments (es : List ScatElem) : List (Int × List Nat) :=
  (es.foldl (fun l x => insertElem x l) []).foldl (fun acc x =>
    match acc.getLast? with
    | some (i, vs) => if i == x.idx then acc.dropLast ++ [(i, vs ++ [x.val])] else acc ++ [(x.idx, [x.val])]
    | none => [(x.idx, [x.val])]) []

/-- The positions of a reading stream that it has still to read. -/
def Stream.unread (x : Stream) : List Nat :=
  (List.range x.count).filter (fun j => x.emit ≤ j && !x.done.contains j && !x.held.any (·.j == j))

/-- The addresses of a pointer of CSRD (R80). -/
def Stream.ptrAddrs (x : Stream) (d : Desc) (k : Nat) : List Nat := (List.range d.es).map (fun b => (x.base + k * d.es + b) % 2 ^ 64)

/-- The addresses that a stream reads at a position (R75, R419). -/
def Stream.srdAddrs (x : Stream) (d : Desc) (j : Nat) : List Nat := d.unitAddrs x.base j ++ (if d.tl then d.scaleAddrs j else [])

/-- The descriptor of a stream. -/
def State.streamDesc (s : State) (rid : Nat) (x : Stream) : Desc :=
  s.descAt rid x.blk ((s.opsAt rid x.blk x.slot).xf 0 20)

/-- The addresses that a reading stream has still to read. -/
def State.streamLeft (s : State) (rid : Nat) (x : Stream) : List Nat :=
  let d := s.streamDesc rid x
  match x.kind with
  | .srd => x.unread.flatMap (x.srdAddrs d)
  | .csrd => if x.count = 0 then [] else
      ((List.range (x.count + 1)).filter (fun k => x.emit ≤ k && !x.ptrs.any (·.1 == k))).flatMap (x.ptrAddrs d)
  | .swr => []

/-- The addresses that a closed batch of SCAT has still to update. -/
def State.batchLeft (s : State) (rid : Nat) (x : ScatBatch) : List Nat :=
  let d := s.descAt rid x.blk ((s.opsAt rid x.blk x.slot).xf 0 20)
  ((segments x.elems).drop x.pos).flatMap (fun g => (List.range d.es).map (fun k => addrAt x.base (g.1 * Int.ofNat d.es + Int.ofNat k)))

/-- Whether a stream, a gather or a batch of an AG that fired before a number has still to access one of some bytes: a write waits for their reads,
and every access for a batch's updates (R91; log 87). -/
def State.streamOrder (s : State) (br : BentRef) (cx cy since : Nat) (wr loc : Bool) (touches : Nat → Bool) : Bool :=
  match s.elem? br cx cy with
  | none => false
  | some e =>
    (wr && e.streams.any (fun x => x.id < since && loc == (s.streamDesc br.rid x).loc && (s.streamLeft br.rid x).any touches)) ||
    (wr && !loc && s.reqs.any (fun q => q.kind == .gath && q.id < since && q.ofAg br cx cy && q.stage.before && (s.gathAddrs q).any touches)) ||
    (!loc && e.batches.any (fun x => x.id < since && (s.batchLeft br.rid x).any touches))

/-- Whether an access of an AG that fired before a number, to one of some bytes, has still to reach its home: an access of the AG's streams, gathers
and batches waits for it, unless both read (R89, R91; log 87). -/
def State.orderBehind (s : State) (br : BentRef) (cx cy since : Nat) (wr loc : Bool) (addrs : List Nat) (homes : List (Nat × Nat)) : Bool :=
  s.reqs.any (fun q => q.id < since && q.ofAg br cx cy && q.stage.before && (q.kind.accesses || q.kind.remote) && !q.kind.late? &&
      (q.kind.isWrite || wr) &&
      (match if q.kind == .gath then none else s.aims q with
        | some g => homes.any (fun h => overlaps g q.size h.1 1)
        | none => (q.kind.accesses || q.target == ((s.bent? br).map (·.pkg)).getD q.target) && addrs.any (s.reqTouches q loc))) ||
  s.streamOrder br cx cy since wr loc addrs.contains

/-- The order of a stream's access behind its AG's earlier ones. -/
def State.agBehind (s : State) (x : Access) (addrs : List Nat) (homes : List (Nat × Nat)) : Bool :=
  match x.ag with
  | none => false
  | some (cx, cy) => s.orderBehind x.br cx cy x.since x.need.wr x.loc addrs homes

/-- An engine reads bytes (R90, R186). -/
def State.engineLoad (s : State) (x : Access) (wins : List Window) (addrs : List Nat) : EngEnd :=
  match s.locateAll x wins addrs with
  | (.error i, wins, s) => .bad i wins s
  | (.ok l, wins, s) =>
    if s.tileHeld x l || s.agBehind x addrs l then .waits
    else match s.portsReady l with
    | none => .waits
    | some (.error i) => .bad i wins s
    | some (.ok s) =>
      match l.find? (fun g => s.eccIn g.1 1) with
      | some g => .bad { cause := .eccUncorr, addr := g.1 } wins s
      | none => .ok (l.map (fun g => (s.readKey g.1 1 g.2).headD 0)) wins s

/-- Writes bytes at their homes. -/
def State.putBytes (s : State) : List (Nat × Nat) → List Byte → State
  | (ga, key) :: rest, b :: bs => (s.writeKey ga key [b]).putBytes rest bs
  | _, _ => s

/-- An engine writes bytes (R90, R179). -/
def State.engineStore (s : State) (x : Access) (wins : List Window) (addrs : List Nat) (bs : List Byte) : EngEnd :=
  match s.locateAll x wins addrs with
  | (.error i, wins, s) => .bad i wins s
  | (.ok l, wins, s) =>
    if s.tileHeld x l || s.agBehind x addrs l then .waits
    else match s.portsReady l with
    | none => .waits
    | some (.error i) => .bad i wins s
    | some (.ok s) => .ok [] wins (s.putBytes l bs)

/-! ## An element access at its home -/

/-- Whether a write on its way leads to a set of frames of its shadowed buffer that is no longer the one it goes to (R100). -/
def State.reqStale (s : State) (r : Req) : Bool := r.kind.isWrite && !r.kind.late? && !r.loc && s.parityOf r.vdr r.va != r.shadow

/-- An access at its home performs. None while its line is migrating (R182). -/
def State.accessAt (s : State) (r : Req) (ga : Nat) : Option State :=
  let key := s.keyOf (gaPkg ga) r.vdr.part r.leaf
  match s.portReady ga r.size with
  | .waits => none
  | .ecc s => some (s.answer r (.err { cause := .eccUncorr, addr := r.va }))
  | .ready s => some ((s.homeDo r ga key).chargeAct r.ctx 0x1000)

/-- A write whose buffer has changed its generation on the way is translated again at the home and performed in the set that is visible there (R100);
what the walk meets is its answer. -/
def State.accessAgain (s : State) (r : Req) : Option State :=
  let p := ((s.bent? r.br).map (·.pkg)).getD r.target
  let r := { r with shadow := s.parityOf r.vdr r.va }
  match s.walk p r.vdr (s.xvaOf r) r.kind.need with
  | (.bad i, s) => some (s.answer r (.err { i with addr := r.va, wr := true }))
  | (.ok w, s) =>
    let r := { r with leaf := w.leaf, ptea := w.ptea, big := w.big, tgen := w.gen, ga := some (w.ga p (s.xvaOf r)) }
    match if !pteD w.leaf then s.setDirty p r.vdr w.ptea (s.xvaOf r) w.big else some s with
    | none => some (s.answer r (.err (dirtyEcc r.va)))
    | some s => s.accessAt r (w.ga p (s.xvaOf r))

/-- An access at its home: it follows earlier ones of its AG to the same bytes (R91), waits for a migrating line (R182), and a write to a
shadowed buffer whose generation has changed is translated again (R100). None where it must wait. -/
def State.homeAccess (s : State) (r : Req) : Option State :=
  match r.ga with
  | none => none
  | some ga =>
    if s.behind r || s.streamOrder r.br r.cx r.cy r.id r.kind.isWrite r.loc (fun a => r.va ≤ a && a < r.va + r.size) then none
    else if s.reqStale r then s.accessAgain r
    else s.accessAt r ga

/-! ## The shape of a copy (R320 to R324) -/

/-- What a copy does, as its slot and its tokens say (R320, R321, R323, R324). -/
structure CopyPlan where
  rows : Bool
  src : Desc
  dst : Desc
  dr : Bool
  ring : Nat
  spd : Bool
  sbase : Nat
  dbase : Nat
  elem : Nat
deriving DecidableEq, Repr

/-- The plan of a copy instruction. A copy into a ring has no destination descriptor (R320). -/
def State.copyPlan (s : State) (rid blk slot : Nat) (atok : Token) : CopyPlan :=
  let o := s.opsAt rid blk slot
  let d := o.xf 0 16
  let src := s.descAt rid blk d
  let dst := if o.x.getLsbD 19 then src else s.descAt rid blk (d + 1)
  { rows := slotOpc ((s.slot? rid blk slot).elim 0 (·.word)) == 0x99, src := src, dst := dst, dr := o.x.getLsbD 19, ring := o.xf 24 5,
    spd := o.x.getLsbD 17, sbase := (src.base + laneAt atok.pay 64 0) % 2 ^ 64, dbase := (dst.base + laneAt atok.pay 64 1) % 2 ^ 64,
    elem := atok.pay.toNat / 2 ^ 136 % 16 }

/-- Bytes of a row of CPYS. -/
def CopyPlan.rowBytes (p : CopyPlan) : Nat := (p.src.ext.headD 0 * p.src.eb + 7) / 8

/-- Whether a copy moves whole tiles. -/
def CopyPlan.tiled (p : CopyPlan) : Bool := !p.rows && p.src.tl

/-- The source addresses of a unit; none for a row of zeros (R324). -/
def CopyPlan.srcAddrs (p : CopyPlan) (btok : Option Token) (j : Nat) : Option (List Nat) :=
  if p.rows then
    match btok with
    | some b =>
      let i := idxLane p.src.idx b.plain.pay j
      if 0 ≤ i && i < Int.ofNat (p.src.ext.getD 1 0) then
        some ((List.range p.rowBytes).map (fun k => addrAt p.sbase (i * (p.src.str.headD 0) + Int.ofNat k)))
      else none
    | none => none
  else some (p.src.unitAddrs p.sbase j ++ (if p.dr || p.dst.scaled then p.src.scaleAddrs j else []))

/-- Every source address of a copy. -/
def CopyPlan.sources (p : CopyPlan) (btok : Option Token) (units : List Nat) : List Nat := units.flatMap (fun j => (p.srcAddrs btok j).getD [])

/-- The destination addresses of a unit outside a ring: its own position in the destination walk (R323, R324). -/
def CopyPlan.dstAddrs (p : CopyPlan) (j : Nat) : List Nat :=
  if p.rows then (List.range p.rowBytes).map (fun k => (p.dbase + j * p.rowBytes + k) % 2 ^ 64)
  else if p.src.tl == p.dst.tl && (!p.src.tl || (p.src.tr == p.dst.tr && p.src.tc == p.dst.tc)) then
    p.dst.unitAddrs p.dbase j ++ (if p.src.scaled then p.dst.scaleAddrs j else [])
  else
    let per := if p.src.tl then p.src.rows * p.src.tc else 256 / p.src.eb
    p.dst.elemAddrs p.dbase (j * per) (Nat.min per (p.dst.total - j * per)) ++
      (if p.src.scaled && p.dst.scaled then (List.range ((per + 31) / 32)).map (fun k => (p.dst.scale + j * per / 32 + k) % 2 ^ 64) else [])

/-! ## Readers and writers of a shadowed buffer (R102, R103) -/

/-- The raisings of a virtual device. -/
def State.raisingsOf (s : State) (v : VdRef) : List Raising := s.raisings.filter (·.vdr == v)

/-- Whether a copy has still to write to the shadow of a buffer. -/
def State.copyWrites (s : State) (rid : Nat) (c : Copy) (b : ShadowBuf) : Bool :=
  let p := s.copyPlan rid c.blk c.slot c.atok
  !p.dr && p.dst.sh && !p.dst.loc && (c.units.drop c.pos).any (fun j => (p.dstAddrs j).any b.holds)

/-- Whether a batch of SCAT has still to write to the shadow of a buffer. -/
def State.batchWrites (s : State) (rid : Nat) (x : ScatBatch) (b : ShadowBuf) : Bool :=
  (s.descAt rid x.blk ((s.opsAt rid x.blk x.slot).xf 0 20)).sh && (s.batchLeft rid x).any b.holds

/-- Whether a firing of TCVT to memory writes to the shadow of a buffer (R432, R437). -/
def State.tcvtWrites (s : State) (rid : Nat) (k : Cluster) (b : ShadowBuf) : Bool :=
  match k.firing with
  | some f =>
    let o := s.opsAt rid f.blk f.slot
    let d := s.descAt rid f.blk (o.xf 0 10)
    let n := ((k.nodes.find? (fun n => n.blk == f.blk && n.slot == f.slot)).map (·.fire)).getD 0
    slotOpc ((s.slot? rid f.blk f.slot).elim 0 (·.word)) == 0x8E && o.x.getLsbD 18 && d.sh && !d.loc &&
      (d.unitAddrs d.base n ++ d.scaleAddrs n).any b.holds
  | none => false

/-- Whether a position of an SWR that a fault has frozen writes to the shadow of a buffer (R102, R427). -/
def State.swrWrites (s : State) (rid : Nat) (t : Bent) (e : Elem) (x : Stream) (b : ShadowBuf) : Bool :=
  let d := s.streamDesc rid x
  x.kind == .swr && d.sh && !d.loc && t.frozenTags.any (fun f => f.1 == .elem e.cx e.cy && f.2.blk == x.blk && f.2.slot == x.slot &&
    f.2.tag.ctx == x.tag.ctx && f.2.info.park && (d.unitAddrs x.base f.2.info.j ++ d.scaleAddrs f.2.info.j).any b.holds)

/-- Whether a unit of bulk that writes to a shadow is on its way to a buffer, issued before a number (R102). -/
def State.bulkWrites (s : State) (v : VdRef) (b : ShadowBuf) (before : Nat) : Bool :=
  s.bulks.any (fun f => f.sh && !f.done && f.vas.any b.holds && (match f.owner with
    | .copy br _ _ id => id < before && s.vdOf br.rid == v
    | .qcopy w _ id => id < before && w == v))

/-- Whether an SH = 1 write to a buffer that was issued before a number is still to be done (R102). -/
def State.shPending (s : State) (v : VdRef) (b : ShadowBuf) (before : Nat) : Bool :=
  (s.raisingsOf v).any (fun r => r.bents.any (fun t =>
    t.clus.any (fun k => k.copies.any (fun c => c.id < before && s.copyWrites r.rid c b) ||
      k.firing.elim false (fun f => f.id < before && s.tcvtWrites r.rid k b)) ||
    t.elems.any (fun e => e.batches.any (fun x => x.id < before && s.batchWrites r.rid x b) ||
      e.streams.any (fun x => x.id < before && s.swrWrites r.rid t e x b)))) ||
  s.bulkWrites v b before ||
  s.queues.any (fun q => q.vdr == v && (match q.work with
    | some (.copy _ dst len true pos _ id _) => id < before && overlaps b.vbase b.len ((dst + 32 * pos) % 2 ^ 55) (len - 32 * pos)
    | _ => false)) ||
  s.reqs.any (fun r => r.kind == .late true && r.vdr == v && r.id < before && r.stage.before && b.holds r.va) ||
  s.mcops.any (fun m => m.id < before && s.vdOf m.br.rid == v && m.data.isSome &&
    (s.opsAt m.br.rid m.blk m.slot).x.getLsbD 8 &&
    (match s.groupSets.find? (fun g => g.br == m.br && g.cx == m.cx && g.cy == m.cy && g.group == m.group) with
      | some g => g.members.any (fun x => b.holds (x.va + m.off))
      | none => false))

/-- Whether generations that a read took name an older one of a buffer than it stands at. -/
def ShadowBuf.olderIn (b : ShadowBuf) (gens : List (Nat × Nat)) : Bool := gens.any (fun g => g.1 == b.vbase && g.2 != b.g)

/-- Whether a read that took an older generation of a buffer is still in progress (R103): a load on its way, a copy, a stream with positions to
read, or a QCOPY. -/
def State.oldReaders (s : State) (v : VdRef) (b : ShadowBuf) : Bool :=
  s.reqs.any (fun r => r.vdr == v && (r.kind == .ld || r.kind == .ldi || (r.kind == .rld && r.ga.isSome)) && !r.loc && b.holds r.va &&
    r.shadow != (b.g % 2 == 1) && r.stage.before) ||
  s.queues.any (fun q => q.vdr == v && (match q.work with
    | some (.copy _ _ _ _ _ _ _ gens) => b.olderIn gens
    | _ => false)) ||
  (s.raisingsOf v).any (fun r => r.bents.any (fun t =>
    t.clus.any (fun k => k.copies.any (fun c => b.olderIn c.gens && c.pos < c.units.length)) ||
    t.elems.any (fun e => e.streams.any (fun x => b.olderIn x.gens && !(s.streamLeft r.rid x).isEmpty))))

/-- Whether an SH = 1 write of an engine to addresses must wait for readers of any buffer that it touches (R103). -/
def State.shWaits (s : State) (v : VdRef) (addrs : List Nat) : Bool :=
  ((s.vdev? v).elim [] (·.shadows)).any (fun b => addrs.any b.holds && s.oldReaders v b)

/-! ## What a page-table sync point waits for (R173) -/

/-- Whether a request that holds a translation has still to be performed: neither performed, frozen nor parked. -/
def Req.underWay (r : Req) : Bool :=
  r.ga.isSome && (r.stage == .dirty || r.stage == .toHome || r.stage == .forward || r.stage == .home || r.stage == .turned)

/-- Whether a sync point of a package waits for a request: one issued there, or a remote request translated there. -/
def State.syncCovers (s : State) (p : Pkg) (v : VdRef) (r : Req) : Bool :=
  r.vdr == v && r.underWay && (if r.kind.remote then r.target == p else (s.reqCell r).pkg == p)

/-- Whether a sync point of a package waits for a unit of bulk: one on its way to homes that a Lahar or a memory port of the package found. -/
def State.syncBulk (s : State) (p : Pkg) (v : VdRef) (b : Bulk) : Bool :=
  !b.done && !b.lost && !b.vas.isEmpty && (match b.owner with
    | .copy br _ _ _ => s.vdOf br.rid == v && (s.bent? br).elim false (·.pkg == p)
    | .qcopy w _ _ => w == v && (s.vdev? v).elim false (·.home == p))

/-- What a sync point of a package waits for, by number. -/
def State.syncWaits (s : State) (p : Pkg) (v : VdRef) : List Nat :=
  (s.reqs.filter (s.syncCovers p v)).map (·.id) ++ (s.bulks.filter (s.syncBulk p v)).map (·.id)

end Sys2Proof.Machine
end

