-- ==== Sys2Proof/Machine/MemOps.lean ====
section
/-! DEFINITION. The memory instructions of an AG (R60 to R65, R82 to R85, R95, R100 to R106, R174 to R179, R309 to R313, R346 to R348, R359 to
R362, R380 to R382, R415, R416, R420, R421, R425, R445, R446), and the walk and the dirty logger. -/

namespace Sys2Proof.Machine

open Sys2Proof

/-! ## Loads and stores -/

/-- MEMMOD for MOD bits that an instruction reserves (R65, R174, R279). -/
def memMod (o : SlotOps) (mask : Nat) : BitVec 30 := if o.mod.toNat &&& mask = 0 then 0 else warnBit 13

/-- The data of a store at a type and a size: the low bytes of its operand's lanes, of which a scalar fills every one (R26, R65, R421). -/
def storeData (c : Ctx) (ty size : Nat) : W256 :=
  BitVec.ofNat 256 (packLanes (laneBits ty) (c.btok.plain.lanes (laneBits ty) (laneCount ty)) % 2 ^ (8 * size))

/-- A load's firing (R359, R360). -/
def State.loadAs (s : State) (o : SlotOps) (c : Ctx) : Host.Outcome State Fault Refusal :=
  let t := memTy o.ty
  let sc := scopeEff o
  let r := { Req.make s c .ld (c.addr o) (if o.mod.getLsbD 1 then 32 else tyBytes t.1) t.1 with
             loc := o.mod.getLsbD 0, scope := sc.1, warn := (prEff o).2 ||| tilehd c ||| t.2 ||| sc.2 ||| memMod o 4 }
  s.begun r (s.startAccess r)

/-- LD (R359, R360). -/
def execLd (o : SlotOps) (s : State) : Host.Outcome State Fault Refusal := s.runFiring o (fun c => s.loadAs o c)

/-- XLD: as LD; its executed firings count in DEPCOUNT when they emit (R254, R446; log 30). -/
def execXld (o : SlotOps) (s : State) : Host.Outcome State Fault Refusal := s.runFiring o (fun c => s.loadAs o c)

/-- Accounts the LSID of a nullified ST of an ORDERED activation (R44, R421). -/
def State.accountLsid (s : State) (o : SlotOps) (c : Ctx) : State :=
  s.updEntry c (fun e => { e with lsids := e.lsids ++ [o.xf 24 5] })

/-- ST (R420, R421). -/
def execSt (o : SlotOps) (s : State) : Host.Outcome State Fault Refusal :=
  match s.firing? with
  | none => .fault .notLatched
  | some c =>
    match fireCase (prEff o).1 c with
    | .nullPass => .next ((s.accountLsid o c).emit2 c o (nullTok c.tag))
    | .off => .next (s.accountLsid o c)
    | .run =>
      let t := memTy o.ty
      let sc := scopeEff o
      let size := if o.mod.getLsbD 1 then 32 else tyBytes t.1
      let r := { Req.make s c .st (c.addr o) size t.1 with
                 loc := o.mod.getLsbD 0, scope := sc.1, data := storeData c t.1 size,
                 warn := (prEff o).2 ||| tilehd c ||| t.2 ||| sc.2 ||| memMod o 4 }
      s.begun r (s.startAccess r)

/-- A write-once access (R83, R361, R362, R425). -/
def State.wordAs (s : State) (o : SlotOps) (c : Ctx) (kind : AccKind) (mask : Nat) (data : W256) : Host.Outcome State Fault Refusal :=
  let t := woTy o.ty
  let sc := scopeEff o
  let r := { Req.make s c kind (c.addr o) 8 t.1 with
             loc := o.mod.getLsbD 0, scope := sc.1, data := data, warn := (prEff o).2 ||| tilehd c ||| t.2 ||| sc.2 ||| memMod o mask }
  s.begun r (s.startAccess r)

/-- LDI (R83, R361, R362). -/
def execLdi (o : SlotOps) (s : State) : Host.Outcome State Fault Refusal := s.runFiring o (fun c => s.wordAs o c .ldi 6 0)

/-- STI (R83, R425). -/
def execSti (o : SlotOps) (s : State) : Host.Outcome State Fault Refusal :=
  s.runFiring o (fun c => s.wordAs o c .sti 4 (storeData c 7 8))

/-- STI.clr: the word's data and its presence bit are cleared (R83, R425). -/
def execStiClr (o : SlotOps) (s : State) : Host.Outcome State Fault Refusal := s.runFiring o (fun c => s.wordAs o c .stiClr 4 0)

/-! ## Atomics (R309, R310) -/

/-- An atomic's operand and compare operand: lanes 0 and 1 of B at its type; a scalar B replicates (R26, R310). -/
def atomData (c : Ctx) (ty : Nat) : W256 × W256 :=
  let ls := c.btok.plain.lanes (laneBits ty) (laneCount ty)
  (BitVec.ofNat 256 (ls.getD 0 0), BitVec.ofNat 256 (ls.getD 1 0))

/-- An atomic's firing. -/
def State.atomAs (s : State) (o : SlotOps) (op : AtomOp) : Host.Outcome State Fault Refusal :=
  s.runFiring o (fun c =>
    let t := memTy o.ty
    let sc := scopeEff o
    let d := atomData c t.1
    let r := { Req.make s c (.atom op) (c.addr o) (tyBytes t.1) t.1 with
               loc := o.mod.getLsbD 0, scope := sc.1, data := d.1, data2 := d.2,
               warn := (prEff o).2 ||| tilehd c ||| t.2 ||| sc.2 }
    s.begun r (s.startAccess r))

/-- ATOM.add (R310). -/
def execAtomAdd (o : SlotOps) (s : State) : Host.Outcome State Fault Refusal := s.atomAs o .add
/-- ATOM.or (R310). -/
def execAtomOr (o : SlotOps) (s : State) : Host.Outcome State Fault Refusal := s.atomAs o .or
/-- ATOM.swap (R310). -/
def execAtomSwap (o : SlotOps) (s : State) : Host.Outcome State Fault Refusal := s.atomAs o .swap
/-- ATOM.cas (R310). -/
def execAtomCas (o : SlotOps) (s : State) : Host.Outcome State Fault Refusal := s.atomAs o .cas

/-! ## Windows (R175 to R178, R382, R445) -/

/-- The boot number of a package by which check values are keyed (R176). -/
def State.bootOf (s : State) (p : Pkg) : Nat := (s.plat? p).elim 0 (·.boots)

/-- The low 224 bits of a window token (R176). -/
def windowBits (w : Window) : BitVec 224 :=
  let vb := if w.vbase / 2 ^ 54 % 2 = 1 then w.vbase % 2 ^ 55 + (2 ^ 64 - 2 ^ 55) else w.vbase % 2 ^ 55
  BitVec.ofNat 224 (vb + w.leaf.toNat * 2 ^ 64 + (w.ptea % 2 ^ 52) * 2 ^ 128 + (if w.big then 2 ^ 180 else 0) + (w.gen % 2 ^ 32) * 2 ^ 192)

/-- A window token (R176). -/
def State.windowTok (s : State) (v : VdRef) (p : Pkg) (tag : Tag) (w : Window) : Token :=
  vectorTok tag ((Config.windowCheck v.part v.vd (s.bootOf p) (windowBits w)).append (windowBits w) |>.setWidth 256)

/-- A fault token (R178). -/
def faultTok (tag : Tag) (i : FaultInfo) : Token :=
  vectorTok tag (BitVec.ofNat 256 (i.addr % 2 ^ 64 + i.cause.code * 2 ^ 64 + (i.level % 4) * 2 ^ 80 + (if i.wr then 2 ^ 82 else 0)))

/-- A window as its token says (R176). -/
def windowOf (x : W256) (now : Nat) : Window :=
  { gen := x.toNat / 2 ^ 192 % 2 ^ 32, big := x.getLsbD 180, ptea := x.toNat / 2 ^ 128 % 2 ^ 52,
    leaf := BitVec.ofNat 64 (x.toNat / 2 ^ 64), vbase := x.toNat % 2 ^ 55, at_ := now }

/-- The end of an XLATE that found a cause: a fault token to T1, with the WARN bits of its emission (R294), or the instruction freezes when T1 is
none (R175). -/
def State.xlateBad (s : State) (c : Ctx) (o : SlotOps) (warn : BitVec 30) (i : FaultInfo) : State :=
  if o.t1 = 0x1FF then s.fault c i else (s.raiseWarn c.br c.u warn).emit c o.t1 (faultTok c.tag i)

/-- XLATE: a walk that installs nothing (R174, R175, R445). -/
def execXlate (o : SlotOps) (s : State) : Host.Outcome State Fault Refusal :=
  s.runFiring o (fun c =>
    let wr := o.mod.getLsbD 1
    let r := { Req.make s c (.xlate wr) (c.addr o) 1 0 with
               stage := .walk, warn := (prEff o).2 ||| tilehd c ||| memMod o 4 ||| rsvx (o.xf 20 9 != 0) }
    if 8 ≤ (s.reqs.filter (fun q => (q.kind == .xlate true || q.kind == .xlate false) && q.br == r.br && q.cx == r.cx && q.cy == r.cy)).length
    then s.wait
    else if !canonVa (BitVec.ofNat 64 r.va) then .next (s.xlateBad c o r.warn { cause := .vaCanon, addr := r.va, wr := wr })
    else .next (s.putReq r))

/-- PWIN: installs a window token whose check value matches (R177, R382). -/
def execPwin (o : SlotOps) (s : State) : Host.Outcome State Fault Refusal :=
  s.runFiring o (fun c =>
    let v := s.vdOf c.br.rid
    let x := c.atok.pay
    let p := ((s.bent? c.br).map (·.pkg)).getD { px := 0, py := 0 }
    if (x.toNat / 2 ^ 224 : Nat) ≠ (Config.windowCheck v.part v.vd (s.bootOf p) (x.setWidth 224)).toNat ∨ x.toNat / 2 ^ 181 % 2 ^ 11 ≠ 0 then
      .next (s.fault c { cause := .winForged })
    else
      .next (((s.updElemOf c (fun e => { e with pwin := e.pwin.set (o.xf 0 3) (some (windowOf x s.now)) })).warnAs c
        ((prEff o).2 ||| tilehd c ||| rsvx (o.xf 3 26 != 0))).emit c o.t0 c.atok.plain))

/-- WALK: the walk of a request (R172, R175, R179, R180). -/
def execWalk (s : State) : Host.Outcome State Fault Refusal :=
  match s.cur with
  | .event (.num id) =>
    match s.req? id with
    | some r =>
      if r.stage ≠ .walk then .next s
      else
        let v := r.vdr
        let o := s.reqOps r
        match s.bent? r.br with
        | none => .next (s.dropReq id)
        | some b =>
          match r.kind with
          | .xlate _ =>
            match s.walk b.pkg v (r.va % 2 ^ 55) r.kind.need with
            | (.ok w, t) => .next ((((t.dropReq id).updBent r.br (fun b => b.clearFrozen r.ctx.u r.blk r.slot r.tag)).raiseWarn r.br r.ctx.u
                r.warn).emit r.ctx o.t0 (s.windowTok v b.pkg r.tag w))
            | (.bad i, t) => if o.t1 = 0x1FF || i.cause = .eccUncorr then .next (t.walkFault r i) else .next ((t.dropReq id).xlateBad r.ctx o r.warn i)
          | _ =>
            match s.walk b.pkg v (s.xvaOf r) r.kind.need with
            | (.bad i, t) => .next (t.walkFault r i)
            | (.ok w, t) =>
              let t := (t.updElem r.br r.cx r.cy (fun e => e.install w)).updBent r.br (fun b => b.clearFrozen r.ctx.u r.blk r.slot r.tag)
              match t.translated r w with
              | .done t => .next t
              | .bad i => .next (t.reqFault r i)
              | .busy => .next s
    | none => .next s
  | _ => .next s

/-- DIRTY_LOGGER_SET: D is set for a write's leaf, the log takes its entry, and the write goes on (R179, R183). -/
def execDirtyLoggerSet (s : State) : Host.Outcome State Fault Refusal :=
  match s.cur with
  | .event (.num id) =>
    match s.req? id with
    | some r =>
      match r.stage, r.ga, s.bent? r.br with
      | .dirty, some ga, some b =>
        match s.setDirty b.pkg r.vdr r.ptea (s.xvaOf r) r.big with
        | none => .next (s.walkFault r (dirtyEcc r.va))
        | some t =>
          match (t.updElem r.br r.cx r.cy (·.markDirty r.ptea)).toHome { r with leaf := r.leaf ||| 16 } ga with
          | .done t => .next t
          | _ => .next s
      | _, _, _ => .next s
    | none => .next s
  | _ => .next s

/-! ## FENCE (R95, R346 to R348) -/

/-- What a FENCE of a bent covers when it fires: the requests issued and not frozen, copies, batches, and the reads and writes of MCRED and MCST (R95,
R347, R348). -/
def State.covered (s : State) (br : BentRef) : List Nat :=
  ((s.reqs.filter (fun r => r.br == br && r.kind != .rstp && (match r.kind with
    | .ld | .st | .ldi | .sti | .stiClr | .atom _ | .rld | .rst | .ratm _ | .gath => r.stage != .frozen
    | _ => false))).map (·.id)) ++
  (match s.bent? br with
    | some b => b.clus.flatMap (fun k => (k.copies.filter (fun c => !c.frozen)).map (·.id)) ++
        b.elems.flatMap (fun e => (e.batches.filter (fun x => !x.frozen)).map (·.id))
    | none => []) ++
  ((s.mcops.filter (fun m => m.br == br && !m.frozen)).map (·.id))

/-- FENCE: notes what it covers and waits (R347). -/
def execFence (o : SlotOps) (s : State) : Host.Outcome State Fault Refusal :=
  s.runFiring o (fun c =>
    let sc := scopeEff o
    let (id, t) := s.newId
    let xy := s.ctxCell c
    let wide := 6 ≤ sc.1
    let f : Fence :=
    { id := id, br := c.br, cx := xy.1, cy := xy.2, blk := c.blk, slot := c.slot, tag := c.tag, scope := sc.1,
      covers := s.covered c.br,
      posted := if wide then (s.reqs.filter (fun r => r.br == c.br && r.kind == .rstp)).map (·.id) else [],
      lost := if wide then ((s.bent? c.br).elim 0 (·.lostPosted)) else 0,
      warn := (prEff o).2 ||| tilehd c ||| sc.2 ||| rsvx (o.xf 0 20 != 0) }
    .next { t with fences := t.fences ++ [f] })

/-- Whether a covered request satisfies a fence of a bent's package: a read has returned or is deferred; a write is performed at the scope,
which outside the package means that its acknowledgement has come; at ELEM, that the AG has accepted it or, in its own scratchpad, that it is
written (R89, R95, R397). -/
def Req.settled (r : Req) (scope : Nat) (p : Pkg) : Bool :=
  match r.stage with
  | .reply => true
  | .deferred => true
  | .frozen => true
  | .toIssuer => r.kind.isWrite && (scope == 0 || r.ga.elim true (fun ga => gaPkg ga == p))
  | .dirty => false
  | _ => scope == 0 && r.kind.isWrite && (r.kind.remote || r.ga.elim false (fun ga => regionOf (gaPhys ga) != .spad))

/-- Whether everything a fence covers is settled. -/
def State.fenceDone (s : State) (f : Fence) : Bool :=
  f.covers.all (fun id =>
    (match s.req? id with
      | some r => r.settled f.scope (((s.bent? f.br).map (·.pkg)).getD r.target)
      | none => true) &&
    !(match s.bent? f.br with
      | some b => b.clus.any (fun k => k.copies.any (·.id == id)) || b.elems.any (fun e => e.batches.any (·.id == id))
      | none => false) &&
    !s.mcops.any (·.id == id)) &&
  f.posted.all (fun id => !s.reqs.any (·.id == id))

/-- The posted stores that a fence covers and that were lost: those lost before it fired and those of its covered ones that are lost
since (R95, R110, R347). -/
def State.fenceLost (s : State) (f : Fence) : Nat :=
  f.lost + (f.posted.filter (fun id => ((s.vdev? (s.vdOf f.br.rid)).elim [] (·.lost)).contains id)).length

/-- A fence emits the number of covered posted stores that were lost (R95, R347). -/
def State.fenceEmit (s : State) (f : Fence) : State :=
  let c : Ctx := { br := f.br, u := .elem f.cx f.cy, blk := f.blk, slot := f.slot, tag := f.tag, a := none, b := none, p := none }
  ({ s with fences := s.fences.filter (·.id != f.id) }.warnAs c f.warn).emit2 c (s.opsAt f.br.rid f.blk f.slot) (scalarTok f.tag (s.fenceLost f))

/-! ## Shadowed buffers (R100 to R103, R380, R381, R415, R416) -/

/-- PUBL: translated needing WR; then it waits at the hub for its turn (R102, R381). -/
def execPubl (o : SlotOps) (s : State) : Host.Outcome State Fault Refusal :=
  s.runFiring o (fun c =>
    let sc := scopeEff o
    let r := { Req.make s c .publ (c.addr o) 1 0 with scope := sc.1, warn := (prEff o).2 ||| tilehd c ||| sc.2 }
    if 8 ≤ (s.reqs.filter (fun q => q.kind == .publ && q.br == r.br && q.cx == r.cx && q.cy == r.cy)).length then s.wait
    else s.begun r (s.startAccess r))

/-- PUBL at the hub: once every earlier SH = 1 write and every earlier PUBL of the buffer is done, the generation changes in one event and
its number answers (R102). None while it must wait. -/
def State.homePubl (s : State) (r : Req) : Option State :=
  let v := r.vdr
  match s.shadowOf v (r.va % 2 ^ 55) with
  | none => some (s.answer r (.err { cause := .shadowNone, addr := r.va, wr := true }))
  | some b =>
    if s.shPending v b r.id || s.reqs.any (fun q => q.kind == .publ && q.id < r.id && q.vdr == v && b.holds q.va &&
        q.stage.before) then none
    else
      let s := s.updVdev v (fun d => { d with shadows := updIf d.shadows (fun x => x.vbase == b.vbase) (fun x => { x with g := x.g + 1 }) })
      some (s.answer r (.val (BitVec.ofNat 256 ((b.g + 1) % 2 ^ 32))))

/-- The walks of a range's pages, in order, needing RD and WR; every page must carry SHD, be homed in the package, and not be IST (R416). A fault stands beside the state in which the earlier walks have set A (R172). -/
def State.walkPages (s : State) (p : Pkg) (v : VdRef) (base : Nat) : Nat → Nat → Except (FaultInfo × State) State
  | 0, _ => .ok s
  | n + 1, i =>
    let va := base + i * 2 ^ 16
    match s.walk p v va needBoth with
    | (.bad f, s) => .error (f, s)
    | (.ok w, s) =>
      if !pteShd w.leaf || pteIst w.leaf || 2 ≤ pteHome w.leaf then .error ({ cause := .shadowNone, addr := canon64 va, aux := w.leaf.toNat }, s)
      else s.walkPages p v base n (i + 1)

/-- An uncorrectable error that a walk of SHDW met freezes its element (R186). -/
def State.shdwEcc (s : State) (c : Ctx) (f : FaultInfo) : State := s.eccFreeze c.br (s.ctxCell c).1 (s.ctxCell c).2 f

/-- The readers of a virtual device that a new shadowed buffer meets in progress: they read the set of their start, which is VBASE's own, to their last
byte (R101). -/
def State.noteShdw (s : State) (v : VdRef) (b : ShadowBuf) : State :=
  let note := fun (touches : Bool) (gens : List (Nat × Nat)) => if touches then gens ++ [(b.vbase, 0)] else gens
  { s with
    raisings := s.raisings.map (fun r => if r.vdr != v then r else { r with bents := r.bents.map (fun t =>
      { t with
        clus := t.clus.map (fun k => { k with copies := k.copies.map (fun c =>
          { c with gens := note (((s.copyPlan r.rid c.blk c.slot c.atok).sources c.btok c.units).any b.holds) c.gens }) })
        elems := t.elems.map (fun e => { e with streams := e.streams.map (fun x =>
          { x with gens := note ((s.streamLeft r.rid x).any b.holds) x.gens }) }) }) })
    queues := s.queues.map (fun q => if q.vdr != v then q else match q.work with
      | some (.copy src dst len sh pos fz id gens) =>
        { q with work := some (.copy src dst len sh pos fz id (note (overlaps b.vbase b.len (src % 2 ^ 55) len) gens)) }
      | _ => q) }

/-- SHDW: sets up a shadowed buffer with generation 0 (R415, R416). -/
def execShdw (o : SlotOps) (s : State) : Host.Outcome State Fault Refusal :=
  s.runFiring o (fun c =>
    let sc := scopeEff o
    let vb64 := laneAt c.atok.pay 64 0
    let len := laneAt c.atok.pay 64 1
    let sb64 := laneAt c.atok.pay 64 2
    let vb := vb64 % 2 ^ 55
    let sb := sb64 % 2 ^ 55
    let v := s.vdOf c.br.rid
    let p := ((s.bent? c.br).map (·.pkg)).getD { px := 0, py := 0 }
    let olds := ((s.vdev? v).map (·.shadows)).getD []
    let clash := fun (x : Nat) => olds.any (fun b => overlaps b.vbase b.len x len || overlaps b.sbase b.len x len)
    let none_ := s.fault c { cause := .shadowNone, addr := vb64, wr := true }
    if !canonVa (BitVec.ofNat 64 vb64) then .next (s.fault c { cause := .vaCanon, addr := vb64, wr := true })
    else if !canonVa (BitVec.ofNat 64 sb64) then .next (s.fault c { cause := .vaCanon, addr := sb64, wr := true })
    else if vb % 2 ^ 16 ≠ 0 ∨ sb % 2 ^ 16 ≠ 0 ∨ len = 0 ∨ len % 2 ^ 16 ≠ 0 ∨ 2 ^ 36 < len then .next none_
    else if overlaps vb len sb len || clash vb || clash sb then .next none_
    else if 64 ≤ olds.length then s.wait
    else match s.walkPages p v vb (len / 2 ^ 16) 0 with
      | .error (f, t) => .next ((t.fault c { f with wr := true }).shdwEcc c f)
      | .ok t =>
        match t.walkPages p v sb (len / 2 ^ 16) 0 with
        | .error (f, t) => .next ((t.fault c { f with wr := true }).shdwEcc c f)
        | .ok t =>
          let b : ShadowBuf := { vbase := vb, sbase := sb, len := len, g := 0 }
          let t := (t.noteShdw v b).updVdev v (fun d => { d with shadows := d.shadows ++ [b] })
          .next ((t.warnAs c ((prEff o).2 ||| tilehd c ||| sc.2 ||| memMod o 6 ||| rsvx (o.xf 0 20 != 0))).emit2 c o c.atok.plain))

/-- The leaf addresses of a range's pages, each once. -/
def State.leavesOf (s : State) (p : Pkg) (v : VdRef) (base n : Nat) : List Nat :=
  ((List.range n).filterMap (fun i => match s.walkEnd p v (base + i * 2 ^ 16) needRd with
    | .ok w => some w.ptea
    | .bad _ => none)).eraseDups

/-- Exchanges the FRAME fields of two leaves in memory (R416). -/
def State.swapFrames (s : State) (p : Pkg) (x y : Nat) : State :=
  let ex := s.read8 (gaOf p x)
  let ey := s.read8 (gaOf p y)
  let mask : W64 := BitVec.ofNat 64 ((2 ^ 36 - 1) * 2 ^ 14)
  (s.writeBytes (gaOf p x) (bytesOf 8 ((ex &&& ~~~ mask) ||| (ey &&& mask)).toNat)).writeBytes (gaOf p y)
    (bytesOf 8 ((ey &&& ~~~ mask) ||| (ex &&& mask)).toNat)

/-- Raises TGEN of a virtual device on a package: earlier windows miss (R173). -/
def State.raiseTgen (s : State) (v : VdRef) (p : Pkg) : State :=
  s.updVdev v (fun d => { d with tgen := (p, (s.tgenOf v p + 1) % 2 ^ 32) :: d.tgen.filter (fun t => t.1 != p) })

/-- SHDW.rel: waits for pending PUBLs and SH = 1 writes; at an odd generation the frames are exchanged and a sync point passes; the
buffer is removed (R416). The sync point's wait for the accesses under the older TGEN (R173) comes first here: the exchange is made once none is on its
way. -/
def execShdwRel (o : SlotOps) (s : State) : Host.Outcome State Fault Refusal :=
  s.runFiring o (fun c =>
    let sc := scopeEff o
    let vb64 := laneAt c.atok.pay 64 0
    let v := s.vdOf c.br.rid
    let p := ((s.bent? c.br).map (·.pkg)).getD { px := 0, py := 0 }
    if !canonVa (BitVec.ofNat 64 vb64) then .next (s.fault c { cause := .vaCanon, addr := vb64, wr := true })
    else match ((s.vdev? v).bind (fun d => d.shadows.find? (·.vbase == vb64 % 2 ^ 55))) with
      | none => .next (s.fault c { cause := .shadowNone, addr := vb64, wr := true })
      | some b =>
        if s.shPending v b s.nextId || s.reqs.any (fun q => q.kind == .publ && q.vdr == v && b.holds q.va && q.stage.before) ||
            (b.g % 2 = 1 && !(s.syncWaits p v).isEmpty)
        then s.wait
        else
          let n := b.len / 2 ^ 16
          let t := if b.g % 2 = 1 then
              (((List.zip (s.leavesOf p v b.vbase n) (s.leavesOf p v b.sbase n)).foldl (fun t x => t.swapFrames p x.1 x.2) s).raiseTgen v p)
            else s
          let t := t.updVdev v (fun d => { d with shadows := d.shadows.filter (·.vbase != b.vbase) })
          .next ((t.warnAs c ((prEff o).2 ||| tilehd c ||| sc.2 ||| memMod o 6 ||| rsvx (o.xf 0 20 != 0))).emit2 c o c.atok.plain))

/-- BARW: passes A on when B has come too; it counts in DEPCOUNT (R254, R313). -/
def execBarw (o : SlotOps) (s : State) : Host.Outcome State Fault Refusal :=
  s.runFiring o (fun c =>
    .next (((s.deprecate c.br.rid).warnAs c ((prEff o).2 ||| tilehd c ||| rsvx (o.x != 0))).emit2 c o c.atok.plain))

end Sys2Proof.Machine
end

