-- ==== Sys2Proof/Machine/Stat.lean ====
section
/-! DEFINITION. The statistics network (R134 to R136): statistics tokens, their merge, STAD and STSNK (R422, R423). -/

namespace Sys2Proof.Machine

open Sys2Proof

/-- The counts of a statistics token (R134). MAXE is signed. -/
structure Counts where
  nanc : Nat
  satc : Nat
  ufc : Nat
  badc : Nat
  maxe : Int
  tiles : Nat
deriving DecidableEq, Repr

/-- Counts of nothing. -/
def Counts.zero : Counts := { nanc := 0, satc := 0, ufc := 0, badc := 0, maxe := -0x8000, tiles := 0 }

/-- The counts of a payload (R134). -/
def Counts.ofPay (x : W256) : Counts where
  nanc := laneAt x 32 0
  satc := laneAt x 32 1
  ufc := laneAt x 32 2
  badc := laneAt x 32 3
  maxe := (BitVec.ofNat 16 (laneAt x 16 8)).toInt
  tiles := x.toNat / 2 ^ 144 % 2 ^ 32

/-- The payload of counts (R134). -/
def Counts.pay (c : Counts) : W256 :=
  BitVec.ofNat 256 (c.nanc % 2 ^ 32 + (c.satc % 2 ^ 32) * 2 ^ 32 + (c.ufc % 2 ^ 32) * 2 ^ 64 + (c.badc % 2 ^ 32) * 2 ^ 96 +
    (BitVec.ofInt 16 c.maxe).toNat * 2 ^ 128 + (c.tiles % 2 ^ 32) * 2 ^ 144)

/-- A saturating sum of counts (R136). -/
def sat32 (a b : Nat) : Nat := Nat.min (a + b) 0xFFFFFFFF

/-- The merge of two counts (R136). -/
def Counts.merge (a b : Counts) : Counts where
  nanc := sat32 a.nanc b.nanc
  satc := sat32 a.satc b.satc
  ufc := sat32 a.ufc b.ufc
  badc := sat32 a.badc b.badc
  maxe := if a.maxe < b.maxe then b.maxe else a.maxe
  tiles := sat32 a.tiles b.tiles

/-- Delivers a statistics token to a STAD or STSNK over the Fumarole (R134). -/
def State.fumarole (s : State) (rid blk slot : Nat) (tag : Tag) (c : Counts) : State :=
  match s.block? rid blk with
  | some b => s.intoLink rid 0 { bent := b.bent, blk := blk, slot := slot, port := .a } (vectorTok tag c.pay)
  | none => s

/-- A converter's statistics token, along its route; a converter with no route emits nothing (R134). -/
def State.converterStat (s : State) (rid blk slot : Nat) (tag : Tag) (c : Counts) : State :=
  match s.raising? rid with
  | some r => (r.stats.filter (fun x => x.1 == blk && x.2.1 == slot)).foldl (fun s x => s.fumarole rid x.2.2.1 x.2.2.2 tag c) s
  | none => s

/-- The statistics row of a slot. -/
def Elem.statOf (e : Elem) (blk slot : Nat) : Option StatRow := e.stats.find? (fun r => r.blk == blk && r.slot == slot)

/-- Forwards a STAD's merge to T0 and starts afresh (R422). -/
def State.stadForward (s : State) (c : Ctx) (o : SlotOps) (r : StatRow) : State :=
  let s := (s.updElemOf c (fun e => { e with stats := e.stats.filter (fun x => !(x.blk == r.blk && x.slot == r.slot)) })).raiseWarn c.br c.u r.warn
  (s.dests c o.t0).foldl (fun s d => s.fumarole c.br.rid d.blk d.slot r.tag (Counts.ofPay r.pay)) s

/-- STAD: merges arrivals and forwards after the Nth (R136, R422). -/
def execStad (o : SlotOps) (s : State) : Host.Outcome State Fault Refusal :=
  s.runFiring o (fun c =>
    match s.elemOf c with
    | none => .next s
    | some e =>
      let old := (e.statOf c.blk c.slot).getD
        { blk := c.blk, slot := c.slot, count := 0, pay := Counts.zero.pay, tag := c.tag, a := none, frozen := false, warn := 0 }
      let r : StatRow := { old with count := old.count + 1, tag := c.tag,
                                    pay := ((Counts.ofPay old.pay).merge (Counts.ofPay c.atok.pay)).pay,
                                    warn := old.warn ||| (prEff o).2 ||| tilehd c ||| rsvx (o.xf 10 19 != 0) }
      if r.count = o.xf 0 10 + 1 then .next (s.stadForward c o r)
      else .next (s.updElemOf c (fun e =>
        { e with stats := e.stats.filter (fun x => !(x.blk == c.blk && x.slot == c.slot)) ++ [r] })))

/-- STSNK: takes a token for its update; while one is frozen, later tokens wait (R423). -/
def execStsnk (o : SlotOps) (s : State) : Host.Outcome State Fault Refusal :=
  s.runFiring o (fun c =>
    match s.elemOf c with
    | none => .next s
    | some e =>
      if e.stats.any (fun x => x.blk == c.blk && x.slot == c.slot && x.frozen) then s.wait
      else
        .next (s.updElemOf c (fun e => { e with stats := e.stats ++
          [{ blk := c.blk, slot := c.slot, count := 0, pay := c.atok.pay, tag := c.tag, a := c.a, frozen := false,
             warn := (prEff o).2 ||| tilehd c ||| rsvx (o.xf 17 12 != 0) }] })))

/-- STSNK_UPDATE: the first token of a STSNK is merged into its record in one event (R136, R423). -/
def execStsnkUpdate (br : BentRef) (cx cy blk slot : Nat) (s : State) : Host.Outcome State Fault Refusal :=
  if !s.bentLive br then .next s else
  match s.bent? br, s.elem? br cx cy with
  | some b, some e =>
    match e.statOf blk slot with
    | some r =>
      let o := s.opsAt br.rid blk slot
      let c : Ctx := { br := br, u := .elem cx cy, blk := blk, slot := slot, tag := r.tag, a := r.a, b := none, p := none }
      let a := (s.constAt c (o.xf 0 16)).toNat
      let x : Access := { br := br, spad := b.cell cx cy, loc := o.x.getLsbD 16, need := needBoth, sh := false, gens := [],
                          tile := false, owner := 0 }
      let drop := fun (s : State) => s.updElem br cx cy (fun e => { e with stats := e.stats.erase r })
      let frz := fun (s : State) (i : FaultInfo) =>
        ((s.updElem br cx cy (fun e => { e with stats := updIf e.stats (· == r) (fun r => { r with frozen := true }) })).workFault br
          (.elem cx cy) (UnitLoc.elem cx cy).place blk slot r.tag 0 { i with wr := true }).eccFreeze br cx cy i
      if slotOpc ((s.slot? br.rid blk slot).elim 0 (·.word)) ≠ 0xAD ∨ r.frozen then .next s
      else if a % 32 ≠ 0 then .next (frz s { cause := .misaligned, addr := a })
      else
        let addrs := (List.range 32).map (a + ·)
        match s.engineLoad x e.own addrs with
        | .waits => .next s
        | .bad i wins t => .next (frz (t.updElem br cx cy (fun e => { e with own := wins })) i)
        | .ok bs wins t =>
          let old := natOfBytes bs
          let new := ((Counts.ofPay (BitVec.ofNat 256 old)).merge (Counts.ofPay r.pay)).pay.toNat + old / 2 ^ 176 * 2 ^ 176
          match t.engineStore x wins addrs (bytesOf 32 new) with
          | .ok _ wins t => .next ((((drop (t.updElem br cx cy (fun e => { e with own := wins }))).raiseWarn br c.u r.warn).updBent br
              (fun b => b.clearFrozen (.elem cx cy) blk slot r.tag)).chargeAccesses br.rid 1)
          | .bad i wins t => .next (frz (t.updElem br cx cy (fun e => { e with own := wins })) i)
          | .waits => .next s
    | none => .next s
  | _, _ => .next s

/-- Forwards the remainder of every STAD of a bent, at a drain and when its phase quiesces (R136, R422). -/
def State.stadFlush (s : State) (br : BentRef) : State :=
  match s.bent? br with
  | some b => b.elems.foldl (fun s e => e.stats.foldl (fun s r =>
      if slotOpc ((s.slot? br.rid r.blk r.slot).elim 0 (·.word)) = 0xAC ∧ r.count ≠ 0 then
        s.stadForward { br := br, u := .elem e.cx e.cy, blk := r.blk, slot := r.slot, tag := r.tag, a := none, b := none, p := none }
          (s.opsAt br.rid r.blk r.slot) r
      else s) s) s
  | none => s

end Sys2Proof.Machine
end

