-- ==== Sys2Proof/Machine/StreamOps.lean ====
section
/-! DEFINITION. Streams, gathers and scatters (R73 to R81, R326, R350, R351, R411, R412, R418, R419, R426, R427). -/

namespace Sys2Proof.Machine

open Sys2Proof

/-! ## What streams share -/

/-- The descriptor of a firing. -/
def State.ctxDesc (s : State) (c : Ctx) (o : SlotOps) : Desc := s.descAt c.br.rid c.blk (o.xf 0 20)

/-- Whether a base is a local address of KIND 10, which no engine may walk (R69). -/
def ringBase (d : Desc) (base : Nat) : Bool := d.loc && base / 2 ^ 38 % 4 == 2

/-- The generations that a read of addresses takes as it starts, of every shadowed buffer that it touches; a local read touches none (R101). -/
def State.genNow (s : State) (v : VdRef) (d : Desc) (addrs : List Nat) : List (Nat × Nat) := if d.loc then [] else s.gensNow v addrs

/-- An AG's accesses for a stream, through the AG's windows (R179) and behind its accesses that fired before a number (R91). -/
def State.agAccess (s : State) (br : BentRef) (e : Elem) (d : Desc) (need : Need) (sh : Bool) (gens : List (Nat × Nat)) (tile : Bool)
    (owner since : Nat) : Access :=
  { br := br, spad := ((s.bent? br).map (fun b => b.cell e.cx e.cy)).getD { pkg := { px := 0, py := 0 }, x := 0, y := 0 }, loc := d.loc,
    need := need, sh := sh, gens := gens, tile := tile, owner := owner, ag := some (e.cx, e.cy), since := since }

/-- A stream with its next position brought up to date: the first that is neither done, held nor parked; of CSRD, the first pointer not read. -/
def Stream.settle (x : Stream) : Stream :=
  let from_ := if x.kind = .swr then x.next else x.emit
  let taken := fun (j : Nat) => x.done.contains j || x.held.any (·.j == j) || x.parked.contains j
  let taken := if x.kind = .csrd then (fun (j : Nat) => x.ptrs.any (·.1 == j)) else taken
  let span := x.done.length + x.held.length + x.parked.length + x.ptrs.length + 1
  let n := from_ + ((List.range span).find? (fun i => !taken (from_ + i))).getD 0
  { x with next := n, done := if x.kind = .swr then x.done.filter (fun j => n ≤ j) else x.done, ptrs := x.ptrs.filter (fun p => x.emit ≤ p.1),
           spilled := x.spilled.filter (x.parked.contains ·) }

/-- Changes a stream of an element. -/
def State.updStream (s : State) (br : BentRef) (cx cy id : Nat) (f : Stream → Stream) : State :=
  s.updElem br cx cy (fun e => { e with streams := updIf e.streams (·.id == id) (fun x => (f x).settle) })

/-- Ends a stream. -/
def State.dropStream (s : State) (br : BentRef) (cx cy id : Nat) : State :=
  s.updElem br cx cy (fun e => { e with streams := e.streams.filter (·.id != id) })

/-- The firing of a stream's slot under a tag. -/
def Stream.ctx (x : Stream) (br : BentRef) (cx cy : Nat) (tag : Tag) : Ctx :=
  { br := br, u := .elem cx cy, blk := x.blk, slot := x.slot, tag := tag, a := none, b := none, p := none }

/-- A new stream of a firing. The A token that SWR passes on keeps its shape where its descriptor sets TL (R25, R427). -/
def State.openStream (s : State) (c : Ctx) (kind : StreamKind) (base count : Nat) (gens : List (Nat × Nat)) (warn : BitVec 30) : State :=
  let tl := kind == .swr && (s.ctxDesc c (s.opsAt c.br.rid c.blk c.slot)).tl
  let atok := if tl then c.atok else c.atok.plain
  let (id, s) := s.newId
  let x : Stream := { id := id, kind := kind, blk := c.blk, slot := c.slot, tag := c.tag, atok := atok, base := base, next := 0,
                      emit := 0, count := count, held := [], parked := [], done := [], spilled := [], gens := gens, ptrs := [], stalled := false,
                      badrows := 0, warn := warn }
  s.updElemOf c (fun e => { e with streams := e.streams ++ [x] })

/-- The bytes of 32-byte tokens, the last zero-filled (R419). -/
def tokensOf (bs : List Byte) : List W256 :=
  (List.range ((bs.length + 31) / 32)).map (fun i => BitVec.ofNat 256 (natOfBytes ((bs.drop (32 * i)).take 32)))

/-! ## SRD and CSRD (R75, R80, R326, R418, R419) -/

/-- Every address that a reading stream reads. -/
def readAddrs (kind : StreamKind) (d : Desc) (base count : Nat) : List Nat :=
  if kind = .csrd then (List.range ((count + 1) * d.es)).map (fun b => (base + b) % 2 ^ 64) else d.walkAddrs base

/-- Starts a reading stream: at most eight of an AG; a local base of KIND 10 is LA_PERM (R69, R419). -/
def State.readStream (s : State) (o : SlotOps) (kind : StreamKind) : Host.Outcome State Fault Refusal :=
  s.runFiring o (fun c =>
    match s.elemOf c with
    | none => .next s
    | some e =>
      let d := s.ctxDesc c o
      let base := (d.base + laneAt c.atok.pay 64 0) % 2 ^ 64
      let count := if kind = .csrd then d.ext.headD 0 else d.units
      if ringBase d base then .next (s.fault c { cause := .laPerm, addr := base })
      else if 8 ≤ e.streams.length then s.wait
      else .next (s.openStream c kind base count (s.genNow (s.vdOf c.br.rid) d (readAddrs kind d base count))
        ((prEff o).2 ||| tilehd c ||| (scopeEff o).2 ||| memMod o 7)))

/-- SRD (R75, R418, R419). -/
def execSrd (o : SlotOps) (s : State) : Host.Outcome State Fault Refusal := s.readStream o .srd

/-- CSRD (R80, R326). -/
def execCsrd (o : SlotOps) (s : State) : Host.Outcome State Fault Refusal := s.readStream o .csrd

/-- The token of a stream's unit (R75, R419): a vector of 32 bytes, or a burst whose head holds the tile's scales. -/
def unitTok (d : Desc) (tag : Tag) (bs scales : List Byte) : Token :=
  if d.tl then
    { pay := BitVec.ofNat 256 (natOfBytes scales), tag := tag, shape := .tileHead,
      seq := if scales.isEmpty || d.fmt < 0xC then d.fmt else d.fmt + 16 * (scales.length - 1), body := tokensOf bs }
  else vectorTok tag (BitVec.ofNat 256 (natOfBytes bs))

/-- The row token of CSRD (R80, R81), and whether the row is bad. -/
def rowTok (tag : Tag) (j p q : Nat) : Token × Bool :=
  let badRow := q < p
  let len := if badRow then 0 else q - p
  (vectorTok tag (BitVec.ofNat 256 (p + len * 2 ^ 64 + (j % 2 ^ 32) * 2 ^ 128 + (if badRow then 2 ^ 160 else 0))), badRow)

/-- Emits the tokens of a stream that are due in j order, and the end token after the last (R75, R80). -/
def State.flushStream (s : State) (br : BentRef) (cx cy id : Nat) : Nat → State
  | 0 => s
  | n + 1 =>
    match (s.elem? br cx cy).bind (fun e => e.streams.find? (·.id == id)) with
    | none => s
    | some x =>
      let o := s.opsAt br.rid x.blk x.slot
      if x.count ≤ x.emit then
        let c := x.ctx br cx cy x.tag
        let s := s.dropStream br cx cy id
        let s := if x.kind = .csrd then
            s.converterStat br.rid x.blk x.slot x.tag { Counts.zero with badc := Nat.min x.badrows 0xFFFFFFFF, tiles := 1 }
          else s
        (s.raiseWarn br c.u x.warn).emit c o.t1 (scalarTok x.tag x.count)
      else
        match x.held.find? (·.j == x.emit) with
        | some h =>
          let s := s.updStream br cx cy id (fun x => { x with emit := x.emit + 1, held := x.held.filter (·.j != h.j) })
          let s := s.raiseWarn br (.elem cx cy) (x.warn ||| (if x.kind = .csrd && h.tok.pay.getLsbD 160 then warnBit 25 else 0))
          (s.emit (x.ctx br cx cy h.tok.tag) o.t0 h.tok).flushStream br cx cy id n
        | none => if x.done.contains x.emit then
            (s.updStream br cx cy id (fun x => { x with emit := x.emit + 1, done := setDel x.done x.emit })).flushStream br cx cy id n
          else s

/-- One element of a reading stream has been read: it leaves at once in TAGGED mode, else in j order (R75). -/
def State.streamGot (s : State) (br : BentRef) (cx cy : Nat) (x : Stream) (tagged : Bool) (j : Nat) (t : Token) : State :=
  let s := (s.updBent br (fun b => b.clearFrozen (.elem cx cy) x.blk x.slot t.tag)).chargeAccesses br.rid 1
  let o := s.opsAt br.rid x.blk x.slot
  if tagged then
    let s := s.updStream br cx cy x.id (fun x => { x with done := setIns x.done j, parked := setDel x.parked j })
    (((s.raiseWarn br (.elem cx cy) x.warn).emit (x.ctx br cx cy t.tag) o.t0 t)).flushStream br cx cy x.id 4096
  else
    (s.updStream br cx cy x.id (fun x => { x with held := x.held ++ [{ j := j, tok := t }], parked := setDel x.parked j })).flushStream br cx cy x.id 4096

/-- A pointer of a CSRD has been read, once; the rows that it completes are held for their turn (R80, R81). -/
def State.pointerGot (s : State) (br : BentRef) (cx cy : Nat) (x : Stream) (k v : Nat) : State :=
  let ptrs := x.ptrs ++ [(k, v)]
  let at_ := fun (i : Nat) => (ptrs.find? (·.1 == i)).map (·.2)
  let row := fun (j : Nat) => if j < x.emit ∨ x.count ≤ j then none else match at_ j, at_ (j + 1) with
    | some p, some q => some (j, rowTok (x.tag.adv j) j p q)
    | _, _ => none
  let rows := ((if k = 0 then [] else [k - 1]) ++ [k]).filterMap row
  let s := (s.updBent br (fun b => b.clearFrozen (.elem cx cy) x.blk x.slot (x.tag.adv k))).chargeAccesses br.rid 1
  let s := s.updStream br cx cy x.id (fun y => { y with ptrs := ptrs, held := y.held ++ rows.map (fun r => { j := r.1, tok := r.2.1 }),
                                                        badrows := y.badrows + (rows.filter (·.2.2)).length })
  s.flushStream br cx cy x.id 4096

/-- A stream meets a fault at a position: in TAGGED mode the position is parked, in a row or, with none free, in the spill area; otherwise the
stream stalls (R179). An uncorrectable error freezes the element as well (R186, R188). -/
def State.streamFault (s : State) (br : BentRef) (cx cy : Nat) (x : Stream) (tagged : Bool) (j : Nat) (i : FaultInfo) : State :=
  let full := s.quotaOf br ≤ s.rowsUsed br (.elem cx cy)
  let tag := x.tag.adv j
  let s := s.updStream br cx cy x.id (fun x => { x with parked := setIns x.parked j, stalled := x.stalled || !tagged })
  let s := if tagged && full then s.spillPark br cx cy x.blk x.slot x.id j tag else s
  (s.workFault br (.elem cx cy) (UnitLoc.elem cx cy).place x.blk x.slot tag x.id { i with j := j, park := tagged }).eccFreeze br cx cy i

/-- STREAM_ELEMENT: element j of an SRD, or pointer j of a CSRD, is read (R75, R80); at most 256 beyond the oldest not yet emitted. A fault parks
it in TAGGED mode and stalls the stream otherwise (R179). -/
def execStreamElement (br : BentRef) (cx cy : Nat) (id j : Nat) (s : State) : Host.Outcome State Fault Refusal :=
  if !s.bentLive br then .next s else
  match s.elem? br cx cy with
  | none => .next s
  | some e =>
    match e.streams.find? (·.id == id) with
    | none => .next s
    | some x =>
      let d := s.streamDesc br.rid x
      let csrd := x.kind == .csrd
      let tagged := d.tagged && x.kind == .srd
      let last := if csrd then x.count + 1 else x.count
      if x.kind = .swr ∨ e.eccFrozen ∨ x.stalled then .next s
      else if x.count = 0 then .next (s.flushStream br cx cy id 1)
      else if last ≤ j ∨ j < x.emit ∨ x.emit + 256 < j + 1 ∨ x.done.contains j ∨ x.held.any (fun h => !csrd && h.j == j) ∨ x.parked.contains j ∨
          x.ptrs.any (·.1 == j) then .next s
      else
        let acc := s.agAccess br e d needRd false x.gens (d.tl && !csrd) x.id x.id
        let addrs := if csrd then x.ptrAddrs d j else x.srdAddrs d j
        let scored := d.loc && (match s.locateAll acc [] addrs with
          | (.ok l, _, _) => l.any (fun g => s.scored br cx cy g.1 1)
          | _ => false)
        if scored then .next s
        else match s.engineLoad acc [] addrs with
        | .waits => .next s
        | .bad i _ t => .next (t.streamFault br cx cy x tagged j i)
        | .ok bs _ t =>
          if csrd then .next (t.pointerGot br cx cy x j (natOfBytes bs))
          else
            let n := (d.unitAddrs x.base j).length
            .next (t.streamGot br cx cy x tagged j (unitTok d (x.tag.adv j) (bs.take n) (bs.drop n)))

/-! ## SWR (R76, R426, R427) -/

/-- The open SWR stream of a slot and context. -/
def Elem.swrOf (e : Elem) (blk slot ctx : Nat) : Option Stream :=
  e.streams.find? (fun x => x.kind == .swr && x.blk == blk && x.slot == slot && x.tag.ctx == ctx)

/-- Where a B token of an open SWR stands: at a position to write, too far ahead, or at none that is to be written. -/
inductive SwrAt where
  | here (j : Nat)
  | ahead
  | over_ (j : Nat)
deriving DecidableEq, Repr

/-- The position that the iteration of a B token names in an open SWR (R427): its distance from the A token's iteration, and in a walk of more than
4,096 units its distance from the first position not done. A position already written is no position to write: R76 and R427 name an overrun
for a finished walk and a distance of P or more, and the model takes a second token of one position as one too (log 88). -/
def Stream.swrAt (x : Stream) (iter : Nat) : SwrAt :=
  let first := if x.count ≤ 4096 then 0 else x.next
  let j := first + (iter + 8192 - (x.tag.iter + first) % 4096) % 4096
  if x.count ≤ j || j < x.next || x.done.contains j then .over_ j
  else if x.next + 256 ≤ j then .ahead else .here j

/-- A position of an SWR stream is done; after the last, SWR emits its A token (R76, R427). -/
def State.swrDone (s : State) (c : Ctx) (o : SlotOps) (x : Stream) (j : Nat) : State :=
  match c.u with
  | .elem cx cy =>
    if x.count ≤ { x with done := setIns x.done j }.settle.next then
      ((s.dropStream c.br cx cy x.id).raiseWarn c.br c.u x.warn).emit2 (x.ctx c.br cx cy x.tag) o x.atok
    else s.updStream c.br cx cy x.id (fun x => { x with done := setIns x.done j })
  | .station _ _ => s

/-- The bytes that a B token of SWR writes: its elements, of which a scalar fills every one (R26), or its burst's body and its head's scales (R427). -/
def swrBytes (d : Desc) (t : Token) (n ns : Nat) : List Byte :=
  if d.tl then
    ((t.body.flatMap (fun (w : W256) => bytesOf 32 w.toNat)) ++ List.replicate n 0).take n ++ bytesOf ns t.pay.toNat
  else bytesOf n (packLanes d.eb (t.plain.lanes d.eb (256 / d.eb)))

/-- SWR: an A token opens a stream for its context; a B token is written at its position (R76, R427). -/
def execSwr (o : SlotOps) (s : State) : Host.Outcome State Fault Refusal :=
  match s.firing? with
  | none => .fault .notLatched
  | some c =>
    match s.elemOf c with
    | none => .next s
    | some e =>
      let d := s.ctxDesc c o
      let fc := fireCase (prEff o).1 c
      let warn := (prEff o).2 ||| (scopeEff o).2 ||| memMod o 7 ||| (if d.tl then 0 else tilehd c)
      match c.a with
      | some _ =>
        match fc with
        | .nullPass => .next (s.emit2 c o (nullTok c.tag))
        | .off => .next s
        | .run =>
          let base := (d.base + laneAt c.atok.pay 64 0) % 2 ^ 64
          if ringBase d base then .next (s.fault c { cause := .laPerm, addr := base, wr := true })
          else if (e.swrOf c.blk c.slot c.tag.ctx).isSome || 8 ≤ e.streams.length then s.wait
          else .next (s.openStream c .swr base d.units [] warn)
      | none =>
        match e.swrOf c.blk c.slot c.tag.ctx with
        | none => .next (s.fault c { cause := .streamOverrun })
        | some x =>
          match x.swrAt c.tag.iter with
          | .ahead => s.wait
          | .over_ j => .next (s.fault c { cause := .streamOverrun, j := j })
          | .here j =>
            let addrs := d.unitAddrs x.base j
            let sc := if d.tl then d.scaleAddrs j else []
            if fc ≠ .run then .next (s.swrDone c o x j)
            else if d.sh && !d.loc && s.shWaits (s.vdOf c.br.rid) (addrs ++ sc) then s.wait
            else
              let acc := s.agAccess c.br e d needWr d.sh [] d.tl x.id s.nextId
              match s.engineStore acc [] (addrs ++ sc) (swrBytes d c.btok addrs.length sc.length) with
              | .waits => s.wait
              | .bad i _ t => .next ((t.fault c { i with wr := true, j := j, park := true }).eccFreeze c.br e.cx e.cy i)
              | .ok _ _ t =>
                let t := (t.updBent c.br (fun b => b.clearFrozen c.u c.blk c.slot c.tag)).chargeAccesses c.br.rid 1
                .next ((t.updStream c.br e.cx e.cy x.id (fun x => { x with warn := x.warn ||| warn })).swrDone c o { x with warn := x.warn ||| warn } j)

/-! ## GATH (R77, R350, R351) -/

/-- The home on another die that a lane of a GATH leads to, by the entries as they stand: the first such lane's, if there is one (R351). -/
def State.gathFar (s : State) (r : Req) : Option (CellId × FUnit) :=
  (s.gathAddrs r).findSome? (fun a =>
    let va := s.visibleVa r.vdr (a % 2 ^ 55) []
    match s.walkEnd r.target r.vdr va needRd with
    | .ok w => let h := homeOf (w.ga r.target va); if crossesTo (s.reqCell r) h then some h else none
    | .bad _ => none)

/-- Issues a GATH: to the vent port at once, or, where a lane lies on another die, as a request to a vent port there, whose reply comes back on VC 2
(R77, R202, R351; log 9). -/
def State.sendGath (s : State) (r : Req) : Went :=
  match s.gathFar r with
  | none => .done (s.putReq { r with stage := .home })
  | some h => s.sendReq r (dieCell h.1.pkg h.1.die) (.vent 0)

/-- GATH: a request for all its lanes at once; at most 64 of an AG (R351). -/
def execGath (o : SlotOps) (s : State) : Host.Outcome State Fault Refusal :=
  s.runFiring o (fun c =>
    let d := s.ctxDesc c o
    let off := match c.b with
      | some b => laneAt b.tok.pay 64 0
      | none => 0
    let base := (d.base + off) % 2 ^ 64
    let r := { Req.make s c .gath base 1 d.fmt with
               data := c.atok.plain.pay, warn := (prEff o).2 ||| tilehd c ||| (scopeEff o).2 ||| memMod o 7 }
    if 64 ≤ (s.reqs.filter (fun q => q.kind == .gath && q.br == r.br && q.cx == r.cx && q.cy == r.cy)).length then s.wait
    else s.begun r (s.sendGath r))

/-- The vent port nearest the stack that homes a page: the first of the four beside the stack (R77; log 9). Of a page that no HBM4 stack of the
package homes, or that no walk finds, R77 names no port; the model takes port 0 (log 9). -/
def State.ventPort (s : State) (p : Pkg) (v : VdRef) (va : Nat) : Nat :=
  match s.walkEnd p v (va % 2 ^ 55) needRd with
  | .ok w => match regionOf (gaPhys (w.ga p (va % 2 ^ 55))) with
    | .hbm k => 4 * k
    | _ => 0
  | .bad _ => 0

/-- The windows of a vent port for a virtual device (R179). -/
def State.ventWinsOf (s : State) (p : Pkg) (port : Nat) (v : VdRef) : List Window :=
  ((s.ventWins.find? (fun w => w.pkg == p && w.port == port && w.vdr == v)).map (·.wins)).getD []

/-- Sets the windows of a vent port for a virtual device. -/
def State.setVent (s : State) (p : Pkg) (port : Nat) (v : VdRef) (wins : List Window) : State :=
  { s with ventWins := s.ventWins.filter (fun w => !(w.pkg == p && w.port == port && w.vdr == v)) ++
      [({ pkg := p, port := port, vdr := v, wins := wins } : VentWin)] }

/-- Where a fault of a vent port's work for an AG stands in its record (R187). -/
def ventPlace (cx cy : Nat) : FaultPlace := { ecx := cx / 4 * 4, ecy := cy / 4 * 4, eng := true, unit := 2 }

/-- A fault of a vent port withholds the whole token under its tag; the operands wait for the replay (R179, R351). -/
def State.ventFault (s : State) (r : Req) (i : FaultInfo) : State :=
  let c := r.ctx
  let s := r.space.elim s (fun sp => s.release sp r.seq)
  let s := (s.dropReq r.id).keepOperands c true
  s.workFault c.br c.u (ventPlace r.cx r.cy) c.blk c.slot c.tag r.id i

/-- GATH at the vent port: every lane is read, or the whole token is withheld (R77, R351); `data2` notes an index outside the table, which sets GRANGE
as the token is emitted (R294). None where it waits. -/
def State.homeGath (s : State) (r : Req) : Option State :=
  match s.bent? r.br with
  | none => some (s.dropReq r.id)
  | some b =>
    let o := s.reqOps r
    let d := s.descAt r.br.rid r.blk (o.xf 0 20)
    let v := r.vdr
    let port := s.ventPort b.pkg v d.base
    let scalar := r.ctx.atok.isScalar
    let n := if scalar then 1 else Nat.min (32 / idxBytes d.idx) (32 / d.es)
    let idx := (List.range n).map (idxLane d.idx r.data)
    let good := fun (i : Int) => 0 ≤ i && i < Int.ofNat (d.ext.headD 0)
    let acc : Access := { br := r.br, spad := b.cell r.cx r.cy, loc := false, need := needRd, sh := false, gens := [], tile := false, owner := r.id }
    let addrs := s.gathAddrs r
    let homes := match s.locateAll acc [] addrs with
      | (.ok l, _, _) => l
      | _ => []
    if s.orderBehind r.br r.cx r.cy r.id false false addrs homes then none
    else match s.engineLoad acc (s.ventWinsOf b.pkg port v) addrs with
    | .waits => none
    | .bad i wins t => some ((t.setVent b.pkg port v wins).ventFault r i)
    | .ok bs wins t =>
      let vals := idx.foldl (fun (acc : List Nat × List Byte) i =>
        if good i then (acc.1 ++ [natOfBytes (acc.2.take d.es)], acc.2.drop d.es) else (acc.1 ++ [0], acc.2)) ([], bs)
      let t := ((t.setVent b.pkg port v wins).updBent r.br (fun b => b.clearFrozen r.ctx.u r.blk r.slot r.tag)).chargeAccesses r.br.rid
        (idx.filter good).length
      some (t.answer { r with data2 := if idx.all good then 0 else 1 } (.val (BitVec.ofNat 256 (packLanes d.eb vals.1))))

/-! ## SCAT (R78, R79, R411, R412) -/

/-- The SCAT state of a slot and context. -/
def Elem.scatOf (e : Elem) (blk slot ctx : Nat) : ScatCtx :=
  (e.scat.find? (fun x => x.blk == blk && x.slot == slot && x.ctx == ctx)).getD
    { blk := blk, slot := slot, ctx := ctx, total := 0, batch := [], warn := 0 }

/-- Sets the SCAT state of a slot and context; an empty one is not kept. -/
def Elem.setScat (e : Elem) (x : ScatCtx) : Elem :=
  let rest := e.scat.filter (fun y => !(y.blk == x.blk && y.slot == x.slot && y.ctx == x.ctx))
  { e with scat := if x.total = 0 && x.batch.isEmpty then rest else rest ++ [x] }

/-- Adds elements to a context's stream; each full batch closes, and the last closes at EXT1 elements (R78, R412). R78 bounds EXT0 by 65,536 and
states no consequence of a larger one; the model closes batches after that many elements all the same (log 89). -/
def scatTake (d : Desc) : List (Int × Nat) → ScatCtx → List (List ScatElem) → ScatCtx × List (List ScatElem)
  | [], x, out => (x, out)
  | (i, v) :: rest, x, out =>
    let x := { x with total := x.total + 1, batch := x.batch ++ [{ pos := x.total, idx := i, val := v }] }
    let last := x.total == d.ext.getD 1 0
    if last || x.batch.length == d.ext.headD 0 then
      scatTake d rest { x with batch := [], total := if last then 0 else x.total } (out ++ [x.batch])
    else scatTake d rest x out

/-- SCAT: numbers the pair's elements and closes batches (R78, R411, R412). -/
def execScat (o : SlotOps) (s : State) : Host.Outcome State Fault Refusal :=
  s.runFiring o (fun c =>
    match s.elemOf c with
    | none => .next s
    | some e =>
      let d := s.ctxDesc c o
      let n := if c.atok.isScalar then 1 else Nat.min (32 / idxBytes d.idx) (laneCount d.fmt)
      let vals := c.btok.plain.lanes d.eb (laneCount d.fmt)
      let pairs := (List.range n).map (fun l => (idxLane d.idx c.atok.plain.pay l, vals.getD l 0))
      let old := e.scatOf c.blk c.slot c.tag.ctx
      let warn := (prEff o).2 ||| tilehd c ||| (scopeEff o).2 ||| memMod o 7
      let r := scatTake d pairs old []
      let held := if r.1.batch.isEmpty then 0 else if r.2.isEmpty then old.warn ||| warn else warn
      let s := s.updElemOf c (fun e => e.setScat { r.1 with warn := held })
      let mode := BitVec.ofNat 3 (rndOf (BitVec.ofNat 3 d.rm) (((s.bent? c.br).map (·.engRmode)).getD 0)).1.code
      .next ((r.2.foldl (fun (sw : State × BitVec 30) es =>
        let (id, s) := sw.1.newId
        (s.updElemOf c (fun e => { e with batches := e.batches ++
          [{ id := id, blk := c.blk, slot := c.slot, tag := c.tag, base := d.base, elems := es, rnd := mode, warn := warn ||| sw.2,
             pos := 0, frozen := false }] }), 0)) (s, old.warn)).1))

/-- The operation number of a SCAT combine in the numbering of CMB (R54, R73). -/
def copOp (cop : Nat) : Nat := cop - 1

/-- The table extent for the range check (R78). -/
def Desc.tableExt (d : Desc) : Nat := if d.nd1 = 0 then 2 ^ 32 - 1 else (d.str.headD 0).toNat / d.es

/-- The new value of a word under a segment, with the rounding mode that the batch took, and its flags (R78). -/
def segValue (d : Desc) (m : Rnd) (old : Nat) (vs : List Nat) : Nat × BitVec 8 :=
  if d.cop = 0 then (vs.getLast?.getD 0, 0)
  else
    let f := redNode (copOp d.cop) d.fmt m
    let z := canon f (vs.map some)
    match z.1 with
    | some v => ((f old v).1, z.2 ||| (f old v).2)
    | none => (old, z.2)

/-- Changes a batch. -/
def State.updBatch (s : State) (br : BentRef) (cx cy id : Nat) (f : ScatBatch → ScatBatch) : State :=
  s.updElem br cx cy (fun e => { e with batches := updIf e.batches (·.id == id) f })

/-- Whether a scatter index lies outside the table (R78). -/
def Desc.offTable (d : Desc) (i : Int) : Bool := i < 0 || Int.ofNat d.tableExt ≤ i

/-- A segment of a batch is done; after the last the count token leaves (R78, R412). As it emits, an FADD whose RM is 110 or 111 sets RNDILL in the
bent's engine word, and an index outside the table SRANGE (R124, R294). -/
def State.segDone (s : State) (br : BentRef) (cx cy : Nat) (x : ScatBatch) (n : Nat) : State :=
  if n ≤ x.pos + 1 then
    let s := s.updElem br cx cy (fun e => { e with batches := e.batches.filter (·.id != x.id) })
    let c : Ctx := { br := br, u := .elem cx cy, blk := x.blk, slot := x.slot, tag := x.tag, a := none, b := none, p := none }
    let d := s.descAt br.rid x.blk ((s.opsAt br.rid x.blk x.slot).xf 0 20)
    let w := (if d.cop = 7 then (rndOf (BitVec.ofNat 3 d.rm) 0).2 else 0) ||| (if x.elems.any (fun y => d.offTable y.idx) then warnBit 24 else 0)
    ((s.raiseWarn br c.u x.warn).raiseWarn br (.station (cx / 4) (cy / 4)) w).emit2 c (s.opsAt br.rid x.blk x.slot) (scalarTok x.tag x.elems.length)
  else s.updBatch br cx cy x.id (fun x => { x with pos := x.pos + 1 })

/-- SCAT_BATCH_APPLY: the next segment of the first closed batch of its slot, as one atomic word update (R78, R79, R412). -/
def execScatBatchApply (br : BentRef) (cx cy : Nat) (id : Nat) (s : State) : Host.Outcome State Fault Refusal :=
  if !s.bentLive br then .next s else
  match s.bent? br, s.elem? br cx cy with
  | some b, some e =>
    match e.batches.find? (·.id == id) with
    | none => .next s
    | some x =>
      if x.frozen || e.batches.any (fun y => y.blk == x.blk && y.slot == x.slot && y.id < x.id) then .next s
      else
        let d := s.descAt br.rid x.blk ((s.opsAt br.rid x.blk x.slot).xf 0 20)
        let segs := segments x.elems
        match segs[x.pos]? with
        | none => .next (s.segDone br cx cy x 0)
        | some (i, vs) =>
          if d.offTable i then .next (s.segDone br cx cy x segs.length)
          else
            let v := s.vdOf br.rid
            let port := s.ventPort b.pkg v x.base
            let need := if d.cop = 0 then needWr else needBoth
            let acc : Access := { br := br, spad := b.cell cx cy, loc := false, need := need, sh := d.sh, gens := [], tile := false, owner := id }
            let addrs := (List.range d.es).map (fun k => addrAt x.base (i * Int.ofNat d.es + Int.ofNat k))
            let frz := fun (i : FaultInfo) (wins : List Window) (t : State) =>
              Host.Outcome.next (((t.setVent b.pkg port v wins).updBatch br cx cy id (fun x => { x with frozen := true })).workFault br (.elem cx cy)
                (ventPlace cx cy) x.blk x.slot x.tag id { i with wr := true })
            let homes := match s.locateAll acc [] addrs with
              | (.ok l, _, _) => l
              | _ => []
            if (d.sh && s.shWaits v addrs) || s.orderBehind br cx cy id true false addrs homes then .next s
            else
              let old := if d.cop = 0 then EngEnd.ok (bytesOf d.es 0) (s.ventWinsOf b.pkg port v) s
                else s.engineLoad acc (s.ventWinsOf b.pkg port v) addrs
              match old with
              | .waits => .next s
              | .bad i wins t => frz i wins t
              | .ok bs wins t =>
                let z := segValue d (rndCode x.rnd.toNat) (natOfBytes bs) vs
                match t.engineStore acc wins addrs (bytesOf d.es z.1) with
                | .waits => .next s
                | .bad i wins t => frz i wins t
                | .ok _ wins t =>
                  let t := (t.setVent b.pkg port v wins).updBent br (fun b =>
                    { b.clearFrozen (.elem cx cy) x.blk x.slot x.tag with engFlags := b.engFlags ||| z.2 })
                  .next ((t.chargeAccesses br.rid 1).segDone br cx cy x segs.length)
  | _, _ => .next s

end Sys2Proof.Machine
end

