-- ==== Sys2Proof/Machine/TileShapes.lean ====
section
/-! DEFINITION. The shapes of tile-class firings, as their slots and configuration tokens give them (R119, R154 to R156, R160, R161, R166, R432, R434,
R435): formats, rows and columns, and the bytes and ring slots of their operands and results. -/

namespace Sys2Proof.Machine

open Sys2Proof

/-! ## Panels and tiles (R155, R156, R434) -/

/-- Whether an operand's panels carry scales (R155). -/
def panelScaled (ty : Nat) (mx : Bool) : Bool := ty == 0xE || ty == 0xF || ((ty == 0xC || ty == 0xD) && mx)

/-- KE of an operand format (R156). -/
def keOf (ty : Nat) : Nat := if ty = 0xC ∨ ty = 0xD then 64 else if 0xE ≤ ty then 128 else 32

/-- SM of an operand format (R156). -/
def smOf (ty : Nat) : Nat := if ty = 8 then 32 else 64

/-- Bytes of a panel of some rows (R155). -/
def panelBytes (ty : Nat) (mx : Bool) (rows : Nat) : Nat :=
  rows * keOf ty * laneBits ty / 8 + (if panelScaled ty mx then rows * keOf ty / 32 else 0)

/-- Bytes of an operand of some rows and panels. -/
def operandBytes (ty : Nat) (mx : Bool) (rows panels : Nat) : Nat := panels * panelBytes ty mx rows

/-- Whether the tiles of a type carry scales: always for 4-bit types, for 8-bit ones when so configured (R432, R434). -/
def tileScaled (ty : Nat) (flag : Bool) : Bool := 0xE ≤ ty || ((ty == 0xC || ty == 0xD) && flag)

/-- Bytes of a tile with its scales (R434). -/
def tileBytes (ty : Nat) (scaled : Bool) (rows cols : Nat) : Nat :=
  rows * ((cols * laneBits ty + 7) / 8) + (if scaled then rows * (cols / 32) else 0)

/-! ## Configurations -/

/-- A field of lane 0 of a configuration token. -/
def cfgF (t : Token) (lo n : Nat) : Nat := t.pay.toNat / 2 ^ lo % 2 ^ n

/-- The element format that CF names (R154). -/
def cfTy (t : Token) : Nat :=
  match cfgF t 13 3 with
  | 1 => 0xA | 2 => 0xB | 3 => 0xC | 4 => 8 | _ => 9

/-- What a node of MMA, MMAM or SCOUT takes from each of its rings, in bytes (R154, R155, R161). -/
structure TileShape where
  ty : Nat
  mx : Bool
  m : Nat
  n : Nat
  panels : Nat
  abytes : Nat
  bbytes : Nat
  cbytes : Nat
deriving DecidableEq, Repr

/-- The shape of an MMA or MMAM configuration (R154 to R156). -/
def mmaShape (o : SlotOps) (t : Token) : TileShape :=
  let ty := if o.ty.toNat < 8 then 9 else o.ty.toNat
  let mx := (ty == 0xC || ty == 0xD) && cfgF t 16 1 == 1
  let m := smOf ty * (cfgF t 3 2 + 1)
  let n := 64 * (cfgF t 5 2 + 1)
  let k := cfgF t 7 6 + 1
  { ty := ty, mx := mx, m := m, n := n, panels := k, abytes := operandBytes ty mx m k, bbytes := operandBytes ty mx n k,
    cbytes := m * n * laneBits (cfTy t) / 8 }

/-- The stored format of SCOUT (R160). -/
def scoutTy (o : SlotOps) : Nat :=
  let ty := o.ty.toNat
  if ty = 9 ∨ ty = 0xA ∨ ty = 0xB ∨ ty = 0xC ∨ ty = 0xF then ty else 0xA

/-- The shape of a SCOUT configuration (R161). `m` and `n` are query rows and keys. -/
def scoutShape (o : SlotOps) (t : Token) : TileShape :=
  let ty := scoutTy o
  let mx := ty == 0xC && cfgF t 13 1 == 1
  let m := 64 * (cfgF t 3 2 + 1)
  let n := 64 * (cfgF t 5 2 + 1)
  let k := (32 * (cfgF t 7 6 + 1) + keOf ty - 1) / keOf ty
  { ty := ty, mx := mx, m := m, n := n, panels := k, abytes := operandBytes ty mx m k, bbytes := operandBytes ty mx n k, cbytes := 0 }

/-- The shape of a row instruction's tiles (R434, R435): the source and destination formats with their scales, and rows and columns. -/
structure RowShape where
  sty : Nat
  ssc : Bool
  dty : Nat
  dsc : Bool
  rows : Nat
  cols : Nat
  drows : Nat
  dcols : Nat
deriving DecidableEq, Repr

/-- The shape that a row instruction's slot and token give. -/
def rowShape (opc : Nat) (o : SlotOps) (t : Token) : RowShape :=
  let r := cfgF t 16 7 + 1
  let c := cfgF t 8 8 + 1
  let sty := if opc = 0x8E then cfgF t 44 4 else o.ty.toNat
  let d := if opc = 0x8F then (if o.x.getLsbD 13 then (1, c) else (1, r)) else if opc = 0x91 then (c, r) else (r, c)
  { sty := sty, ssc := opc == 0x8E && tileScaled sty (cfgF t 43 1 == 1), dty := o.ty.toNat,
    dsc := opc == 0x8E && tileScaled o.ty.toNat (o.x.getLsbD 16), rows := r, cols := c, drows := d.1, dcols := d.2 }

/-- Bytes of the source tile. -/
def RowShape.sbytes (p : RowShape) : Nat := tileBytes p.sty p.ssc p.rows p.cols
/-- Bytes of the destination tile. -/
def RowShape.dbytes (p : RowShape) : Nat := tileBytes p.dty p.dsc p.drows p.dcols

/-- SUM mode of MMAM (R166). -/
def sumMode (t : Token) : Bool := cfgF t 2 1 == 1

/-- Slots of a ring that a number of bytes takes. -/
def Ring.slotsFor (g : Ring) (bytes : Nat) : Nat := (bytes + g.slotsz - 1) / g.slotsz

/-- The slots that a node's next firing takes from one of its rings, none of a ring that feeds it with nothing (R154, R161, R166, R434). -/
def nodeNeeds (o : SlotOps) (opc : Nat) (n : TNode) (g : Ring) : Nat :=
  let times := if opc = 0x89 && sumMode n.cfg then Nat.max 1 n.js.length else 1
  if opc = 0x88 ∨ opc = 0x89 then
    let h := mmaShape o n.cfg
    Nat.max (if g.k = o.xf 24 5 then times * g.slotsFor h.abytes else 0) (Nat.max (if g.k = o.xf 19 5 then times * g.slotsFor h.bbytes else 0)
      (if o.x.getLsbD 8 && g.k == o.xf 9 5 then g.slotsFor h.cbytes else 0))
  else if opc = 0x8A then
    let h := scoutShape o n.cfg
    Nat.max (if g.k = o.xf 24 5 then g.slotsFor h.abytes else 0) (if g.k = o.xf 19 5 then g.slotsFor h.bbytes else 0)
  else if g.k = o.xf 24 5 then g.slotsFor (rowShape opc o n.cfg).sbytes else 0

end Sys2Proof.Machine
end

