-- ==== Sys2Proof/Machine/CopyOps.lean ====
section
/-! DEFINITION. Rings (R66 to R68), masks (R165, R168), and the copies of the Lahar (R71, R72, R104, R159, R320 to R325). -/

namespace Sys2Proof.Machine

open Sys2Proof

/-! ## Rings -/

/-- A ring of a cluster. -/
def Cluster.ring? (k : Cluster) (n : Nat) : Option Ring := k.rings.find? (·.k == n)

/-- Changes a ring of a cluster. -/
def Cluster.updRing (k : Cluster) (n : Nat) (f : Ring → Ring) : Cluster := { k with rings := updIf k.rings (·.k == n) f }

/-- Whether n slots from a distance past HEAD are FULL. -/
def Ring.fullFrom (g : Ring) (from_ n : Nat) : Bool :=
  n + from_ ≤ g.nslot && (List.range n).all (fun i => g.states.getD ((g.head + from_ + i) % g.nslot) .empty == .full)

/-- Pops n slots from HEAD: they are EMPTY and a notice goes to the producer for each (R67). -/
def Ring.pop (g : Ring) (n : Nat) : Ring :=
  { g with states := (List.range n).foldl (fun l i => l.set ((g.head + i) % g.nslot) .empty) g.states
           head := (g.head + n) % g.nslot
           notices := g.notices + n }

/-- The FILL slots of a ring. -/
def Ring.fills (g : Ring) : Nat := (g.states.filter (· == .fill)).length

/-- Begins a write of n slots: a credit is spent for each, and they go to FILL (R67, R68). -/
def Ring.begin_ (g : Ring) (n : Nat) : Ring :=
  let at_ := g.tail + g.fills
  { g with states := (List.range n).foldl (fun l i => l.set ((at_ + i) % g.nslot) .fill) g.states, credits := g.credits - n }

/-- The slot where the last n FILL slots of a ring begin. -/
def Ring.fillAt (g : Ring) (n : Nat) : Nat := (g.tail + g.fills + g.nslot - n) % g.nslot

/-- The tail slot is FULL and TAIL advances (R67). -/
def Ring.tailFull (g : Ring) : Ring :=
  { g with states := g.states.set g.tail .full, tail := (g.tail + 1) % g.nslot, written := g.written - 1 }

/-- The home address of a byte of consecutive slots from a slot. -/
def Ring.ga (g : Ring) (vault0 : Nat) (slot off : Nat) : Nat :=
  vault0 + g.base + ((slot + off / g.slotsz) % g.nslot) * g.slotsz + off % g.slotsz

/-- The home address of the first byte of a cluster's vault. -/
def Bent.vault0 (b : Bent) (cX cY : Nat) : Nat := vaultGa b.pkg (b.physClu cX cY).vault 0

/-! ## Masks (R165, R168) -/

/-- The set bits of a bitmap, ascending. -/
def bitsOf (x : W256) : List Nat := (List.range 256).filter (fun j => x.getLsbD j)

/-- The kept set of a mask token and its warnings: its set bits, or tile 0 for an empty mask (R165, R168). -/
def maskSet (t : Token) : List Nat × BitVec 30 :=
  let bits := bitsOf t.pay
  let w := (if t.shape = .tileHead then (if t.seq = bits.length then 0 else warnBit 20) else warnBit 21) |||
    (if bits.isEmpty then warnBit 22 else 0)
  (if bits.isEmpty then [0] else bits, w)

/-! ## The shape of a copy -/

/-- Bytes of a unit with its scales, as a ring's panel layout packs it (R155, R323). -/
def CopyPlan.unitBytes (p : CopyPlan) : Nat :=
  if p.rows then p.rowBytes
  else if p.src.tl then p.src.rows * p.src.rowBytes + (if p.src.scaled then p.src.rows * (p.src.tc / 32) else 0)
  else 32

/-- The slots a unit takes in a ring (R323). -/
def CopyPlan.slots (p : CopyPlan) (g : Ring) : Nat := (p.unitBytes + g.slotsz - 1) / g.slotsz

/-- The units of a CPY: every unit of the walk, or those of the groups that the mask keeps (R323). -/
def copyUnits (p : CopyPlan) (msk : Bool) (atok : Token) (btok : Option Token) : List Nat × BitVec 30 :=
  match msk, btok with
  | true, some b =>
    let m := maskSet b
    let g := atok.pay.toNat / 2 ^ 140 % 256 + 1
    (m.1.flatMap (fun j => ((List.range g).map (fun i => g * j + i)).filter (· < p.src.units)), m.2)
  | _, _ => (List.range p.src.units, 0)

/-! ## CPY and CPYS -/

/-- RSVC for the reserved bits of a copy's A token (R321). -/
def copyRsvc (t : Token) : BitVec 30 := rsvc (t.pay.toNat / 2 ^ 148 != 0 || t.pay.toNat / 2 ^ 128 % 256 != 0)

/-- Starts a copy: at most 16 copies of a Lahar, one of a full Lahar not firing at all; then LA_PERM before anything is read or written (R61, R69,
R323, R325). -/
def State.startCopy (s : State) (o : SlotOps) (c : Ctx) (units : List Nat) (rowWarn : BitVec 30) : Host.Outcome State Fault Refusal :=
  let p := s.copyPlan c.br.rid c.blk c.slot c.atok
  let xy := s.ctxCell c
  match s.clus? c.br (xy.1 / 4) (xy.2 / 4) with
  | none => .next s
  | some k =>
    let ringBad := p.dr && (match k.ring? p.ring with
      | some g => g.prod.isSome || g.nslot < p.slots g
      | none => true)
    if 16 ≤ k.copies.length then s.wait
    else if ringBad || ringBase p.src p.sbase || (!p.dr && ringBase p.dst p.dbase) then
      .next (s.fault c { cause := .laPerm, addr := if p.dr then 0 else p.dbase, wr := true })
    else
      let (id, s) := s.newId
      let x : Copy := { id := id, cx := xy.1, cy := xy.2, blk := c.blk, slot := c.slot, tag := c.tag, atok := c.atok, btok := c.b.map (·.tok),
                        units := units, pos := 0, off := 0, begun := false, buf := [],
                        gens := s.genNow (s.vdOf c.br.rid) p.src (p.sources (c.b.map (·.tok)) units), frozen := false,
                        warn := (prEff o).2 ||| (scopeEff o).2 ||| rsvx (o.x.getLsbD 16), ewarn := rowWarn ||| copyRsvc c.atok }
      .next (s.updClus c.br (xy.1 / 4) (xy.2 / 4) (fun k => { k with copies := k.copies ++ [x] }))

/-- CPY (R320 to R323, R325). -/
def execCpy (o : SlotOps) (s : State) : Host.Outcome State Fault Refusal :=
  s.runFiring o (fun c =>
    let u := copyUnits (s.copyPlan c.br.rid c.blk c.slot c.atok) (o.x.getLsbD 18) c.atok (c.b.map (·.tok))
    s.startCopy o c u.1 u.2)

/-- CPYS: a copy of the rows that an index vector names (R324, R325). -/
def execCpys (o : SlotOps) (s : State) : Host.Outcome State Fault Refusal :=
  s.runFiring o (fun c =>
    let d := (s.copyPlan c.br.rid c.blk c.slot c.atok).src
    let n := if c.btok.isScalar then 1 else 32 / idxBytes d.idx
    s.startCopy o c (List.range n) 0)

/-! ## The Lahar at work -/

/-- Changes a copy of a cluster. -/
def State.updCopy (s : State) (br : BentRef) (cX cY id : Nat) (f : Copy → Copy) : State :=
  s.updClus br cX cY (fun k => { k with copies := updIf k.copies (·.id == id) f })

/-- Sets the Lahar's own windows. -/
def State.setLahar (s : State) (br : BentRef) (cX cY : Nat) (w : List Window) : State :=
  s.updClus br cX cY (fun k => { k with laharWin := w })

/-- The package cell of a cluster-local element index (R70, R320). -/
def Bent.clusterCell (b : Bent) (cX cY i : Nat) : CellId := b.cell (4 * cX + i % 4) (4 * cY + i / 4)

/-- The Lahar's access to a copy's source or destination. -/
def copyAccess (b : Bent) (br : BentRef) (cX cY : Nat) (x : Copy) (p : CopyPlan) (wr : Bool) : Access :=
  let own := b.cell x.cx x.cy
  { br := br, spad := if wr && p.spd then b.clusterCell cX cY p.elem else own, loc := if wr then p.dst.loc else p.src.loc,
    need := if wr then needWr else needRd, sh := wr && p.dst.sh, gens := if wr then [] else x.gens,
    tile := if wr then p.tiled || p.dst.tl else p.tiled, owner := x.id }

/-- Joins home addresses into runs. -/
def runsOf : List Nat → List (Nat × Nat)
  | [] => []
  | a :: as =>
    match runsOf as with
    | (b, n) :: rest => if a + 1 = b then (a, n + 1) :: rest else (a, 1) :: (b, n) :: rest
    | [] => [(a, 1)]

/-- The cluster of the bent whose vault or cells hold a home address, which the range scoreboard of R71 records. -/
def Bent.scoreAt (b : Bent) (ga : Nat) : Option (Nat × Nat) :=
  match regionOf (gaPhys ga) with
  | .vault v => some (b.canonClu (Clu.ofVault b.pkg v))
  | .spad => let c := (homeOf ga).1; some ((c.x - b.x0) / 4, (c.y - b.y0) / 4)
  | _ => none

/-- The range that a copy's writes cover in a vault or a scratchpad, by its least and greatest home address. -/
def rangeOf (l : List Nat) : Option (Nat × Nat) :=
  match l with
  | [] => none
  | a :: as => some (as.foldl Nat.min a, as.foldl Nat.max a)

/-- Where a fault of the Lahar stands in its record (R187). -/
def laharPlace (cX cY : Nat) : FaultPlace := { ecx := 4 * cX, ecy := 4 * cY, eng := true, unit := 1 }

/-- The SEQ of the last record of a package. -/
def State.lastSeq (s : State) (p : Pkg) : Nat := ((s.plat? p).elim 0 (fun q => q.faultSeq.toNat)) - 1

/-- Whether a node waits on a ring: it has firings left, none of them holds the Truss, and the ring's head does not hold what the next one takes
(R159). -/
def Cluster.waitsOn (k : Cluster) (o : SlotOps) (opc : Nat) (n : TNode) (ring : Nat) : Bool :=
  n.left != 0 && !k.firing.elim false (fun f => f.blk == n.blk && f.slot == n.slot) &&
  (k.ring? ring).elim false (fun g => !g.fullFrom 0 (nodeNeeds o opc n g))

/-- TILE_WAIT records for the tile nodes that wait on a ring whose copy has faulted, with their counters; none of them is in a firing (R159, R187).
-/
def State.tileWaits (s : State) (br : BentRef) (cX cY ring seq : Nat) : State :=
  match s.clus? br cX cY with
  | some k => k.nodes.foldl (fun s n =>
      if k.waitsOn (s.opsAt br.rid n.blk n.slot) (slotOpc ((s.slot? br.rid n.blk n.slot).elim 0 (·.word))) n ring then
        s.recordAt br (UnitLoc.station cX cY).place n.blk n.slot 0 n.cfg.tag { cause := .tileWait, aux := seq } 0 (n.fire, n.sub, 0, 0, 0)
      else s) s
  | none => s

/-- A fault of a copy withholds its token; its position is kept (R159, R325). -/
def State.copyFault (s : State) (br : BentRef) (cX cY : Nat) (x : Copy) (p : CopyPlan) (i : FaultInfo) : State :=
  let s := (s.updCopy br cX cY x.id (fun x => { x with frozen := true })).workFault br (.station cX cY) (laharPlace cX cY) x.blk x.slot
    x.tag x.id i
  if p.dr then s.tileWaits br cX cY p.ring (s.lastSeq (((s.bent? br).map (·.pkg)).getD { px := 0, py := 0 })) else s

/-! ### What a copy moves at a time (R72, R90, R325) -/

/-- Whether a copy is moved as one piece: all but those of tiles and those into rings, whose units are moved one after another. -/
def CopyPlan.whole (p : CopyPlan) : Bool := !p.dr && !p.tiled

/-- The units of the piece that a copy moves at its position. -/
def Copy.piece (x : Copy) (p : CopyPlan) : List Nat := if p.whole then x.units else (x.units[x.pos]?).toList

/-- The source address of each byte of a piece; none for a row of zeros. -/
def Copy.srcs (x : Copy) (p : CopyPlan) : List (Option Nat) :=
  (x.piece p).flatMap (fun j => match p.srcAddrs x.btok j with
    | some l => l.map some
    | none => List.replicate p.rowBytes none)

/-- The destination address of each byte of a piece; of a copy into a ring, its home address in the FILL slots (R67, R323). -/
def Copy.dsts (x : Copy) (p : CopyPlan) (vault0 : Nat) (g : Option Ring) : List Nat :=
  match p.dr, g with
  | true, some g => (List.range (p.slots g * g.slotsz)).map (fun o => g.ga vault0 (g.fillAt (p.slots g)) o)
  | true, none => []
  | false, _ => (x.piece p).flatMap p.dstAddrs

/-- The aligned 32-byte units of addresses, in the order of their first bytes. -/
def alignedUnits (l : List Nat) : List Nat := (l.map (· / 32)).eraseDups

/-- The walk unit that a byte of a piece belongs to, as a record's J names it. -/
def Copy.unitAt (x : Copy) (p : CopyPlan) (i : Nat) : Nat :=
  if p.whole then x.units.getD (i / Nat.max 1 (if p.rows then p.rowBytes else 32)) x.pos else x.units.getD x.pos x.pos

/-- The ranges that home addresses cover in the vaults and scratchpads of clusters of a bent, one for each cluster (R71). -/
def Bent.scoreRanges (b : Bent) (l : List Nat) : List ((Nat × Nat) × Nat × Nat) :=
  ((l.filterMap b.scoreAt).eraseDups).filterMap (fun q => (rangeOf (l.filter (fun g => b.scoreAt g == some q))).map (fun r => (q, r.1, r.2 + 1 - r.1)))

/-- Enters ranges into the scoreboards of their clusters for an owner; none while one of them has 16 entries in use (R71). -/
def State.enterScore (s : State) (br : BentRef) (owner : Nat) (l : List ((Nat × Nat) × Nat × Nat)) : Option State :=
  let old := fun (q : Nat × Nat) => (s.clus? br q.1 q.2).elim [] (·.score)
  let l := l.filter (fun r => !(old r.1).any (·.owner == owner))
  if l.any (fun r => 16 ≤ (old r.1).length) then none
  else some (l.foldl (fun s r => s.updClus br r.1.1 r.1.2 (fun c =>
    { c with score := c.score ++ [({ owner := owner, lo := r.2.1, len := r.2.2 } : ScoreEntry)] })) s)

/-- Whether a piece that goes into a ring must wait: for earlier copies into it, or for credits (R68, R325). -/
def State.ringHeld (s : State) (br : BentRef) (k : Cluster) (x : Copy) (p : CopyPlan) : Bool :=
  p.dr && (k.copies.any (fun y => y.id < x.id && (let q := s.copyPlan br.rid y.blk y.slot y.atok; q.dr && q.ring == p.ring)) ||
    (match k.ring? p.ring with
      | some g => g.credits < p.slots g
      | none => true))

/-- The home addresses that the range scoreboard records for a copy as it begins: of a local destination every byte that the copy writes, to its last
unit (R71); of a ring the slots of the piece, whose states hold the others (R67, R104; log 35). -/
def State.scoreOf (s : State) (x : Copy) (p : CopyPlan) (acc : Access) (wins : List Window) (piece : List (Nat × Nat)) : List Nat :=
  if p.dr || !p.dst.loc then piece.map (·.1)
  else match s.locateAll acc wins (x.units.flatMap p.dstAddrs) with
    | (.ok l, _, _) => l.map (·.1)
    | _ => piece.map (·.1)

/-- Begins a piece of a copy: credits and order of a ring, the local addresses and, of a tile, the walks on either side, tile marks, and the range scoreboard (R68, R71, R103, R104,
R325). A fault leaves it not begun. None while it must wait. -/
def State.beginUnit (s : State) (b : Bent) (br : BentRef) (cX cY : Nat) (k : Cluster) (x : Copy) (p : CopyPlan) : Option State :=
  let g := (k.ring? p.ring).map (fun g => g.begin_ (p.slots g))
  let dsts := x.dsts p (b.vault0 cX cY) g
  if s.ringHeld br k x p then none
  else
    let sacc := copyAccess b br cX cY x p false
    let dacc := copyAccess b br cX cY x p true
    let srcs := x.srcs p
    let at_ := fun (i : FaultInfo) (n : Nat) => { i with j := x.unitAt p n }
    match s.locateAll sacc k.laharWin (if sacc.tile || sacc.loc then srcs.filterMap id else []) with
    | (.error i, wins, t) => some ((t.setLahar br cX cY wins).copyFault br cX cY x p (at_ i (srcs.findIdx (· == some i.addr))))
    | (.ok src, wins, t) =>
      match if p.dr then (.ok (dsts.map (fun a => (a, 0))), wins, t) else t.locateAll dacc wins (if dacc.tile || dacc.loc then dsts else []) with
      | (.error i, wins, t) => some ((t.setLahar br cX cY wins).copyFault br cX cY x p { at_ i (dsts.findIdx (· == i.addr)) with wr := true })
      | (.ok dst, wins, t) =>
        let t := t.setLahar br cX cY wins
        let marks := fun (wr : Bool) (l : List (Nat × Nat)) =>
          (runsOf (l.map (·.1))).map (fun r => ({ owner := x.id, write := wr, lo := r.1, len := r.2 } : TileMark))
        if t.tileHeld sacc src || (!p.dr && t.tileHeld dacc dst) then none
        else
          (t.enterScore br x.id (b.scoreRanges (t.scoreOf x p dacc wins dst))).map (fun t =>
            let t := { t with marks := t.marks ++ (if sacc.tile then marks false src else []) ++ (if dacc.tile && !p.dr then marks true dst else []) }
            let t := if p.dr then t.updClus br cX cY (fun k => match g with
              | some g => k.updRing p.ring (fun _ => g)
              | none => k) else t
            t.updCopy br cX cY x.id (fun x => { x with begun := true, off := 0, buf := [] }))

/-- Retires the scoreboard entries of an owner (R71). -/
def State.unscore (s : State) (br : BentRef) (owner : Nat) : State :=
  s.updBent br (fun b => { b with clus := b.clus.map (fun c => { c with score := c.score.filter (·.owner != owner) }) })

/-- A piece of a copy is written: its tile marks go and its ring slots are complete; with the last piece, or with each piece into a ring, the scoreboard
entries retire (R67, R71, R104). -/
def State.endUnit (s : State) (br : BentRef) (cX cY : Nat) (x : Copy) (p : CopyPlan) : State :=
  let s : State := { s with marks := s.marks.filter (·.owner != x.id) }
  let s := if p.dr || x.units.length ≤ x.pos + (x.piece p).length then s.unscore br x.id else s
  let s := if p.dr then s.updClus br cX cY (fun k => match k.ring? p.ring with
      | some g => k.updRing p.ring (fun g' => { g' with written := g'.written + p.slots g })
      | none => k)
    else s
  s.updCopy br cX cY x.id (fun x => { x with pos := x.pos + (x.piece p).length, off := 0, begun := false, buf := [] })

/-- The bytes of a piece that stand in one aligned unit of its destination, by their places. -/
def placesIn (dsts : List Nat) (u : Nat) : List Nat := (List.range dsts.length).filter (fun i => dsts.getD i 0 / 32 == u)

/-- The units of bulk of a copy on their way, or waiting to go again. -/
def State.bulksOf (s : State) (o : BulkOwner) : List Bulk := s.bulks.filter (·.owner == o)

/-- The home of the first of some addresses, where its access has been found. -/
def State.farHome (s : State) (x : Access) (wins : List Window) (addrs : List Nat) : CellId × FUnit :=
  match (s.locateAll x wins (addrs.take 1)).1 with
  | .ok (g :: _) => homeOf g.1
  | _ => (x.spad, .vault)

/-- The kind of a unit of bulk: of a tile the first carries the head mark and the last the tail mark (R104, R193). -/
def bulkKind (tiled first last : Bool) : MKind :=
  if !tiled then .bulk else if first && last then .bulkHT else if first then .bulkH else if last then .bulkT else .bulk

/-- The Lahar reads an aligned 32-byte unit of a copy's source: into its buffer, or, from another die, as bulk on its way there (R72, R90, R325). None
while it must wait. -/
def State.readUnit (s : State) (b : Bent) (br : BentRef) (cX cY : Nat) (k : Cluster) (x : Copy) (p : CopyPlan) (qs addrs : List Nat) : Option State :=
  let acc := { copyAccess b br cX cY x p false with tile := false }
  match s.engineLoad acc k.laharWin addrs with
  | .waits => none
  | .bad i wins t => some ((t.setLahar br cX cY wins).copyFault br cX cY x p { i with j := x.unitAt p (qs.headD 0) })
  | .ok bs wins t =>
    let t := (t.setLahar br cX cY wins).updBent br (fun b => b.clearFrozen (.station cX cY) x.blk x.slot x.tag)
    let here := b.cell (4 * cX) (4 * cY)
    let h := t.farHome acc wins addrs
    if !crossesTo here h then some (t.updCopy br cX cY x.id (fun x => { x with buf := x.buf ++ List.zip qs bs }))
    else
      let (id, t) := t.newId
      t.sendBulk (s.vdOf br.rid) x.tag .lahar
        { id := id, owner := .copy br cX cY x.id, at_ := x.unitAt p (qs.headD 0), places := qs, dst := [], vas := [], sh := false, gens := [],
          bytes := bs, kind := .bulk, src := h.1, hubSrc := h.2.hubNum,
          goal := here, space := .vc 0 h.1.pkg 0 h.1.pkg 0 3, seq := 0, done := false, lost := false }

/-- Writes the bytes of an aligned 32-byte unit of a copy's destination: at their homes, or, on another die, as bulk on its way there (R72, R90, R325).
-/
def State.writeUnit (s : State) (b : Bent) (br : BentRef) (cX cY : Nat) (k : Cluster) (x : Copy) (p : CopyPlan) (at_ : Nat) (addrs : List Nat)
    (bs : List Byte) (kind : MKind) : EngEnd :=
  if p.dr then
    match s.portsReady (addrs.map (fun a => (a, 0))) with
    | none => .waits
    | some (.error i) => .bad i k.laharWin s
    | some (.ok t) => .ok [] k.laharWin (t.putBytes (addrs.map (fun a => (a, 0))) bs)
  else
    let acc := { copyAccess b br cX cY x p true with tile := false }
    let here := b.cell (4 * cX) (4 * cY)
    if !crossesTo here (s.farHome acc k.laharWin addrs) then s.engineStore acc k.laharWin addrs bs
    else match s.locateAll acc k.laharWin addrs with
    | (.error i, wins, t) => .bad i wins t
    | (.ok l, wins, t) =>
      if t.tileHeld acc l then .waits
      else
        let h := homeOf ((l.headD (0, 0)).1)
        let (id, t) := t.newId
        match t.sendBulk (s.vdOf br.rid) x.tag h.2
          { id := id, owner := .copy br cX cY x.id, at_ := at_, places := [], dst := l, vas := if acc.loc then [] else addrs,
            sh := acc.sh, gens := s.gensNow (s.vdOf br.rid) addrs, bytes := bs, kind := kind, src := here, hubSrc := none, goal := h.1,
            space := .vc 0 here.pkg 0 here.pkg 0 3, seq := 0, done := false, lost := false } with
        | some t => .ok [] wins t
        | none => .waits

/-- A unit of bulk of a copy that an error ended goes again: one for homes is translated anew, as its replay is (R173, R180, R202). None while its space
is full. -/
def State.bulkAgain (s : State) (b : Bent) (br : BentRef) (cX cY : Nat) (k : Cluster) (x : Copy) (p : CopyPlan) (f : Bulk) : Option State :=
  let s := s.updBent br (fun b => b.clearFrozen (.station cX cY) x.blk x.slot x.tag)
  if f.dst.isEmpty then s.sendBulk (s.vdOf br.rid) x.tag .lahar f
  else if f.vas.isEmpty then s.sendBulk (s.vdOf br.rid) x.tag (homeOf ((f.dst.headD (0, 0)).1)).2 f
  else match s.locateAll { copyAccess b br cX cY x p true with tile := false } k.laharWin f.vas with
    | (.error i, wins, t) => some ((t.setLahar br cX cY wins).copyFault br cX cY x p { i with wr := true, j := f.at_ })
    | (.ok l, wins, t) =>
      let h := homeOf ((l.headD (0, 0)).1)
      (t.setLahar br cX cY wins).sendBulk (s.vdOf br.rid) x.tag h.2 { f with dst := l, goal := h.1, gens := s.gensNow (s.vdOf br.rid) f.vas }

/-- The next step of the piece in progress, none while it must wait: a unit of bulk that an error ended goes again; the Lahar reads an aligned 32-byte
unit of the source that the next aligned 32-byte unit of the destination needs, or writes that unit when it has all its bytes and no earlier one is on
its way to another die; the piece ends when no bulk of it is on its way (R72, R90, R202, R325). -/
def State.moveUnit (s : State) (b : Bent) (br : BentRef) (cX cY : Nat) (k : Cluster) (x : Copy) (p : CopyPlan) : Option State :=
  let srcs := x.srcs p
  let dsts := x.dsts p (b.vault0 cX cY) (k.ring? p.ring)
  let units := alignedUnits dsts
  let fly := s.bulksOf (.copy br cX cY x.id)
  let have_ := fun (i : Nat) => x.buf.any (·.1 == i)
  let ps := placesIn dsts (units.getD x.off 0)
  let needs := ps.filter (fun i => (srcs.getD i none).isSome && !have_ i)
  match fly.find? (·.lost) with
  | some f => s.bulkAgain b br cX cY k x p f
  | none =>
    if units.length ≤ x.off then (if fly.isEmpty then some (s.endUnit br cX cY x p) else none)
    else match needs.find? (fun i => !fly.any (·.places.contains i)) with
    | some i =>
      let u := (srcs.getD i none).getD 0 / 32
      let qs := (List.range srcs.length).filter (fun q => !have_ q && !fly.any (·.places.contains q) && (srcs.getD q none).elim false (fun a => a / 32 == u))
      s.readUnit b br cX cY k x p qs (qs.map (fun q => (srcs.getD q none).getD 0))
    | none =>
      let here := b.cell (4 * cX) (4 * cY)
      let goal := if p.dr then (here, FUnit.lahar)
        else s.farHome { copyAccess b br cX cY x p true with tile := false } k.laharWin ((ps.take 1).map (fun i => dsts.getD i 0))
      if !needs.isEmpty || fly.any (fun f => !f.dst.isEmpty && !f.done && (!crossesTo here goal || crossesDie f.goal goal.1)) ||
        (!p.dr && p.dst.sh && !p.dst.loc && s.shWaits (s.vdOf br.rid) (ps.map (fun i => dsts.getD i 0))) then none
      else
      let bs := ps.map (fun i => ((x.buf.find? (·.1 == i)).map (·.2)).getD 0)
      match s.writeUnit b br cX cY k x p (x.unitAt p (ps.headD 0)) (ps.map (fun i => dsts.getD i 0)) bs
          (bulkKind (p.tiled || p.dst.tl) (x.off == 0) (units.length ≤ x.off + 1)) with
      | .waits => none
      | .bad i wins t => some ((t.setLahar br cX cY wins).copyFault br cX cY x p { i with wr := true, j := x.unitAt p (ps.headD 0) })
      | .ok _ wins t =>
        let t := ((t.setLahar br cX cY wins).updBent br (fun b => b.clearFrozen (.station cX cY) x.blk x.slot x.tag)).charge br.rid 0x1001
        if units.length ≤ x.off + 1 && (t.bulksOf (.copy br cX cY x.id)).isEmpty then some (t.endUnit br cX cY x p)
        else some (t.updCopy br cX cY x.id (fun x => { x with off := x.off + 1, buf := x.buf.filter (fun q => !ps.contains q.1) }))

/-- LAHAR_TILE_START: a copy begins its next tile, or its walk, or moves an aligned 32-byte unit of what it has begun (R72, R90, R323 to R325). -/
def execLaharTileStart (br : BentRef) (cX cY : Nat) (id : Nat) (s : State) : Host.Outcome State Fault Refusal :=
  if !s.bentLive br then .next s else
  match s.bent? br, s.clus? br cX cY with
  | some b, some k =>
    match k.copies.find? (·.id == id) with
    | none => .next s
    | some x =>
      let p := s.copyPlan br.rid x.blk x.slot x.atok
      if x.frozen ∨ x.units.length ≤ x.pos then .next s
      else if x.begun then .next ((s.moveUnit b br cX cY k x p).getD s)
      else .next ((s.beginUnit b br cX cY k x p).getD s)
  | _, _ => .next s

/-- COPY_COMPLETE: the last byte of a copy is written, performed at its scope, and its token leaves (R93, R323, R324). -/
def execCopyComplete (br : BentRef) (cX cY : Nat) (id : Nat) (s : State) : Host.Outcome State Fault Refusal :=
  match (s.clus? br cX cY).bind (fun k => k.copies.find? (·.id == id)) with
  | none => .next s
  | some x =>
    if x.frozen || x.pos < x.units.length || !(s.bulksOf (.copy br cX cY id)).isEmpty then .next s
    else
      let p := s.copyPlan br.rid x.blk x.slot x.atok
      let range := if p.rows && x.units.any (fun j => (p.srcAddrs x.btok j).isNone) then warnBit 23 else 0
      let s := s.updClus br cX cY (fun k => { k with copies := k.copies.filter (·.id != id) })
      let s := (s.updBent br (fun b => { b with engWarn := b.engWarn ||| x.ewarn ||| range })).raiseWarn br (.elem x.cx x.cy) x.warn
      let c : Ctx := { br := br, u := .elem x.cx x.cy, blk := x.blk, slot := x.slot, tag := x.tag, a := none, b := none, p := none }
      .next (s.emit2 c (s.opsAt br.rid x.blk x.slot) (scalarTok x.tag x.units.length))

end Sys2Proof.Machine
end

