-- ==== Sys2Proof/Machine/Remote.lean ====
section
/-! DEFINITION. The remote instructions (R107, R395 to R398) and what befalls their requests at the target and on the way back: faults
parked there, KEEP-WAITs, busy notices, timeouts and the loss of posted stores (R110, R111, R184, R185, R207). -/

namespace Sys2Proof.Machine

open Sys2Proof

/-! ## The instructions -/

/-- The target package of a remote instruction's A token (R396). -/
def targetOf (t : Token) : Pkg := { px := t.pay.toNat / 2 ^ 64 % 128, py := t.pay.toNat / 2 ^ 71 % 128 }

/-- Whether a virtual device may send one more pinned request (R200). -/
def State.pinFree (s : State) (v : VdRef) : Bool :=
  match s.vdev? v with
  | some d => (s.reqs.filter (fun q => q.vdr == v && q.pinned && q.stage != .frozen && q.stage != .reply)).length < d.pinq
  | none => false

/-- Whether a package lies in the domain (R20). -/
def State.inDomain (s : State) (p : Pkg) : Bool := p.px < s.domW && p.py < s.domH

/-- Issues a remote request: to the ingress die of the target (R197), or at once where the target is the issuing package. -/
def State.sendRemote (s : State) (c : Ctx) (r : Req) : Went :=
  let src := s.srcCell c
  if r.target = src.pkg then .done (s.putReq { r with stage := .home })
  else
    let die := if s.inDomain r.target then s.ingressDie src r.target else 0
    s.sendReq r (dieCell r.target die) .ingress

/-- A remote instruction: its checks at the AG, then its request (R395, R396). The WARN bits go with the request to its emission; a posted store emits
at once (R294, R397). -/
def State.remoteAs (s : State) (o : SlotOps) (c : Ctx) (kind : AccKind) (size ty : Nat) (data data2 : W256) (warn : BitVec 30)
    (after : State → State) : Host.Outcome State Fault Refusal :=
  let va := c.addr o
  let wr := kind.isWrite
  if !canonVa (BitVec.ofNat 64 va) then .next (s.fault c { cause := .vaCanon, addr := va, wr := wr })
  else if va % size ≠ 0 then .next (s.fault c { cause := .misaligned, addr := va, wr := wr })
  else
    let want := o.x.getLsbD 24 && kind != .rstp
    let pin := want && s.pinFree (s.vdOf c.br.rid)
    let r := { Req.make s c kind va size ty with
               target := targetOf c.atok, data := data, data2 := data2, pinned := pin, posted := kind == .rstp,
               warn := (prEff o).2 ||| tilehd c ||| warn ||| rsvx (o.xf 25 4 != 0 || o.xf 20 4 != 0) }
    let again := s.emittedBefore r
    match s.sendRemote c r with
    | .busy => s.wait
    | .bad i => .next (s.fault c i)
    | .done t =>
      let t := if want && !pin then t.count .pindemote (s.srcCell c).pkg (portVc (s.srcCell c).die 1) else t
      .next (if again then t else after (if kind = .rstp then t.warnAs c r.warn else t))

/-- Bytes of a remote load or store: 32 with `.vec`. -/
def remoteSize (o : SlotOps) : Nat := if o.mod.getLsbD 1 then 32 else tyBytes (memTy o.ty).1

/-- The warnings of a remote load or store's TY and MOD (R395). -/
def remoteWarn (o : SlotOps) : BitVec 30 := (memTy o.ty).2 ||| memMod o 5

/-- RLD (R395 to R397). -/
def execRld (o : SlotOps) (s : State) : Host.Outcome State Fault Refusal :=
  s.runFiring o (fun c => s.remoteAs o c .rld (remoteSize o) (memTy o.ty).1 0 0 (remoteWarn o) id)

/-- RST (R107, R395 to R397). -/
def execRst (o : SlotOps) (s : State) : Host.Outcome State Fault Refusal :=
  s.runFiring o (fun c => s.remoteAs o c .rst (remoteSize o) (memTy o.ty).1 (storeData c (memTy o.ty).1 (remoteSize o)) 0 (remoteWarn o) id)

/-- RSTO: every effect of RST, counted in DEPCOUNT (R254, R398). -/
def execRsto (o : SlotOps) (s : State) : Host.Outcome State Fault Refusal :=
  s.runFiring o (fun c => s.remoteAs o c .rst (remoteSize o) (memTy o.ty).1 (storeData c (memTy o.ty).1 (remoteSize o)) 0 (remoteWarn o) id)

/-- RSTP: emits when the AG accepts the store, and counts in the outbound posted counter (R107, R397). -/
def execRstp (o : SlotOps) (s : State) : Host.Outcome State Fault Refusal :=
  s.runFiring o (fun c => s.remoteAs o c .rstp (remoteSize o) (memTy o.ty).1 (storeData c (memTy o.ty).1 (remoteSize o)) 0 (remoteWarn o)
    (fun t => (t.updVdev (s.vdOf c.br.rid) (fun d => { d with posted := d.posted + 1 })).emit2 c o c.atok.plain))

/-- A remote atomic (R310, R395, R396). -/
def State.ratmAs (s : State) (o : SlotOps) (op : AtomOp) : Host.Outcome State Fault Refusal :=
  s.runFiring o (fun c =>
    let ty := (memTy o.ty).1
    s.remoteAs o c (.ratm op) (tyBytes ty) ty (atomData c ty).1 (atomData c ty).2 ((memTy o.ty).2 ||| memMod o 1) id)

/-- RATM.add. -/
def execRatmAdd (o : SlotOps) (s : State) : Host.Outcome State Fault Refusal := s.ratmAs o .add
/-- RATM.or. -/
def execRatmOr (o : SlotOps) (s : State) : Host.Outcome State Fault Refusal := s.ratmAs o .or
/-- RATM.swap. -/
def execRatmSwap (o : SlotOps) (s : State) : Host.Outcome State Fault Refusal := s.ratmAs o .swap
/-- RATM.cas. -/
def execRatmCas (o : SlotOps) (s : State) : Host.Outcome State Fault Refusal := s.ratmAs o .cas

/-! ## Errors at the requester (R185, R207) -/

/-- An error ends a request: the instruction freezes under its tag, and the request keeps its SEQ for the replay (R185). A request that only
timed out stays on its way, its answer to be discarded. -/
def State.reqError (s : State) (r : Req) (i : FaultInfo) : State :=
  if s.ctxAborted r.ctx || (s.bent? r.br).isNone then s.dropReq r.id
  else
    let f := { r with stage := .frozen, reply := none, resendAt := 0, busy := 0 }
    let s := if i.cause = .remoteTimeout then
        let (id, s) := s.newId
        (s.updReq r.id (fun r => { r with posted := true, scope := 9 })).putReq { f with id := id }
      else s.updReq r.id (fun _ => f)
    s.fault r.ctx { i with wr := r.kind.isWrite }

/-- A record that names the source AG of a posted store that is lost (R111, R184). -/
def State.lostRecord (s : State) (r : Req) (i : FaultInfo) : State :=
  match s.bent? r.br with
  | some _ => s.record r.br (.elem r.cx r.cy) r.blk r.slot r.tag i 0
  | none =>
    match s.vdev? r.vdr with
    | some d => s.pushRecord d.home r.vdr.part (fun seq =>
        { cause := i.cause.code, part := r.vdr.part, vdid := r.vdr.vd, bent := r.br.bent, raiseid := r.br.rid, ecx := r.cx, ecy := r.cy,
          eng := false, unit := 0, blk := r.blk, slot := r.slot, port := 0, tag := r.tag, addr := i.addr, level := i.level, wr := true,
          park := false, j := 0, refc := 0, fire := 0, sub := 0, grp := 0, kstep := 0, acc := 0, seq := seq, aux := i.aux, cycle := 0 })
    | none => s

/-- A posted store is lost: it leaves the counter and is counted as lost; nothing is frozen (R110, R111, R184). -/
def State.losePosted (s : State) (r : Req) (i : FaultInfo) : State :=
  let s := (s.lostRecord r { i with addr := r.va, wr := true }).dropReq r.id
  let s := match r.space with
    | some sp => s.release sp r.seq
    | none => s
  (s.updVdev r.vdr (fun d => { d with posted := d.posted - 1, lost := d.lost ++ [r.id] })).updBent r.br
    (fun b => { b with lostPosted := b.lostPosted + 1 })

/-! ## At the target (R184, R396) -/

/-- A posted store is performed at its home, or its place in the window is taken: a sequenced one is to be acknowledged by a SACK, one that
crossed no die edge leaves the counter (R107, R204). -/
def State.postedDone (s : State) (r : Req) : State :=
  match r.space with
  | some sp =>
    let s := s.updReq r.id (fun _ => { r with stage := .toIssuer })
    { s with reorders := updIf s.reorders (·.space == sp) (fun w =>
      { w with unsacked := w.unsacked + 1, oldest := if w.unsacked = 0 then s.now else w.oldest }) }
  | none => (s.dropReq r.id).updVdev r.vdr (fun d => { d with posted := d.posted - 1 })

/-- The die that received a request. -/
def Req.homeCell (r : Req) : CellId :=
  match r.space with
  | some sp => sp.home
  | none => dieCell r.target 0

/-- A fault that a remote request meets at its target: parked there when it came from another package; at its own package precise, as any
access of the AG (R179, R184). -/
def State.remoteBad (s : State) (r : Req) (i : FaultInfo) : State :=
  if !r.kind.detached && r.target == (s.reqCell r).pkg then s.walkFault { r with reply := none } i
  else s.updReq r.id (fun _ => { r with reply := some (.err i) })

/-- A translated remote request at its home is performed (R396). None while its line is migrating. -/
def State.remoteAt (s : State) (r : Req) (ga : Nat) : Option State :=
  let key := s.keyOf r.target r.vdr.part r.leaf
  match s.portReady ga r.size with
  | .waits => none
  | .ecc s => some (s.remoteBad r { cause := .eccUncorr, addr := r.va, wr := r.kind.isWrite })
  | .ready s =>
    let s := s.charge r.br.rid 0x1000
    if r.kind = .rstp then some ((s.writeKey ga key r.bytes).postedDone r) else some (s.homeDo r ga key)

/-- A translated remote request goes on to its home (R197, R396): at the target of another package as a pinned, unsequenced request of the ingress; in
its own package, where it crosses a die edge, sequenced like any other. None where it must wait. -/
def State.toRemoteHome (s : State) (r : Req) (ga : Nat) : Option State :=
  let h := homeOf ga
  let own := r.target == (s.reqCell r).pkg
  let here := if own then s.reqCell r else r.homeCell
  if r.kind.late? || !crossesTo here h then s.remoteAt r ga
  else if own then
    match s.sendReq r h.1 h.2 with
    | .done t => some t
    | _ => none
  else
    let (id, s) := (s.updReq r.id (fun _ => { r with stage := .forward })).newId
    some (s.inject (.cell here)
      { mid := id, kind := match r.kind.msg true with
          | .post => .wrreqP
          | k => k
        src := here, dst := h.1, unit := h.2, hubDst := h.2.isHub, tag := r.tag, len := 0, trim := false, gen := 0, seq := 0, space := none,
        part := r.vdr.part, sub := 0, body := .req r.id })

/-- A remote request at its target: translated with the target package's entries, then forwarded to its home and performed there (R197, R396). None where
it must wait: behind an earlier posted store of its class (R107), for readers of an older generation (R103), or for a migrating line. -/
def State.homeRemote (s : State) (r : Req) : Option State :=
  let sh := r.kind == .late true
  if r.reply.isSome || (r.kind == .rstp && s.reqs.any (fun q => q.kind == .rstp && q.id < r.id && q.br == r.br && q.cx == r.cx &&
      q.cy == r.cy && q.target == r.target && q.stage.before)) || s.behind r || (sh && (s.away r.br.rid || s.shWaits r.vdr [r.va])) ||
      (r.target == (s.reqCell r).pkg && s.streamOrder r.br r.cx r.cy r.id r.kind.isWrite false (fun a => r.va ≤ a && a < r.va + r.size)) then none
  else match if s.reqStale r then none else r.ga with
  | some ga => s.remoteAt r ga
  | none =>
    let moved := r.ga.isSome
    let r := { r with shadow := s.parityOf r.vdr r.va != sh }
    let va := s.xvaOf r
    match s.walk r.target r.vdr va r.kind.need with
    | (.bad i, s) => some (s.remoteBad r { i with addr := r.va })
    | (.ok w, s) =>
      if 2 ≤ pteHome w.leaf then
        some (s.remoteBad r { cause := .xlInvalid, addr := r.va, level := if w.big then 2 else 3, wr := r.kind.isWrite, aux := w.leaf.toNat })
      else
        let ist := pteIst w.leaf && (match r.kind with
          | .ratm _ => true
          | _ => false)
        if ist then some (s.answer r (.err { cause := .remoteFault, addr := r.va, wr := true, aux := Cause.atomIst.code }))
        else
          let ga := w.ga r.target va
          let r := { r with ga := some ga, leaf := w.leaf, ptea := w.ptea, big := w.big, tgen := w.gen }
          if s.behind r then none
          else match if r.kind.isWrite && !pteD w.leaf then s.setDirty r.target r.vdr w.ptea va w.big else some s with
          | none => some (s.remoteBad r (dirtyEcc r.va))
          | some s => if moved then s.remoteAt r ga else s.toRemoteHome r ga

/-- Puts a posted store's SEQ back as the next one due: it was turned away and comes again (R184). -/
def State.reopen (s : State) (sp : Space) (seq : Nat) : State :=
  { s with reorders := updIf s.reorders (·.space == sp) (fun w => { w with next := seq }) }

/-- REMOTE_FAULT_PARK: a remote request that met a fault is parked and reported to Kiln, or answered busy when the queue is full (R184). -/
def execRemoteFaultPark (s : State) : Host.Outcome State Fault Refusal :=
  match s.cur with
  | .event (.num n) =>
    match s.req? n with
    | some r =>
      match r.stage, r.reply with
      | .home, some (.err i) =>
        if (s.parked.filter (·.pkg == r.target)).length < 4096 then
          let p : ParkRec := { pkg := r.target, req := r.id, cause := i.cause.code, next := s.now + 80000, rank := none }
          let s := { s with parked := s.parked ++ [p] }
          let s := s.updReq r.id (fun r => { r with stage := .parked, reply := none })
          .next (s.pushRecord r.target r.vdr.part (fun seq =>
            { cause := i.cause.code, part := r.vdr.part, vdid := r.vdr.vd, bent := r.br.bent, raiseid := r.br.rid, ecx := r.cx, ecy := r.cy,
              eng := false, unit := 0, blk := r.blk, slot := r.slot, port := 0, tag := r.tag, addr := i.addr, level := i.level, wr := i.wr,
              park := true, j := 0, refc := 0, fire := 0, sub := 0, grp := 0, kstep := 0, acc := 0, seq := seq, aux := i.aux,
              cycle := match s.bent? r.br with
                | some b => b.cycles s.now
                | none => 0 }))
        else
          let s := (s.count .busyn r.target (portVc r.homeCell.die 7)).updReq r.id (fun r => { r with stage := .turned, ga := none, reply := none })
          let s := match r.space with
            | some sp => if r.kind = AccKind.rstp then s.reopen sp r.seq
                else { s with dedups := updIf s.dedups (·.holds sp) (fun d => { d with entries := d.entries.filter (·.seq != r.seq) }) }
            | none => s
          .next (s.sendHeader .busy r.homeCell (s.reqCell r) r.vdr.part (.cont r.id) r.space r.seq r.tag (.notice r.id))
      | _, _ => .next s
    | none => .next s
  | _ => .next s

/-- KEEP_WAIT_TIMER: every 80,000 cycles a KEEP-WAIT for a parked request; none for a posted store (R184). -/
def execKeepWaitTimer (p : Pkg) (idx : Nat) (s : State) : Host.Outcome State Fault Refusal :=
  match (s.parked.filter (·.pkg == p))[idx]? with
  | none => .next s
  | some k =>
    if s.now < k.next then .next s
    else
      let s := { s with parked := updIf s.parked (· == k) (fun k => { k with next := k.next + 80000 }) }
      match k.rank with
      | some rank =>
        match s.mcops.find? (·.id == k.req) with
        | some m =>
          let dst := match s.bent? m.br with
            | some b => b.cell m.cx m.cy
            | none => dieCell p 0
          .next (s.sendHeader .keepwait (dieCell p 0) dst (s.vdOf m.br.rid).part (.cont m.id) none 0 m.tag (.mcq m.id rank))
        | none => .next s
      | none =>
        match s.req? k.req with
        | some r =>
          if r.kind = .rstp then .next s
          else .next (s.sendHeader .keepwait r.homeCell (s.reqCell r) r.vdr.part (.cont r.id) r.space r.seq r.tag (.notice r.id))
        | none => .next s

/-- Takes a message out of the inbox by its number. -/
def State.takeMsg (s : State) (n : Nat) : Option (Msg × State) :=
  match s.inbox.find? (·.mid == n) with
  | some m => some (m, { s with inbox := s.inbox.filter (·.mid != n) })
  | none => none

/-- A member's request was turned away: its timer restarts, and it goes again after 64 cycles, doubled at each further notice (R184, R211). -/
def McOp.turnedAway (o : McOp) (rank now : Nat) : McOp :=
  let k := ((o.busy.find? (·.rank == rank)).map (·.count)).getD 0
  { o with deadlines := o.deadlines.set rank (now + 4000000)
           busy := o.busy.filter (·.rank != rank) ++ [{ rank := rank, count := k + 1, at_ := some (now + 64 * 2 ^ k) }] }

/-- KEEP_WAIT_ARRIVAL: a KEEP-WAIT, a BUSY or a trimmed reply's header restarts the requester's timer; a BUSY also sets the time to send the
request again (R184, R208). -/
def execKeepWaitArrival (s : State) : Host.Outcome State Fault Refusal :=
  match s.cur with
  | .event (.num n) =>
    match s.takeMsg n with
    | none => .next s
    | some (m, t) =>
      match m.kind, m.body with
      | .keepwait, .notice id => .next (t.updReq id (fun r => { r with deadline := s.now + 4000000 }))
      | .keepwait, .mcq id rank => .next { t with mcops := updIf t.mcops (·.id == id) (fun o =>
          { o with deadlines := o.deadlines.set rank (s.now + 4000000) }) }
      | .busy, .notice id => .next (t.updReq id (fun r =>
          { r with deadline := s.now + 4000000, busy := r.busy + 1, resendAt := s.now + 64 * 2 ^ r.busy }))
      | .busy, .mcq id rank => .next { t with mcops := updIf t.mcops (·.id == id) (fun o => o.turnedAway rank s.now) }
      | _, _ => .next s
  | _ => .next s

/-- The window of a posted store that is discarded after it was turned away moves past it. -/
def State.passOver (s : State) (sp : Space) (seq : Nat) : State :=
  { s with reorders := updIf s.reorders (·.space == sp) (fun w => { w with next := (seq + 1) % 512 }) }

/-- A member's request that was turned away goes again, to that member alone, once its delay has passed; after 8 attempts the operation ends with
REMOTE_BUSY (R184, R211). -/
def State.memberResend (s : State) (m : McOp) : State :=
  match m.busy.find? (fun w => w.at_.elim false (· ≤ s.now)) with
  | none => s
  | some w =>
    let member := (s.groupSets.find? (fun g => g.br == m.br && g.cx == m.cx && g.cy == m.cy && g.group == m.group)).bind (fun g => g.members[w.rank]?)
    let rest := fun (m : McOp) => { m with busy := updIf m.busy (·.rank == w.rank) (fun x => { x with at_ := none }) }
    match member with
    | none => s
    | some x =>
      if m.frozen then s
      else if 8 ≤ w.count then
        ({ s with mcops := updIf s.mcops (·.id == m.id) (fun m => { m with frozen := true, busy := [] }) } : State).fault
          { br := m.br, u := .elem m.cx m.cy, blk := m.blk, slot := m.slot, tag := m.tag, a := m.a, b := m.b, p := m.p }
          { cause := .remoteBusy, wr := m.data.isSome, aux := x.pkg.px * 64 + x.pkg.py }
      else
        let s := { s with mcops := updIf s.mcops (·.id == m.id) rest }
        match m.space.bind (fun sp => s.copies.find? (fun c => c.space == sp && c.seq == m.seq)) with
        | some c => (s.count .resent c.pkg (portVc c.msg.src.die 5)).resend { c.msg with dst := dieCell x.pkg x.die, unit := .ingress, body := .mcq m.id w.rank }
        | none => { s with mcops := updIf s.mcops (·.id == m.id) (fun m => { m with members := m.members.set w.rank .arrived }) }

/-- BUSY_RESEND: after its delay a request turned away goes again with its SEQ; after 8 attempts it ends with REMOTE_BUSY (R184). -/
def execBusyResend (s : State) : Host.Outcome State Fault Refusal :=
  match s.cur with
  | .event (.num n) =>
    match s.req? n with
    | some r =>
      if r.resendAt = 0 ∨ s.now < r.resendAt ∨ r.stage ≠ .turned then .next s
      else if 8 ≤ r.busy then
        if r.kind = .rstp then
          let s := match r.space with
            | some sp => s.passOver sp r.seq
            | none => s
          .next (s.losePosted r { cause := .remoteBusy, aux := r.target.px * 64 + r.target.py })
        else if r.lingers then .next (s.dropReq r.id)
        else .next (s.reqError r { cause := .remoteBusy, addr := r.va, aux := r.target.px * 64 + r.target.py })
      else
        match r.space.bind (fun sp => s.copies.find? (fun c => c.space == sp && c.seq == r.seq)) with
        | some c => .next (((s.count .resent c.pkg (portVc c.msg.src.die c.msg.vc)).updReq r.id (fun r => { r with stage := .toHome, resendAt := 0 })).resend
            c.msg)
        | none => .next (if r.space.isSome then s else s.updReq r.id (fun r => { r with stage := .home, resendAt := 0 }))
    | none =>
      match s.mcops.find? (·.id == n) with
      | some m => .next (s.memberResend m)
      | none => .next s
  | _ => .next s

/-- Whether a request goes to another package, whose silence its timer counts. R185 speaks of each outstanding request; its KEEP-WAITs, and the remote
package that its record names, are of requests between packages, and the model times only those, not one to another die of its package (log 90). -/
def State.goesOut (s : State) (r : Req) : Bool :=
  (r.kind.remote && r.target != (s.reqCell r).pkg) || (match r.ga with
    | some ga => gaPkg ga != (s.reqCell r).pkg
    | none => false)

/-- REMOTE_TIMEOUT: 4,000,000 cycles with neither a reply nor a KEEP-WAIT end a request (R185). -/
def execRemoteTimeout (s : State) : Host.Outcome State Fault Refusal :=
  match s.cur with
  | .event (.num n) =>
    match s.req? n with
    | some r =>
      let out := match r.stage with
        | .toHome | .forward | .home | .parked | .turned | .toIssuer => true
        | _ => false
      if (!r.posted || r.early) && out && s.goesOut r && r.deadline ≤ s.now then
        .next (s.reqError r { cause := .remoteTimeout, addr := r.va, aux := r.target.px * 64 + r.target.py })
      else .next s
    | none => .next s
  | _ => .next s

end Sys2Proof.Machine
end

