-- ==== Sys2Proof/Machine/Group.lean ====
section
/-! DEFINITION. Groups: AGRP and the trees it installs (R209, R210, R307), MCRED (R211 to R213, R367) and MCST (R368 to R370). -/

namespace Sys2Proof.Machine

open Sys2Proof

/-! ## Trees (R209, R210) -/

/-- The routers from a node to a cell, the node itself not among them (R196). -/
def State.pathTo (s : State) (dst : CellId) : Nat → Node → List Node
  | 0, _ => []
  | k + 1, n => match s.nextNode n dst none with
    | some m => m :: s.pathTo dst k m
    | none => []

/-- The die of a member's page: where its requests go (R210). -/
def Member.cell (x : Member) : CellId := dieCell x.pkg x.die

/-- A member's path from the AG, none for one in the AG's own die (R210). -/
def State.memberPath (s : State) (src : CellId) (x : Member) : List Node :=
  if crossesDie src x.cell then s.pathTo x.cell 4096 (.cell src) else []

/-- The die of the page that an entry of a member list names, by a walk of the member's package; while the walk finds no page there, the die by which
requests enter the package (log 44). -/
def State.pageDie (s : State) (src : CellId) (v : VdRef) (x : Member) : Member × State :=
  let door := if x.pkg = src.pkg then src.die else s.ingressDie src x.pkg
  let va := s.visibleVa v (x.va % 2 ^ 55) []
  if x.abs then (x, s)
  else match s.walk x.pkg v va needRd with
  | (.ok w, s) => ({ x with die := if gaPkg (w.ga x.pkg va) = x.pkg then (homeOf (w.ga x.pkg va)).1.die else door }, s)
  | (.bad _, s) => ({ x with die := door }, s)

/-- The members of a list with the dies of their pages. -/
def State.pageDies (s : State) (src : CellId) (v : VdRef) : List Member → List Member × State
  | [] => ([], s)
  | x :: xs =>
    let r := s.pageDie src v x
    let rest := r.2.pageDies src v xs
    (r.1 :: rest.1, rest.2)

/-- Adds a path to a tree: each router with its outputs. -/
def addPath (tree : List (Node × List Node)) : Node → List Node → List (Node × List Node)
  | n, [] => if tree.any (·.1 == n) then tree else tree ++ [(n, [])]
  | n, m :: rest =>
    let tree := if tree.any (·.1 == n) then updIf tree (·.1 == n) (fun x => if x.2.contains m then x else (x.1, x.2 ++ [m]))
      else tree ++ [(n, [m])]
    addPath tree m rest

/-- Whether the hop between two routers crosses a package link that is down (R208). -/
def State.hopDown (s : State) (n out : Node) : Bool :=
  match n, out with
  | .edge p e h, .edge q _ _ => p != q && s.down.any (fun d => d.pkg == p && d.edge == e && d.half == h)
  | _, _ => false

/-- Whether a member can be reached: its package lies in the domain, and every link of its route is up (R20, R208). -/
def State.reachable (s : State) (src : CellId) (x : Member) : Bool :=
  s.inDomain x.pkg && (x.pkg == src.pkg || (s.memberPath src x).all (fun n => match n with
    | .edge q e h => !s.down.any (fun d => d.pkg == q && d.edge == e && d.half == h)
    | _ => true))

/-- A member entry of a list (R210). -/
def memberOf (bs : List Byte) : Member :=
  let x := natOfBytes bs
  { pkg := { px := x / 2 ^ 121 % 128, py := x / 2 ^ 114 % 128 }, die := 0, abs := x / 2 ^ 64 % 2 == 1, va := x % 2 ^ 64 }

/-! ## Tag ranges at an ingress (R208, R224) -/

/-- Whether a tag lies in the contexts of a partition on a package (R222, R223). -/
def State.tagInPart (s : State) (pkg : Pkg) (part : Nat) (t : Tag) : Bool :=
  match s.part? part with
  | some p => (p.share pkg).ctxBase ≤ t.ctx && t.ctx ≤ (p.share pkg).ctxLim
  | none => false

/-- A die ingress logs a TAG_RANGE drop: a record at most once in 65,536 cycles, with the drops since its last. -/
def State.ingressRange (s : State) (p : Pkg) (die part : Nat) (tag : Tag) : State :=
  let l : RangeLog := (s.rangeLogs.find? (fun x => x.pkg == p && x.die == die)).getD { pkg := p, die := die, count := 0, next := 0 }
  let put := fun (s : State) (l : RangeLog) => { s with rangeLogs := l :: s.rangeLogs.filter (fun x => !(x.pkg == p && x.die == die)) }
  if s.now < l.next then put s { l with count := l.count + 1 }
  else
    (put s { l with count := 0, next := s.now + 65536 }).pushRecord p part (fun seq =>
      { cause := Cause.tagRange.code, part := part, vdid := 0, bent := 0, raiseid := 0xFFFFFFFF, ecx := 0, ecy := 0, eng := false, unit := 0,
        blk := 0, slot := 0, port := 0, tag := tag, addr := 0, level := 0, wr := false, park := false, j := 0, refc := 0, fire := 0, sub := 0,
        grp := 0, kstep := 0, acc := 0, seq := seq, aux := l.count + 1, cycle := 0 })

/-! ## AGRP -/

/-- The MCRED and MCST operations of a group on its AG. -/
def State.groupOps (s : State) (br : BentRef) (cx cy group : Nat) : List McOp :=
  s.mcops.filter (fun m => m.br == br && m.cx == cx && m.cy == cy && m.group == group)

/-- The entries of a group's tree: for each router its outputs toward the members, its output toward the root, N, and the ranks below each input
(R210). -/
def State.treeEntries (s : State) (part group : Nat) (br : BentRef) (cx cy : Nat) (src : CellId) (members : List Member) : List GroupEntry :=
  let paths := members.map (fun m => if m.abs || !s.reachable src m then [] else s.memberPath src m)
  let tree := paths.foldl (fun tr p => if p.isEmpty then tr else addPath tr (.cell src) p) [(Node.cell src, [])]
  tree.map (fun x =>
    { part := part, group := group, owner := br, cx := cx, cy := cy, node := x.1, outs := x.2,
      root := ((tree.find? (fun y => y.2.contains x.1)).map (·.1)).getD x.1, n := members.length,
      below := x.2.map (fun o => (o, (List.range paths.length).filter (fun r => (paths.getD r []).contains o))), came := false, acked := false })

/-- The CONFIG message that installs a group's tree, from the AG's own router (R210). -/
def State.sendConfig (s : State) (c : Ctx) (part req : Nat) : State :=
  let (id, s) := s.newId
  let src := s.srcCell c
  s.inject (.cell src)
    { mid := id, kind := .config, src := src, dst := src, unit := .cont req, hubDst := false, tag := c.tag, len := 0, trim := false, gen := 0, seq := 0,
      space := none, part := part, sub := 0, body := .install req }

/-- AGRP: reads the member list and begins to install the group's tree; it waits while the group is in use, or an earlier AGRP is still installing it,
which emits before it is replaced (R210, R307). -/
def execAgrp (o : SlotOps) (s : State) : Host.Outcome State Fault Refusal :=
  s.runFiring o (fun c =>
    match s.elemOf c with
    | some e =>
      let g := o.xf 0 8
      let n := o.xf 8 6 + 1
      let va := laneAt c.atok.pay 64 0
      if va % 16 ≠ 0 then .next (s.fault c { cause := .misaligned, addr := va })
      else if !(s.groupOps c.br e.cx e.cy g).isEmpty ||
          s.groupSets.any (fun x => x.br == c.br && x.cx == e.cx && x.cy == e.cy && x.group == g && !x.installed) then s.wait
      else
        let src := s.srcCell c
        let v := s.vdOf c.br.rid
        let addrs := (List.range (16 * n)).map (fun i => (va + i) % 2 ^ 64)
        let x : Access := { br := c.br, spad := src, loc := false, need := needRd, sh := false, gens := s.gensNow v (addrs.map (· % 2 ^ 55)),
                            tile := false, owner := 0, ag := some (e.cx, e.cy), since := s.nextId }
        match s.engineLoad x [] addrs with
        | .waits => s.wait
        | .bad i _ t => .next ((t.fault c i).eccFreeze c.br e.cx e.cy i)
        | .ok bs _ t =>
          let ms := t.pageDies src v ((List.range n).map (fun r =>
            let m := memberOf ((bs.drop (16 * r)).take 16)
            { m with abs := m.abs || !s.inDomain m.pkg }))
          let t := ms.2
          let r := { Req.make t c .agrp va 16 0 with stage := .toHome, warn := (prEff o).2 ||| tilehd c ||| rsvx (o.xf 14 15 != 0) }
          let t := t.putReq r
          let set_ : GroupSet := { part := v.part, group := g, br := c.br, cx := e.cx, cy := e.cy, req := r.id, installed := false, members := ms.1 }
          let mine := fun (x : GroupEntry) => x.owner == c.br && x.cx == e.cx && x.cy == e.cy && x.group == g
          let t := { t with
            groupSets := t.groupSets.filter (fun (x : GroupSet) => !(x.br == c.br && x.cx == e.cx && x.cy == e.cy && x.group == g)) ++ [set_]
            groups := t.groups.filter (fun x => !mine x) ++ t.treeEntries v.part g c.br e.cx e.cy src ms.1 }
          .next (t.sendConfig c v.part r.id)
    | none => .next s)

/-- AGRP emits once every router of its tree has acknowledged, and its bent is not sealed (R210, R230). -/
def State.groupReady (s : State) (r : Req) (set_ : GroupSet) : State :=
  if s.groups.any (fun x => x.owner == set_.br && x.cx == set_.cx && x.cy == set_.cy && x.group == set_.group && !x.acked) || !s.bentLive r.br then s
  else
    (({ s with groupSets := updIf s.groupSets (·.req == r.id) (fun x => { x with installed := true }) } : State).dropReq r.id).emitReq r r.ctx.atok.plain

/-- GROUP_INSTALL_ACK: a router of a tree that the CONFIG message has reached takes its entry, once one of its 1,024 is free, and acknowledges
(R210). -/
def execGroupInstallAck (req : Nat) (n : Node) (s : State) : Host.Outcome State Fault Refusal :=
  match s.req? req, s.groupSets.find? (·.req == req) with
  | some r, some set_ =>
    let mine := fun (x : GroupEntry) => x.owner == set_.br && x.cx == set_.cx && x.cy == set_.cy && x.group == set_.group
    if s.groups.any (fun x => mine x && x.node == n && !x.acked) && 1024 ≤ (s.groups.filter (fun x => x.node == n && x.acked)).length then .next s
    else .next (({ s with groups := updIf s.groups (fun x => mine x && x.node == n && x.came) (fun x => { x with acked := true }) } : State).groupReady r
      set_)
  | _, _ => .next s

/-! ## Issuing MCRED and MCST -/

/-- Changes an operation. -/
def State.updOp (s : State) (id : Nat) (f : McOp → McOp) : State := { s with mcops := updIf s.mcops (·.id == id) f }

/-- The firing of an operation. -/
def McOp.ctx (m : McOp) : Ctx :=
  { br := m.br, u := .elem m.cx m.cy, blk := m.blk, slot := m.slot, tag := m.tag, a := m.a, b := m.b, p := m.p }

/-- The cell of an operation's AG. -/
def State.opCell (s : State) (m : McOp) : CellId := s.srcCell m.ctx

/-- The group of an operation. -/
def State.opGroup (s : State) (m : McOp) : Option GroupSet :=
  s.groupSets.find? (fun g => g.br == m.br && g.cx == m.cx && g.cy == m.cy && g.group == m.group && g.installed)

/-- An operation's members that a router's delivery reaches: those whose paths end there. -/
def State.membersAt (s : State) (m : McOp) (n : Node) : List Nat :=
  match s.opGroup m with
  | some g => (List.range g.members.length).filter (fun r => match g.members[r]? with
    | some x => !x.abs && Node.cell (if crossesDie (s.opCell m) x.cell then x.cell else s.opCell m) == n
    | none => false)
  | none => []

/-- The cell from which a member answers. -/
def State.memberCell (s : State) (m : McOp) (rank : Nat) : CellId :=
  match (s.opGroup m).bind (fun g => g.members[rank]?) with
  | some x => x.cell
  | none => s.opCell m

/-- Sends a member's WRACK to the root (R369). -/
def State.sendWrack (s : State) (m : McOp) (rank : Nat) : State :=
  let src := s.memberCell m rank
  let (id, s) := s.newId
  s.inject (.cell src)
    { mid := id, kind := .wrack, src := src, dst := s.opCell m, unit := .cont m.id, hubDst := false, tag := m.tag, len := 0, trim := false, gen := 0,
      seq := m.seq, space := m.space, part := (s.vdOf m.br.rid).part, sub := 0, body := .mcd m.id rank }

/-- A member's request has arrived. A second copy is dropped (R202), and a write that was performed is acknowledged again (R369). -/
def State.arrive (s : State) (id rank : Nat) : State :=
  match s.mcops.find? (·.id == id) with
  | none => s
  | some m =>
    match m.members.getD rank .absent with
    | .waiting => s.updOp id (fun m => { m with members := m.members.set rank .arrived })
    | st =>
      let c := s.memberCell m rank
      let s := if crossesDie (s.opCell m) c then s.count .dupdrop c.pkg (portVc c.die 5) else s
      if st = .answered ∧ m.data.isSome then s.sendWrack m rank else s

/-- Whether a message travels down a group's tree: an MCRQ or MCDATA, or the CONFIG message that installs the tree; one sent again to a single member
names its ingress (R202, R209, R210). -/
def Msg.isTree (m : Msg) : Bool :=
  match m.body with
  | .mcq _ _ => m.unit != .ingress
  | .install _ => true
  | _ => false

/-- The entry of a router for the tree that a message travels down (R210). -/
def State.treeEntry (s : State) (msg : Msg) (n : Node) : Option GroupEntry :=
  match msg.body with
  | .mcq id _ => (s.mcops.find? (·.id == id)).bind (fun m =>
      s.groups.find? (fun x => x.owner == m.br && x.cx == m.cx && x.cy == m.cy && x.group == m.group && x.node == n))
  | .install req => (s.groupSets.find? (·.req == req)).bind (fun m =>
      s.groups.find? (fun x => x.owner == m.br && x.cx == m.cx && x.cy == m.cy && x.group == m.group && x.node == n))
  | _ => none

/-- What a router's own delivery of a message of a tree does: members whose paths end there receive it, or its trimmed header at their ingress, which
drops a message whose tag lies outside the partition's range (R208, R224); a CONFIG message brings the router its entry (R209, R210). -/
def State.treeHere (s : State) (msg : Msg) (n : Node) : State :=
  match msg.body with
  | .mcq id _ =>
    match s.mcops.find? (·.id == id) with
    | none => s
    | some m => (s.membersAt m n).foldl (fun s r =>
        let c := s.memberCell m r
        if crossesDie (s.opCell m) c && !s.tagInPart c.pkg msg.part msg.tag then
          (s.ingressRange c.pkg c.die msg.part msg.tag).sendError (dieCell c.pkg c.die) msg.src msg.part (.cont id) msg.space msg.seq msg.tag (some id)
            Cause.remoteFault.code Cause.tagRange.code 0
        else if msg.trim then
          let (mid, s) := s.newId
          { s with inbox := s.inbox ++ [{ msg with mid := mid, dst := s.memberCell m r, unit := .ingress, body := .mcq id r }] }
        else s.arrive id r) s
  | .install _ =>
    match s.treeEntry msg n with
    | some e => { s with groups := updIf s.groups (· == e) (fun e => { e with came := true }) }
    | none => s
  | _ => s

/-- A message of a tree at a router: delivered there, and one copy of it held for its outputs (R209). -/
def State.treeAt (s : State) (msg : Msg) (n : Node) : State :=
  let outs := (s.treeEntry msg n).elim [] (·.outs)
  let s := s.treeHere msg n
  if outs.isEmpty then s else { s with mccopies := s.mccopies ++ [({ node := n, msg := msg, pending := outs } : McCopy)] }

/-- The message of an operation (R193, R211, R369). -/
def State.mcMsg (s : State) (m : McOp) (id : Nat) (sp : Space) (seq rank : Nat) : Msg :=
  let src := s.opCell m
  { mid := id, kind := if m.data.isSome then .mcdata else .mcrq, src := src, dst := src, unit := .cont m.id, hubDst := false, tag := m.tag,
    len := 0, trim := false, gen := 0, seq := seq, space := some sp, part := (s.vdOf m.br.rid).part, sub := 0, body := .mcq m.id rank }

/-- Whether a message of an operation crosses a die edge on its way to some member (R197). -/
def State.mcCrosses (s : State) (m : McOp) : Bool :=
  (s.opGroup m).elim false (fun g => g.members.any (fun x => !x.abs && crossesDie (s.opCell m) x.cell))

/-- Sends an operation down its tree: again under its SEQ for a replay (R202, R369), unsequenced where no route crosses a die edge (R197). None
while its space or the buffer is full (R197). -/
def State.mcSend (s : State) (m : McOp) : Option State :=
  let src := s.opCell m
  let v := s.vdOf m.br.rid
  let sp : Space := .group v.part src.pkg src.die m.group
  let (id, t) := s.newId
  if !s.mcCrosses m then some (t.inject (.cell src) { s.mcMsg m id sp 0 0 with space := none })
  else
    let fresh := !s.copies.any (fun c => some c.space == m.space && c.seq == m.seq)
    if fresh && !s.spaceFree sp v.part src.pkg 48 then none
    else
      let q := if m.space.isSome then m.seq else (s.seqSpace sp).next
      let msg := s.mcMsg m id sp q 0
      let t := if m.space.isSome then t else t.updSeq sp (fun x => { x with next := (x.next + 1) % 512 })
      let t := t.updSeq sp (fun x => { x with outstanding := x.outstanding.filter (· != q) ++ [q] })
      let c : TxCopy := { part := v.part, pkg := src.pkg, space := sp, seq := q, msg := msg, vd := v.vd, waiting := List.range m.members.length }
      let t := { t with copies := if fresh then t.copies ++ [c] else t.copies }
      some ((t.updOp m.id (fun m => { m with space := some sp, seq := q })).inject (.cell src) msg)

/-- Issues an MCRED or MCST, or replays a frozen one with its SEQ (R367, R369). An MCRED waits for its group before it looks at its offset (R211), an
MCST after (R369). -/
def State.mcIssue (s : State) (o : SlotOps) (c : Ctx) (data : Option W256) (leaf : Nat) : Host.Outcome State Fault Refusal :=
  match s.elemOf c with
  | none => .next s
  | some e =>
    let off := laneAt c.atok.pay 64 0
    let g := o.xf 0 8
    let off_ : Host.Outcome State Fault Refusal := .next (s.fault c { cause := .misaligned, addr := off, wr := data.isSome })
    if data.isSome && off % leaf != 0 then off_
    else match s.groupSets.find? (fun x => x.br == c.br && x.cx == e.cx && x.cy == e.cy && x.group == g && x.installed) with
    | none => s.wait
    | some set_ =>
      if off % leaf ≠ 0 then off_
      else match s.mcops.find? (fun m => m.br == c.br && m.blk == c.blk && m.slot == c.slot && m.tag == c.tag && m.frozen) with
      | some m =>
        let m := { m with frozen := false, busy := [], a := c.a, b := c.b, p := c.p, deadlines := m.deadlines.map (fun _ => s.now + 4000000),
                          members := m.members.map (fun x => if x = .arrived then .waiting else x) }
        match (s.updOp m.id (fun _ => m)).mcSend m with
        | some t => .next t
        | none => s.wait
      | none =>
        if 16 ≤ (s.mcops.filter (fun m => m.br == c.br && m.cx == e.cx && m.cy == e.cy)).length then s.wait
        else
          let (id, t) := s.newId
          let src := s.srcCell c
          let m : McOp :=
            { id := id, br := c.br, cx := e.cx, cy := e.cy, blk := c.blk, slot := c.slot, tag := c.tag, a := c.a, b := c.b, p := c.p, data := data,
              group := g, off := off, rnd := BitVec.ofNat 3 (rndOf o.mod (s.rmodeOf c.br c.u)).1.code,
              members := set_.members.map (fun x => if x.abs || !s.reachable src x then .absent else .waiting),
              deadlines := set_.members.map (fun _ => s.now + 4000000), nodes := [], space := none, seq := 0, busy := [], frozen := false }
          match ({ t with mcops := t.mcops ++ [m] } : State).mcSend m with
          | some t => .next t
          | none => s.wait

/-- The bytes of a leaf (R211). -/
def leafBytes (o : SlotOps) : Nat := if o.xf 8 4 = 0 ∧ o.ty = 0xA then 16 else 32

/-- MCRED (R211, R367). -/
def execMcred (o : SlotOps) (s : State) : Host.Outcome State Fault Refusal :=
  s.runFiring o (fun c => s.mcIssue o c none (leafBytes o))

/-- MCST (R368, R369). -/
def execMcst (o : SlotOps) (s : State) : Host.Outcome State Fault Refusal :=
  s.runFiring o (fun c => s.mcIssue o c (some c.btok.plain.pay) 32)

/-! ## Forwarding and combining in routers (R209, R212) -/

/-- Whether an output of a router crosses a die edge, the hub die's among them, or a package edge, where messages may be trimmed and combined (R199, R212). -/
def edgeOut (n out : Node) : Bool :=
  match n, out with
  | .cell a, .cell b => a.die != b.die
  | .cell _, .edge _ _ _ => true
  | .edge _ _ _, _ => true
  | .cell _, .hub _ _ _ => true
  | .hub _ _ _, _ => true

/-- The slots that a message takes: one for each flit, and on VC 7 one for each beat, three of an ERROR and one of a header (R189, R193, R194). -/
def Msg.slots (m : Msg) : Nat := if m.vc = 7 then (if m.kind = .error then 3 else 1) else if m.kind = .sack then 1 else m.len + 1

/-- The slots of a queue that are in use (R194). -/
def State.occupancy (s : State) (n out : Node) (vc sub : Nat) : Nat :=
  match s.fqueues.find? (fun q => q.node == n && q.out == out && q.vc == vc && q.sub == sub) with
  | some q => (q.msgs.map (·.slots)).foldl (· + ·) 0
  | none => 0

/-- The slots of a queue, and the default trim threshold (R194). -/
def vcSlots (vc : Nat) : Nat := match vc with
  | 0 => 16 | 3 => 128 | 6 => 16 | _ => 64
/-- The default TRIMTH of a VC. -/
def vcTrim (vc : Nat) : Nat := if vc = 3 then 96 else 48

/-- TRIMTH of an output and VC (R199). -/
def State.trimTh (s : State) (n out : Node) (vc : Nat) : Nat :=
  match s.trimths.find? (fun t => t.node == n && t.out == out && t.vc == vc) with
  | some t => t.th
  | none => vcTrim vc

/-- The package and a number of a router, for its counters. -/
def Node.port (n : Node) : Pkg × Nat :=
  match n with
  | .cell c => (c.pkg, c.y * 128 + c.x)
  | .edge p e h => (p, 16384 + 2 * (match e with
    | .north => 0
    | .south => 1
    | .west => 2
    | .east => 3) + h)
  | .hub p u d => (p, 16392 + 4 * u + d)

/-- Whether a message may be trimmed (R193, R197): one that is sequenced, or answers a sequenced request, and of a trimmable kind; not a pinned request,
and of an MCUP a leaf alone (R212). -/
def Msg.trimmable (m : Msg) : Bool :=
  !m.trim && m.space.isSome && (match m.kind with
    | .rdreq | .wrreq | .atreq | .rdrep | .wrack | .atrep | .bulk | .bulkH | .bulkT | .bulkHT | .post | .mcdata | .mcrq => true
    | .mcup => true
    | _ => false)

/-- A message enters a queue of a router output while its slots last (R194, R195); over TRIMTH at an edge its payload is discarded and the
header goes on (R199). None while there is no slot. -/
def State.toOutput (s : State) (node out : Node) (m : Msg) : Option State :=
  let occ := s.occupancy node out m.vc m.sub
  if m.trimmable && edgeOut node out && 1 ≤ m.vc && m.vc ≤ 5 && s.trimTh node out m.vc < occ + m.len + 1 then
    if s.occupancy node out 7 m.sub < vcSlots 7 then
      some ((s.enqueue node out 7 m.sub { m with trim := true, vc := 7 }).count .trimmed node.port.1 (portVc node.port.2 m.vc))
    else none
  else if occ + m.slots ≤ vcSlots m.vc then some (s.enqueue node out m.vc m.sub m)
  else none

/-- The routers of a tree at and below one. -/
def belowNode (es : List GroupEntry) : Nat → Node → List Node
  | 0, n => [n]
  | k + 1, n => n :: ((es.find? (·.node == n)).elim [] (·.outs)).flatMap (belowNode es k)

/-- A branch beyond a link that is down: its members are absent, and its routers take no part in the tree (R208, R213, R369). -/
def State.loseBranch (s : State) (k : McCopy) (out : Node) : State :=
  let below := (s.treeEntry k.msg k.node).elim [] (fun e => ((e.below.find? (·.1 == out)).map (·.2)).getD [])
  let lose := fun (l : List McState) (r : Nat) => if l.getD r .absent = .waiting then l.set r .absent else l
  match k.msg.body with
  | .mcq id _ => s.updOp id (fun o => { o with members := below.foldl lose o.members })
  | .install req =>
    match s.groupSets.find? (·.req == req) with
    | some g =>
      let mine := fun (x : GroupEntry) => x.owner == g.br && x.cx == g.cx && x.cy == g.cy && x.group == g.group
      let lost := belowNode (s.groups.filter mine) s.groups.length out
      { s with groups := s.groups.filter (fun x => !(mine x && lost.contains x.node)) }
    | none => s
  | _ => s

/-- Sends a copy on one of its outputs, as the output's credits allow; at a die edge or package edge over TRIMTH this branch alone is trimmed, and
its header follows the branch (R209). None while the output has no slot. -/
def State.branch (s : State) (k : McCopy) (out : Node) : Option State :=
  if s.hopDown k.node out then some (s.loseBranch k out) else s.toOutput k.node out k.msg

/-- MULTICAST_FORWARD: a copy goes on some output that it still waits for and that has a credit, and leaves once its mask is clear (R209). -/
def execMulticastForward (s : State) : Host.Outcome State Fault Refusal :=
  match s.cur with
  | .event (.num i) =>
    match s.mccopies[i]? with
    | none => .next s
    | some k =>
      match k.pending.findSome? (fun out => (s.branch k out).map (fun t => (out, t))) with
      | none => .next s
      | some (out, t) =>
        let pending := k.pending.erase out
        .next { t with mccopies := if pending.isEmpty then t.mccopies.eraseIdx i else t.mccopies.set i { k with pending := pending } }
  | _ => .next s

/-- The operation of MCRED as a reduction's number (R54, R211). -/
def mcredOp (op : Nat) : Nat :=
  match op with
  | 0 => 6 | 1 => 0 | 2 => 4 | 3 => 5 | 4 => 1 | 5 => 2 | _ => 3

/-- The type of the lanes of an MCRED's contributions: bf16 leaves of FADD are widened to f32 (R211). -/
def mcLaneTy (op ty : Nat) : Nat := if op = 0 ∧ ty = 0xA then 9 else ty

/-- The slot fields of an operation. -/
def State.mcOps (s : State) (m : McOp) : SlotOps := s.opsAt m.br.rid m.blk m.slot

/-- One node of the canonical tree from its two halves (R6, R132, R212). -/
def joinNodes (a b : McNode) : McNode :=
  let z := combinePay (mcredOp a.op) (mcLaneTy a.op a.ty) (rndCode a.rnd.toNat) a.lanes b.lanes
  { a with k := a.k + 1, lanes := z.1, flags := a.flags ||| b.flags ||| z.2 }

/-- A node passed up every level whose sibling range lies at or above N, without rounding (R212). -/
def McNode.lift (n : Nat) (x : McNode) : Nat → McNode
  | 0 => x
  | f + 1 => if x.first / 2 ^ x.k % 2 = 0 ∧ n ≤ x.first + 2 ^ x.k ∧ 2 ^ x.k < n then McNode.lift n { x with k := x.k + 1 } f else x

/-- The first rank and width of a node's sibling. -/
def McNode.sibling (x : McNode) : Nat := if x.first / 2 ^ x.k % 2 = 0 then x.first + 2 ^ x.k else x.first - 2 ^ x.k

/-- The retransmit copy of a leaf that a contribution still is (R212). -/
def State.leafCopy (s : State) (n : McNode) : Option TxCopy :=
  if n.k ≠ 0 then none
  else s.copies.find? (fun c => match c.msg.body with
    | .mcu x _ => x == n
    | _ => false)

/-- Releases the copy of a leaf that has reached the root or a node (R198). -/
def State.releaseLeaf (s : State) (n : McNode) : State :=
  match s.leafCopy n with
  | some c => s.release c.space c.seq
  | none => s

/-- Sends a contribution on from a router toward the root: a leaf as it came, a combined one pinned and unsequenced (R212). None while there
is no slot. -/
def State.sendNode (s : State) (node : Node) (r : RedSlot) : Option State :=
  let (id, s) := s.newId
  let m : Msg := match s.leafCopy r.n with
    | some c => c.msg
    | none =>
      { mid := id, kind := .mcup, src := r.root, dst := r.root, unit := .cont r.n.req, hubDst := false,
        tag := (s.mcops.find? (·.id == r.n.req)).elim 0 (·.tag), len := 0, trim := false, gen := 0, seq := r.n.flags.toNat % 32, space := none,
        part := ((s.mcops.find? (·.id == r.n.req)).map (fun o => (s.vdOf o.br.rid).part)).getD 0, sub := 0, body := .mcu r.n r.group }
  match s.nextNode node r.root none with
  | some out => s.toOutput node out { m with sub := r.sub }
  | none => some s

/-- N of the group that a contribution belongs to, as the router's entry holds it (R210). -/
def State.slotN (s : State) (x : RedSlot) : Option Nat :=
  (s.groups.find? (fun e => e.node == x.node && e.group == x.group && e.acked &&
    ((s.bent? e.owner).map (fun b => b.cell e.cx e.cy)) == some x.root)).map (·.n)

/-- The N by which a router passes a range up a level: that of its entry; a router that is no part of the group's tree has none, and passes none up
(R212). -/
def State.redN (s : State) (x : RedSlot) : Nat := (s.slotN x).getD 64

/-- MCUP_COMBINE: a router forms a node from two siblings it holds, rounded once, and sends it on (R212), on subchannel 1 if either came on it (R196). -/
def execMcupCombine (s : State) : Host.Outcome State Fault Refusal :=
  match s.cur with
  | .event (.num i) =>
    match s.redslots[i]? with
    | none => .next s
    | some x =>
      let n := s.redN x
      let xn := x.n.lift n 6
      match s.redslots.find? (fun y => y.node == x.node && y.n.req == x.n.req && y != x &&
          (let yn := y.n.lift n 6
           yn.k == xn.k && yn.first == xn.sibling)) with
      | none => .next s
      | some y =>
        let yn := y.n.lift n 6
        let z := if xn.first < yn.first then joinNodes xn yn else joinNodes yn xn
        let t := { s with redslots := (s.redslots.erase x).erase y }
        .next ((((t.releaseLeaf x.n).releaseLeaf y.n).sendNode x.node { x with sub := Nat.max x.sub y.sub, n := z.lift n 6 }).getD s)
  | _ => .next s

/-- MCUP_SLOT_TIMEOUT: a contribution that waited 256 cycles for its sibling goes on unchanged (R212). -/
def execMcupSlotTimeout (s : State) : Host.Outcome State Fault Refusal :=
  match s.cur with
  | .event (.num i) =>
    match s.redslots[i]? with
    | none => .next s
    | some x => if s.now < x.since + 256 then .next s else .next ((({ s with redslots := s.redslots.erase x } : State).sendNode x.node x).getD s)
  | _ => .next s

/-! ## Members (R184, R211, R213, R369) -/

/-- The copy of an operation's message is released once every member has answered or is absent (R198). -/
def State.settleCopy (s : State) (id : Nat) : State :=
  match s.mcops.find? (·.id == id) with
  | some m => if m.members.all (fun x => x == .done || x == .absent) then m.space.elim s (fun sp => s.release sp m.seq) else s
  | none => s

/-- A contribution reaches the root: its ranks are done; one with a member declared absent is discarded (R213). -/
def State.rootNode (s : State) (x : McNode) : State :=
  (s.updOp x.req (fun m =>
    if m.nodes.any (fun y => y.first == x.first) then m
    else
      let covered := (List.range m.members.length).filter (fun r => x.first ≤ r && r < x.first + 2 ^ x.k)
      { m with nodes := if covered.any (fun r => m.members.getD r .absent == .absent) then m.nodes else m.nodes ++ [x]
               members := covered.foldl (fun l r => if l.getD r .absent = .absent then l else l.set r .done) m.members })).settleCopy x.req

/-- An error of a member or message freezes the operation under its tag (R202, R207, R369). -/
def State.mcFreeze (s : State) (m : McOp) (i : FaultInfo) : State :=
  if m.frozen then s else (s.updOp m.id (fun m => { m with frozen := true })).fault m.ctx { i with wr := m.data.isSome }

/-- A leaf's lanes: bf16 values widened exactly to f32, or the 32 bytes themselves (R211). -/
def leafLanes (o : SlotOps) (bs : List Byte) : W256 :=
  if leafBytes o = 16 then
    BitVec.ofNat 256 (packLanes 32 ((List.range 8).map (fun i => natOfBytes ((bs.drop (2 * i)).take 2) * 2 ^ 16)))
  else BitVec.ofNat 256 (natOfBytes bs)

/-- A member's answer goes to the root: as a message where its route crosses a die edge (R197, R212). -/
def State.memberAnswer (s : State) (m : McOp) (rank : Nat) (from_ : CellId) (leaf : Option W256) : State :=
  let root := s.opCell m
  let part := (s.vdOf m.br.rid).part
  let out := crossesDie from_ root
  let s := s.updOp m.id (fun m => { m with members := m.members.set rank (if out then .answered else .done) })
  match leaf with
  | none => if out then s.sendWrack m rank else s
  | some l =>
    let o := s.mcOps m
    let n : McNode := { req := m.id, first := rank, k := 0, rnd := m.rnd, op := o.xf 8 4, ty := o.ty.toNat, lanes := l, flags := 0 }
    if !out then s.rootNode n
    else
      let (id, s) := s.newId
      let msg : Msg := { mid := id, kind := .mcup, src := from_, dst := root, unit := .cont m.id, hubDst := false,
                         tag := m.tag, len := 0, trim := false, gen := 0, seq := m.seq, space := m.space, part := part, sub := 0, body := .mcu n m.group }
      (s.sendSeq (.leaf part from_.pkg from_.die root.pkg root.die) (s.vdOf m.br.rid).vd msg [rank]).2

/-- Whether a member's leaf may be sent: its space and the retransmit buffer have room (R197, R198). -/
def State.leafFree (s : State) (m : McOp) (rank : Nat) : Bool :=
  let root := s.opCell m
  let from_ := s.memberCell m rank
  m.data.isSome || !crossesDie from_ root ||
    s.spaceFree (.leaf (s.vdOf m.br.rid).part from_.pkg from_.die root.pkg root.die) (s.vdOf m.br.rid).part from_.pkg 48

/-- Parks a member's fault and reports it; while the queue is full the member's request is turned away with a busy notice to the root (R184, R211). -/
def State.memberPark (s : State) (m : McOp) (rank : Nat) (p : Pkg) (i : FaultInfo) : State :=
  if s.parked.any (fun k => k.req == m.id && k.rank == some rank) then s
  else if 4096 ≤ (s.parked.filter (·.pkg == p)).length then
    let here := s.memberCell m rank
    (((s.count .busyn p (portVc here.die 7)).updOp m.id (fun m => { m with members := m.members.set rank .waiting })).sendHeader .busy here (s.opCell m)
      (s.vdOf m.br.rid).part (.cont m.id) m.space m.seq m.tag (.mcq m.id rank))
  else
    let k : ParkRec := { pkg := p, req := m.id, cause := i.cause.code, next := s.now + 80000, rank := some rank }
    let s := { s with parked := s.parked ++ [k] }
    let v := s.vdOf m.br.rid
    s.pushRecord p v.part (fun seq =>
      { cause := i.cause.code, part := v.part, vdid := v.vd, bent := m.br.bent, raiseid := m.br.rid, ecx := m.cx, ecy := m.cy, eng := false, unit := 0,
        blk := m.blk, slot := m.slot, port := 0, tag := m.tag, addr := i.addr, level := i.level, wr := i.wr, park := true, j := rank, refc := 0,
        fire := 0, sub := 0, grp := 0, kstep := 0, acc := 0, seq := seq, aux := i.aux,
        cycle := match s.bent? m.br with
          | some b => b.cycles s.now
          | none => 0 })

/-- The access of a member at its home (R211, R369). None where it must wait. -/
def State.memberAccess (s : State) (id rank : Nat) : Option State :=
  match s.mcops.find? (·.id == id) with
  | none => none
  | some m =>
    match (s.opGroup m).bind (fun g => g.members[rank]?) with
    | none => none
    | some x =>
      if m.members.getD rank .absent ≠ .arrived ∨ m.frozen ∨ s.parked.any (fun k => k.req == id && k.rank == some rank) then none
      else
        let o := s.mcOps m
        let n := if m.data.isSome then 32 else leafBytes o
        let va := (x.va + m.off) % 2 ^ 64
        let v := s.vdOf m.br.rid
        let unrec := fun (k : Cause) => some (s.mcFreeze m { cause := .remoteFault, addr := va, aux := k.code })
        let sh := m.data.isSome && o.x.getLsbD 8
        if va % n ≠ 0 then unrec .misaligned
        else if !canonVa (BitVec.ofNat 64 va) then unrec .vaCanon
        else if sh && (s.shadowOf v (va % 2 ^ 55)).isNone then unrec .shadowNone
        else if sh && (s.away m.br.rid || s.shWaits v [va % 2 ^ 55]) then none
        else if !s.leafFree m rank then none
        else
          let xva := if sh then (s.shadowVa v (va % 2 ^ 55)).getD 0 else s.visibleVa v (va % 2 ^ 55) []
          match s.walk x.pkg v xva (if m.data.isSome then needWr else needRd) with
          | (.bad i, s) => some (s.memberPark m rank x.pkg { i with addr := va })
          | (.ok w, s) =>
            if 2 ≤ pteHome w.leaf then some (s.memberPark m rank x.pkg { cause := .xlInvalid, addr := va, aux := w.leaf.toNat })
            else
              match if m.data.isSome && !pteD w.leaf then s.setDirty x.pkg v w.ptea xva w.big else some s with
              | none => some (s.memberPark m rank x.pkg (dirtyEcc va))
              | some s =>
              let ga := w.ga x.pkg xva
              let key := s.keyOf x.pkg v.part w.leaf
              let die := x.cell
              match s.portReady ga n with
              | .waits => none
              | .ecc s => some (s.mcFreeze m { cause := .remoteFault, addr := va, aux := Cause.eccUncorr.code })
              | .ready s =>
                match m.data with
                | some d => some (((s.writeKey ga key (bytesOf 32 d.toNat)).chargeAccesses m.br.rid 1).memberAnswer m rank die none)
                | none =>
                  if s.eccIn ga n then some (s.mcFreeze m { cause := .remoteFault, addr := va, aux := Cause.eccUncorr.code })
                  else some ((s.chargeAccesses m.br.rid 1).memberAnswer m rank die (some (leafLanes o (s.readKey ga n key))))

/-- The write of an MCST's member that is declared absent before it was performed is still applied, once (R369): it goes on as a request of its
own, whose answer nothing waits for. -/
def State.lateWrite (s : State) (m : McOp) (rank : Nat) : State :=
  match m.data, (s.opGroup m).bind (fun g => g.members[rank]?) with
  | some d, some x =>
    let va := (x.va + m.off) % 2 ^ 64
    if va % 32 ≠ 0 ∨ !canonVa (BitVec.ofNat 64 va) ∨ m.members.getD rank .absent = .answered then s
    else s.putReq { Req.make s m.ctx (.late ((s.mcOps m).x.getLsbD 8)) va 32 0 with
                    data := d, target := x.pkg, stage := .home, posted := true }
  | _, _ => s

/-- MEMBER_ABSENT_TIMEOUT: 4,000,000 cycles with neither an answer nor a KEEP-WAIT make a member absent (R213, R369). The operation does not
time while it is frozen. -/
def execMemberAbsentTimeout (op rank : Nat) (s : State) : Host.Outcome State Fault Refusal :=
  match s.mcops.find? (·.id == op) with
  | some m =>
    let st := m.members.getD rank .absent
    if m.deadlines.getD rank 0 ≤ s.now ∧ !m.frozen ∧ (st = .waiting ∨ st = .arrived ∨ st = .answered) then
      .next ((s.lateWrite m rank).updOp op (fun m => { m with members := m.members.set rank .absent }))
    else .next s
  | none => .next s

/-- REMOTE_FAULT_REPAIR: Kiln repairs the entry, and the target performs what was parked; or the fault is unrecoverable, and the requester
is told REMOTE_FAULT, a posted store being discarded (R184). -/
def execRemoteFaultRepair (p : Pkg) (idx : Nat) (repaired : Bool) (s : State) : Host.Outcome State Fault Refusal :=
  match (s.parked.filter (·.pkg == p))[idx]? with
  | none => .next s
  | some k =>
    let s := { s with parked := s.parked.erase k }
    match k.rank with
    | some _ =>
      match s.mcops.find? (·.id == k.req) with
      | some m => .next (if repaired then s else s.mcFreeze m { cause := .remoteFault, aux := k.cause })
      | none => .next s
    | none =>
      match s.req? k.req with
      | some r =>
        if repaired then .next (s.updReq r.id (fun r => { r with stage := .home, ga := none, reply := none }))
        else if r.kind = .rstp then
          match r.space with
          | some sp => .next ((s.postedDone { r with reply := some (.err { cause := .remoteFault, aux := k.cause }) }).sendError r.homeCell (s.reqCell r) r.vdr.part .egress (some sp) r.seq r.tag (some r.id) 0x0502 k.cause r.va)
          | none => .next (s.losePosted r { cause := .remoteFault, aux := k.cause })
        else .next (s.answer r (.err { cause := .remoteFault, addr := r.va, aux := k.cause }))
      | none => .next s

/-! ## The result (R211, R369) -/

/-- The canonical value of a range of ranks, from the nodes that have come (R6, R212). -/
def treeNode (n : Nat) (nodes : List McNode) : Nat → Nat → Option McNode
  | 0, first => nodes.find? (fun x => x.first == first)
  | k + 1, first =>
    match nodes.find? (fun x => x.first == first && k + 1 ≤ x.k) with
    | some x => some x
    | none =>
      match treeNode n nodes k first, if first + 2 ^ k < n then treeNode n nodes k (first + 2 ^ k) else none with
      | some a, some b => some (joinNodes a b)
      | some a, none => some a
      | none, b => b

/-- The status token of MCRED and MCST (R211). -/
def statusTok (m : McOp) : Token :=
  let abs := bitmap (m.members.map (· == .absent))
  vectorTok m.tag (BitVec.ofNat 256 (abs + (if abs = 0 then 0 else 2 ^ 64)))

/-- Whether every member has answered or is absent. -/
def McOp.complete (m : McOp) : Bool := !m.frozen && m.members.all (fun x => x == .done || x == .absent)

/-- An MCRED or MCST emits: T0 and T1 at once, with its flags and warnings (R211, R367, R369). -/
def State.mcEmit (s : State) (m : McOp) : State :=
  let o := s.mcOps m
  let c := m.ctx
  let s := match m.space with
    | some sp => s.release sp m.seq
    | none => s
  let s := { s with mcops := s.mcops.filter (·.id != m.id) }
  let warn := (prEff o).2 ||| tilehd c
  if m.data.isSome then
    (((s.warnAs c (warn ||| rsvx (o.xf 9 20 != 0))).emit c o.t0 c.atok.plain)).emit c o.t1 (statusTok m)
  else
    let md := if o.xf 8 4 = 0 then rndOf o.mod (s.rmodeOf c.br c.u) else (.rne, 0)
    let s := s.warnAs c (warn ||| md.2 ||| rsvx (o.xf 12 17 != 0))
    if m.members.any (· == .absent) then (s.emit c o.t0 (vectorTok m.tag 0)).emit c o.t1 (statusTok m)
    else
      let n := m.members.length
      let z := treeNode n m.nodes 6 0
      let r : W256 × BitVec 8 := match z with
        | some x => if n = 1 then (settlePay (mcredOp (o.xf 8 4)) (mcLaneTy (o.xf 8 4) o.ty.toNat) x.lanes) else (x.lanes, x.flags)
        | none => (0, 0)
      ((s.raiseFlags c.br c.u r.2).emit c o.t0 (vectorTok m.tag r.1)).emit c o.t1 (statusTok m)

end Sys2Proof.Machine
end

