-- ==== Sys2Proof/Machine/WorkOps.lean ====
section
/-! DEFINITION. The Auger: WQINI, WQNX and the serving of their requests (R239 to R241, R441 to R443). -/

namespace Sys2Proof.Machine

open Sys2Proof

/-- WQINI: asks the Auger to set a range (R442). -/
def execWqini (o : SlotOps) (s : State) : Host.Outcome State Fault Refusal :=
  s.runFiring o (fun c =>
    let l := laneAt c.atok.pay 64 0
    .next (s.putReq { Req.make s c .wqini 0 8 0 with
      stage := .home, data := BitVec.ofNat 256 l,
      warn := (prEff o).2 ||| tilehd c ||| rsvx (o.xf 26 3 != 0 || o.xf 0 20 != 0) ||| rsvc (l / 2 ^ 48 != 0) }))

/-- WQNX: checks its record address, then asks for the next item (R443). -/
def execWqnx (o : SlotOps) (s : State) : Host.Outcome State Fault Refusal :=
  s.runFiring o (fun c =>
    match s.bent? c.br with
    | none => .next s
    | some b =>
      let a := c.addr o
      let r := Req.make s c .wqnx a 16 0
      match b.localAt a with
      | .spad off =>
        if a % 16 ≠ 0 then .next (s.fault c { cause := .misaligned, addr := a, wr := true })
        else if 8 ≤ (s.reqs.filter (fun q => q.kind == AccKind.wqnx && q.br == r.br && q.cx == r.cx && q.cy == r.cy)).length then s.wait
        else
          .next (s.putReq { r with
            stage := .home, loc := true, ga := some (spadGa (s.srcCell c) off), warn := (prEff o).2 ||| tilehd c ||| rsvx (o.xf 26 3 != 0) })
      | _ => .next (s.fault c { cause := .laPerm, addr := a, wr := true }))

/-- AUGER_RANGE_SET: a range is set, or restarted at item 0 (R239). -/
def execAugerRangeSet (s : State) : Host.Outcome State Fault Refusal :=
  match s.cur with
  | .event (.num n) =>
    match s.req? n with
    | some r =>
      if r.kind ≠ .wqini ∨ r.stage ≠ .home then .next s
      else
        let rng := (s.reqOps r).xf 20 6
        let l := r.data.toNat
        let x : AugerRange := { rng := rng, rid := r.br.rid, n := l % 2 ^ 32 + 1, wid := l / 2 ^ 32 % 2 ^ 16 + 1, next := 0 }
        .next ((s.updVdev r.vdr (fun d => { d with ranges := d.ranges.filter (fun y => y.rng != rng) ++ [x] })).answer r .ack)
    | none => .next s
  | _ => .next s

/-- The record of an item of a range (R240): INDEX, X, Y and FLAGS in its 16 bytes. -/
def itemRecord (x : AugerRange) : Nat :=
  if x.next < x.n then x.next + (x.next % x.wid) * 2 ^ 32 + (x.next / x.wid) * 2 ^ 64 else x.n % 2 ^ 32 + 2 ^ 96

/-- AUGER_SERVE: one request is given the next item of its range, or an END item (R240). The AG writes the record with its answer. -/
def execAugerServe (s : State) : Host.Outcome State Fault Refusal :=
  match s.cur with
  | .event (.num n) =>
    match s.req? n with
    | some r =>
      if r.kind ≠ .wqnx ∨ r.stage ≠ .home then .next s
      else
        let rng := (s.reqOps r).xf 20 6
        match (s.vdev? r.vdr).bind (fun d => d.ranges.find? (·.rng == rng)) with
        | some x =>
          let t := if x.next < x.n then s.updVdev r.vdr (fun d => { d with ranges := updIf d.ranges (·.rng == rng) (fun y =>
            { y with next := y.next + 1 }) }) else s
          .next (t.answer r (.val (BitVec.ofNat 256 (itemRecord x))))
        | none => .next (s.answer r (.val (BitVec.ofNat 256 (3 * 2 ^ 96))))
    | none => .next s
  | _ => .next s

/-- The answer of a WQNX at its AG: the record is written, then the A token goes to T0 and END to T1, and its WARN bits are set
(R240, R294, R441, R443). -/
def State.wqnxReply (s : State) (r : Req) (v : W256) : State :=
  let s := match r.ga with
    | some ga => s.writeBytes ga (bytesOf 16 v.toNat)
    | none => s
  let o := s.reqOps r
  ((s.raiseWarn r.br r.ctx.u r.warn).emit r.ctx o.t0 r.ctx.atok.plain).emit r.ctx o.t1 (scalarTok r.tag (v.toNat / 2 ^ 96 % 2))

end Sys2Proof.Machine
end

