-- ==== Sys2Proof/Machine/SysOps.lean ====
section
/-! DEFINITION. The system instructions: TRAP, BRK, MFS, MTS, YIELD, HALT, CLFLG, RDTIM and ENRG (R271, R272, R294, R315 to R317, R332,
R333, R352 to R354, R372 to R374, R400, R438, R439, R448). -/

namespace Sys2Proof.Machine

open Sys2Proof

/-! ## Status registers -/

/-- The role of an element of a bent (R11). -/
def Bent.roleAt (b : Bent) (cx cy : Nat) : Role := b.roles.getD (cy * b.w + cx) .cp

/-- Whether an element is an AG. -/
def State.isAg (s : State) (c : Ctx) : Bool :=
  match s.bent? c.br, c.u with
  | some b, .elem cx cy => b.roleAt cx cy == .ag
  | _, _ => false

/-- The value of a status register that an element or its bent holds; none for one held at the hub, and for a reserved number (R271, R373). -/
def State.nearReg (s : State) (c : Ctx) (n : Nat) : Option W64 :=
  match s.bent? c.br, s.elemOf c with
  | some b, some e =>
    match n with
    | 0x000 => some ((e.flags ||| b.engFlags).setWidth 64)
    | 0x001 => some (e.rmode.setWidth 64)
    | 0x002 => some ((e.warn ||| b.engWarn).setWidth 64)
    | 0x003 => some (e.nondet.setWidth 64)
    | 0x010 => some b.bentId
    | 0x020 => some (BitVec.ofNat 64 (b.cycles s.now))
    | 0x030 => some b.spillCnt
    | 0x031 => some b.trimCnt
    | 0x032 => some b.refaultCnt
    | _ => none
  | _, _ => none

/-- The value of a status register held at the hub (R271). -/
def State.hubReg (s : State) (br : BentRef) (v : VdRef) (n : Nat) : Option W64 :=
  match s.vdev? v with
  | some d =>
    match n with
    | 0x004 => some d.depcount
    | 0x005 => some d.depctl
    | 0x011 => some ((s.raising? br.rid).elim (BitVec.ofNat 64 br.rid) (·.raiseId))
    | 0x012 => some d.vdId
    | 0x013 => some ((s.part? v.part).elim (BitVec.ofNat 64 v.part) (·.partId))
    | 0x014 => some (BitVec.ofNat 64 (d.ctxBase % 2 ^ 20))
    | 0x015 => some (BitVec.ofNat 64 (d.ctxLim % 2 ^ 20))
    | 0x021 => some (BitVec.ofNat 64 ((s.part? v.part).elim 0 (fun p => s.now - p.slotStart)) + (s.part? v.part).elim 0 (·.qtOff))
    | 0x022 => some (BitVec.ofInt 64 d.energy)
    | _ => none
  | none => none

/-- MFS: a scalar of the register's value, at once or on the hub's reply; a reserved number reads 0 with SRRD (R272, R372, R373). -/
def execMfs (o : SlotOps) (s : State) : Host.Outcome State Fault Refusal :=
  s.runFiring o (fun c =>
    let n := o.xf 0 12
    let warn := (prEff o).2 ||| tilehd c ||| rsvx (o.xf 12 17 != 0)
    match s.nearReg c n with
    | some v => .next ((s.warnAs c warn).emit2 c o (scalarTok c.tag v.toNat))
    | none =>
      if (s.hubReg c.br (s.vdOf c.br.rid) n).isSome then
        .next (s.putReq { Req.make s c (.mfsHub n) 0 8 0 with stage := .home, warn := warn })
      else .next ((s.warnAs c (warn ||| warnBit 27)).emit2 c o (scalarTok c.tag 0)))

/-- The write of a status register (R125, R294, R374). On an AG, FLAGS, RMODE and WARN reach the engine word too. -/
def State.writeReg (s : State) (c : Ctx) (n : Nat) (v : W64) : State :=
  let ag := s.isAg c
  match n with
  | 0x000 =>
    let s := s.updElemOf c (fun e => { e with flags := v.setWidth 8 })
    if ag then s.updBent c.br (fun b => { b with engFlags := v.setWidth 8 }) else s
  | 0x001 =>
    let bad := 5 ≤ v.toNat % 8
    let m : BitVec 3 := if bad then 0 else v.setWidth 3
    let s := s.updElemOf c (fun e => { e with rmode := m })
    let s := if ag then s.updBent c.br (fun b => { b with engRmode := m }) else s
    if bad then s.warnAs c (warnBit 5) else s
  | 0x002 =>
    let s := s.updElemOf c (fun e => { e with warn := v.setWidth 30 })
    if ag then s.updBent c.br (fun b => { b with engWarn := v.setWidth 30 }) else s
  | 0x003 => s.updElemOf c (fun e => { e with nondet := v.setWidth 2 })
  | _ => s.warnAs c (warnBit 28)

/-- MTS: writes a status register and emits its A token; what is raised in the cycle of the write survives it (R372, R374). -/
def execMts (o : SlotOps) (s : State) : Host.Outcome State Fault Refusal :=
  s.runFiring o (fun c =>
    let s := s.writeReg c (o.xf 0 12) (c.atok.plain.pay.setWidth 64)
    .next ((s.warnAs c ((prEff o).2 ||| tilehd c ||| rsvx (o.xf 12 17 != 0))).emit2 c o c.atok.plain))

/-- CLFLG: clears the element's FLAGS word, and on an AG the engine flag word (R131, R317). -/
def execClflg (o : SlotOps) (s : State) : Host.Outcome State Fault Refusal :=
  s.runFiring o (fun c =>
    let s1 := s.updElemOf c (fun e => { e with flags := 0 })
    let s1 := if s.isAg c then s1.updBent c.br (fun b => { b with engFlags := 0 }) else s1
    .next ((s1.warnAs c ((prEff o).2 ||| tilehd c ||| rsvx (o.x != 0))).emit2 c o c.atok.plain))

/-- RDTIM: the package's count of cycles since the hub's last cold reset (R400). -/
def execRdtim (o : SlotOps) (s : State) : Host.Outcome State Fault Refusal :=
  s.runFiring o (fun c =>
    let t0 := (s.plat? (s.srcCell c).pkg).elim 0 (·.cycles0)
    .next ((s.warnAs c ((prEff o).2 ||| tilehd c ||| rsvx (o.x != 0))).emit2 c o (scalarTok c.tag (s.now - t0))))

/-- ENRG: reads the energy accounts at the hub (R332, R333). -/
def execEnrg (o : SlotOps) (s : State) : Host.Outcome State Fault Refusal :=
  s.runFiring o (fun c =>
    .next (s.putReq { Req.make s c .enrg 0 8 0 with stage := .home, warn := (prEff o).2 ||| tilehd c ||| rsvx (o.x != 0) }))

/-- The accounts that ENRG reads (R332): RESV, USED and BUDGET; its own charge is not in USED. -/
def State.accounts (s : State) (rid : Nat) : W256 :=
  match s.raising? rid, s.vdev? (s.vdOf rid) with
  | some r, some d =>
    BitVec.ofNat 256 ((BitVec.ofInt 64 d.energy).toNat + ((r.used - Config.charge 0xB8) / 2 ^ 20 % 2 ^ 64) * 2 ^ 64 + (r.resv % 2 ^ 64) * 2 ^ 128)
  | _, _ => 0

/-! ## YIELD and HALT -/

/-- Whether the current quantum of a partition has ended: in the grace window, or from the cycle in which the quantum ends (R227, R448). -/
def Partition.quantumOver (p : Partition) (now : Nat) : Bool := p.phase == .grace || (p.phase == .quantum && p.slotStart + p.q ≤ now)

/-- YIELD: the A token to T0 while the quantum runs, to T1 from the cycle in which it ends (R448). -/
def execYield (o : SlotOps) (s : State) : Host.Outcome State Fault Refusal :=
  s.runFiring o (fun c =>
    let past : Bool := match s.part? (s.vdOf c.br.rid).part with
      | some p => p.quantumOver s.now
      | none => false
    .next ((s.warnAs c ((prEff o).2 ||| tilehd c ||| rsvx (o.x != 0))).emit c (if past then o.t1 else o.t0) c.atok.plain))

/-- HALT: sends CODE and STOP to the hub, which ends the phase (R352 to R354). -/
def execHalt (o : SlotOps) (s : State) : Host.Outcome State Fault Refusal :=
  s.runFiring o (fun c =>
    let h : HaltReq := { code := o.xf 0 16, stop := o.x.getLsbD 16, bent := c.br.bent, blk := c.blk, slot := c.slot, at_ := s.now }
    .next ((s.updRaising c.br.rid (fun r => { r with halts := r.halts ++ [h] })).warnAs c
      ((prEff o).2 ||| tilehd c ||| rsvx (o.xf 17 12 != 0))))

/-! ## TRAP -/

/-- TRAP: posts a request to Kiln's service queue and waits for its reply; at most four of an element (R438, R439). -/
def execTrap (o : SlotOps) (s : State) : Host.Outcome State Fault Refusal :=
  s.runFiring o (fun c =>
    let r := { Req.make s c .trap 0 8 0 with
      stage := .deferred, cx := (s.ctxCell c).1, cy := (s.ctxCell c).2, warn := (prEff o).2 ||| tilehd c ||| rsvx (o.xf 16 13 != 0) }
    if 4 ≤ (s.reqs.filter (fun q => q.kind == AccKind.trap && q.br == r.br && q.cx == r.cx && q.cy == r.cy)).length then s.wait
    else
      let p : KilnPost := { br := c.br, blk := c.blk, slot := c.slot, tag := c.tag, code := o.xf 0 16, pay := c.atok.pay, debug := false }
      let t := s.putReq r
      .next { t with posts := t.posts ++ [p] })

/-- TRAP_REPLY: Kiln's reply arrives, and the TRAP emits its payload as a vector (R438); a reply for a drained bent waits (R439). -/
def execTrapReply (req : Nat) (pay : W256) (s : State) : Host.Outcome State Fault Refusal :=
  match s.req? req with
  | some r =>
    if r.kind ≠ .trap ∨ r.stage ≠ .deferred then .next s
    else
      let s := { s with posts := s.posts.filter (fun p => !(!p.debug && p.br == r.br && p.blk == r.blk && p.slot == r.slot && p.tag == r.tag)) }
      match s.bent? r.br with
      | some b =>
        if b.isSealed then .next (s.updReq r.id (fun r => { r with stage := .reply, reply := some (.val pay) }))
        else .next ((s.dropReq r.id).emitReq r (vectorTok r.tag pay))
      | none => .next (s.dropReq r.id)
  | none => .next s

/-! ## Stopping and resuming a raising (R230, R315, R316) -/

/-- Seals every bent of a raising: nothing enters it and nothing of it begins (R230). -/
def State.sealRaising (s : State) (rid : Nat) : State :=
  s.updRaising rid (fun r => { r with bents := r.bents.map (fun b => { b.stopClock s.now with isSealed := true }) })

/-- Unseals a raising; tokens caught for it are delivered in the order received (R232). -/
def State.unsealRaising (s : State) (rid : Nat) : State :=
  let s := s.updRaising rid (fun r => { r with bents := r.bents.map (fun b => { b.startClock s.now with isSealed := false }) })
  match s.part? (s.vdOf rid).part with
  | some p =>
    let mine := p.catch_.filter (·.rid == rid)
    let s := s.updPart p.lay.part (fun p => { p with catch_ := p.catch_.filter (·.rid != rid) })
    mine.foldl (fun s e => s.intoLink rid 0 e.dest e.tok) s
  | none => s

/-- A BRK that fires with DBGEN set: it holds its emission, and is posted to Kiln's debug queue (R315). -/
def State.holdBrk (s : State) (c : Ctx) (o : SlotOps) : State :=
  let h : BrkHold := { bent := c.br.bent, loc := c.u, blk := c.blk, slot := c.slot, tok := c.atok.plain, code := o.xf 0 16,
                       warn := (prEff o).2 ||| tilehd c ||| rsvx (o.xf 16 13 != 0) }
  let p : KilnPost := { br := c.br, blk := c.blk, slot := c.slot, tag := c.tag, code := o.xf 0 16, pay := 0, debug := true }
  ({ s with posts := s.posts ++ [p] } : State).updRaising c.br.rid (fun r => { r with brks := r.brks ++ [h] })

/-- A unit other than one's own whose choice in this cycle is a BRK fires it in the same cycle (R37, R316). -/
def State.brkWith (s : State) (own : BentRef × UnitLoc) (br : BentRef) (u : UnitLoc) : State :=
  if (br, u) == own || !s.unitRuns br u then s
  else match s.candidates br u with
    | r :: _ =>
      let c : Ctx := { br := br, u := u, blk := r.blk, slot := r.slot, tag := r.tag, a := r.a, b := r.b, p := r.p }
      match s.readyInstr br r with
      | .ok (.brk o) => if fireCase (prEff o).1 c = .run then ((s.takeReady br u r).chargeAct c 0xB1).holdBrk c o else s
      | _ => s
    | [] => s

/-- The BRKs of a raising that fire in the cycle of one of them (R316; log 102). -/
def State.brkSweep (s : State) (c : Ctx) : State :=
  ((s.raising? c.br.rid).elim [] (fun r => r.bents.zipIdx)).foldl (fun s b =>
    b.1.units.foldl (fun s u => s.brkWith (c.br, c.u) { rid := c.br.rid, bent := b.2 } u) s) s

/-- BRK: emits at once when DBGEN is 0; else it stops its raising and posts to Kiln's debug queue, with the BRKs that fire in the same cycle (R315,
R316). -/
def execBrk (o : SlotOps) (s : State) : Host.Outcome State Fault Refusal :=
  s.runFiring o (fun c =>
    let v := s.vdOf c.br.rid
    let warn := (prEff o).2 ||| tilehd c ||| rsvx (o.xf 16 13 != 0)
    if !((s.vdev? v).elim false (·.dbgen)) then .next ((s.warnAs c warn).emit2 c o c.atok.plain)
    else
      .next ((((s.holdBrk c o).brkSweep c).updRaising c.br.rid (fun r => { r with brkStop := true })).sealRaising c.br.rid))

/-- BRK_RESUME: Kiln resumes a raising that is stopped at a BRK: it is unsealed, and every posted BRK emits (R315, R316). -/
def execBrkResume (s : State) : Host.Outcome State Fault Refusal :=
  match s.cur with
  | .event (.num rid) =>
    match s.raising? rid with
    | some r =>
      if !r.brkStop || r.state != .running then .next s
      else
        let s := { s with posts := s.posts.filter (fun p => !(p.debug && p.br.rid == rid)) }
        let s := (s.updRaising rid (fun r => { r with brkStop := false, brks := [] })).unsealRaising rid
        .next (r.brks.foldl (fun s h =>
          (s.raiseWarn { rid := rid, bent := h.bent } h.loc h.warn).emit2 { br := { rid := rid, bent := h.bent }, u := h.loc, blk := h.blk, slot := h.slot, tag := h.tok.tag, a := none, b := none, p := none }
            (s.opsAt rid h.blk h.slot) h.tok) s)
    | none => .next s
  | _ => .next s

end Sys2Proof.Machine
end

