-- ==== Sys2Proof/Machine/QueueOps.lean ====
section
/-! DEFINITION. The queue words (R215 to R219, R293, R384 to R394), the hub's semaphores and mailbox, and Kiln's hold on a queue. -/

namespace Sys2Proof.Machine

open Sys2Proof

/-! ## The word in the latch -/

/-- The queue whose word is being executed. -/
def State.wordQueue (s : State) : Option Queue :=
  match s.cur with
  | .word v q _ => s.queue? v q
  | _ => none

/-- Runs a meaning on the queue whose word is in the latch. -/
def State.runWord (s : State) (f : Queue → Host.Outcome State Fault Refusal) : Host.Outcome State Fault Refusal :=
  match s.wordQueue with
  | some x => f x
  | none => .fault .notLatched

/-- Changes one queue. -/
def State.putQueue (s : State) (x : Queue) : State := s.updQueue x.vdr x.q (fun _ => x)

/-- The queue with QPTR moved past the word it stands on, READY for the next (R216). -/
def Queue.past (x : Queue) : Queue :=
  let n := match decodeQueue (x.prog.drop x.qptr) with
    | .ok (_, rest) => (x.prog.drop x.qptr).length - rest.length
    | .error _ => 1
  { x with qptr := x.qptr + n, state := .ready, work := none }

/-! ## Semaphores (R217, R218) -/

/-- The hub that holds a virtual device's semaphores, and the first of them. -/
def State.semHome (s : State) (v : VdRef) : Pkg × Nat := ((s.vdev? v).map (fun d => (d.home, d.semBase))).getD ({ px := 0, py := 0 }, 0)

/-- The value of a semaphore of a hub. -/
def State.semVal (s : State) (p : Pkg) (n : Nat) : W64 := ((s.sems.find? (fun c => c.pkg == p && c.n == n)).map (·.val)).getD 0

/-- Whether a queue waits for a semaphore to take a value that it now has (R218). -/
def Queue.wakes (x : Queue) (n : Nat) (v : W64) : Bool :=
  match x.state, x.work with
  | .wait, some (.waitGe m w) => m == n && w ≤ v
  | .wait, some (.waitEq m w) => m == n && w == v
  | _, _ => false

/-- A semaphore takes a value, and every queue that waits for it leaves WAIT (R218). A semaphore that is 0 is not listed. -/
def State.setSem (s : State) (p : Pkg) (n : Nat) (v : W64) : State :=
  let rest := s.sems.filter (fun c => !(c.pkg == p && c.n == n))
  { s with
    sems := if v = 0 then rest else { pkg := p, n := n, val := v } :: rest
    queues := updIf s.queues (fun x => (s.semHome x.vdr).1 == p && x.wakes n v) Queue.past }

/-- Sends an operation to the hub of a virtual device's semaphores (R218). -/
def State.sendSem (s : State) (v : VdRef) (n : Nat) (op : SemOp) (q : Option Nat) : State :=
  let h := s.semHome v
  { s with semReqs := s.semReqs ++ [{ pkg := h.1, n := h.2 + n, op := op, vdr := v, queue := q }] }

/-- A word that operates on a semaphore waits in EXEC until the hub has performed it (R216, R388). -/
def State.semWord (s : State) (x : Queue) (n : Nat) (op : SemOp) : State :=
  (s.putQueue { x with state := .exec, work := some (.semOp n) }).sendSem x.vdr n op (some x.q)

/-- SEMAPHORE_OPERATION: the hub of a package performs the operation that reached it first (R218, R386, R388). -/
def execSemaphoreOperation (s : State) : Host.Outcome State Fault Refusal :=
  match s.cur with
  | .event (.pkg p) =>
    match s.semReqs.find? (·.pkg == p) with
    | some r =>
      let s := { s with semReqs := s.semReqs.erase r }
      let old : W64 := s.semVal p r.n
      let asker := (r.queue.bind (fun q => s.queue? r.vdr q)).filter (fun x => match x.work with
        | some (.semOp _) => true
        | _ => false)
      let moved := fun (s : State) (f : Queue → Queue) => match (asker : Option Queue) with
        | some x => s.putQueue (f x)
        | none => s
      match r.op with
      | .add v => .next ((moved s Queue.past).setSem p r.n (old + v))
      | .signal v stop => .next ((moved s (fun x => if stop then { x.past with state := .stopped } else x.past)).setSem p r.n (old + v))
      | .set v => .next ((moved s Queue.past).setSem p r.n v)
      | .jnz dec target =>
        if old = 0 then .next ((moved s Queue.past).setSem p r.n old)
        else .next ((moved s (fun x => { x.past with qptr := target })).setSem p r.n (if dec then old - 1 else old))
    | none => .next s
  | _ => .next s

/-- QWGE: waits until the semaphore is at or above VAL, unsigned (R388). -/
def execQwge (sem : BitVec 10) (val : BitVec 64) (s : State) : Host.Outcome State Fault Refusal :=
  s.runWord (fun x =>
    let h := s.semHome x.vdr
    let n := h.2 + sem.toNat
    .next (s.putQueue (if val ≤ s.semVal h.1 n then x.past else { x with state := .wait, work := some (.waitGe n val) })))

/-- QWEQ: waits until the semaphore equals VAL (R388). -/
def execQweq (sem : BitVec 10) (val : BitVec 64) (s : State) : Host.Outcome State Fault Refusal :=
  s.runWord (fun x =>
    let h := s.semHome x.vdr
    let n := h.2 + sem.toNat
    .next (s.putQueue (if val = s.semVal h.1 n then x.past else { x with state := .wait, work := some (.waitEq n val) })))

/-- Whether a signal or fence of a scope still waits: from LINK on, for the virtual device's posted stores (R108, R214, R388). -/
def State.postedWait (s : State) (v : VdRef) (scope : BitVec 4) : Bool := 7 ≤ scope.toNat && (s.vdev? v).elim false (fun d => d.posted != 0)

/-- QSIG: adds VAL, at scope LINK or wider only when the posted counter reads zero (R388). -/
def execQsig (sem : BitVec 10) (scope : BitVec 4) (val : BitVec 64) (s : State) : Host.Outcome State Fault Refusal :=
  s.runWord (fun x =>
    if s.postedWait x.vdr scope then .next (s.putQueue { x with state := .exec, work := some (.sig sem.toNat val scope.toNat) })
    else .next (s.semWord x sem.toNat (.add val)))

/-- QSET: writes VAL (R388). -/
def execQset (sem : BitVec 10) (val : BitVec 64) (s : State) : Host.Outcome State Fault Refusal :=
  s.runWord (fun x => .next (s.semWord x sem.toNat (.set val)))

/-- QJNZ: reads the semaphore in one operation; jumps while it is not zero, with DEC = 1 counting it down (R388). -/
def execQjnz (sem : BitVec 10) (dec : Bool) (target : BitVec 16) (s : State) : Host.Outcome State Fault Refusal :=
  s.runWord (fun x => .next (s.semWord x sem.toNat (.jnz dec target.toNat)))

/-! ## Jumps, ends and fences (R389) -/

/-- QNOP: changes nothing but QPTR. -/
def execQnop (s : State) : Host.Outcome State Fault Refusal := s.runWord (fun x => .next (s.putQueue x.past))

/-- QJMP: QPTR becomes TARGET. -/
def execQjmp (target : BitVec 16) (s : State) : Host.Outcome State Fault Refusal :=
  s.runWord (fun x => .next (s.putQueue { x with qptr := target.toNat, state := .ready, work := none }))

/-- QEND: STOPPED, QPTR left at the QEND, CODE passed to Kiln. -/
def execQend (code : BitVec 32) (s : State) : Host.Outcome State Fault Refusal :=
  s.runWord (fun x => .next (s.putQueue { x with state := .stopped, work := none, endCode := code.toNat }))

/-- QFNC: the wait of a QSIG of its scope, in WAIT; the model's host completes an accepted write at once (R389). -/
def execQfnc (scope : BitVec 4) (s : State) : Host.Outcome State Fault Refusal :=
  s.runWord (fun x =>
    .next (s.putQueue (if s.postedWait x.vdr scope then { x with state := .wait, work := some (.fence scope.toNat) } else x.past)))

/-! ## Interrupts and timers (R390, R391) -/

/-- QINTR: posts a record to the mailbox, which holds 64, and sends the vector if the host has enabled it. -/
def execQintr (vec : BitVec 11) (code : BitVec 32) (s : State) : Host.Outcome State Fault Refusal :=
  s.runWord (fun x =>
    match s.vdev? x.vdr with
    | none => .next s
    | some d =>
      if 64 ≤ d.mailbox.length then .next (s.putQueue { x with state := .exec, work := some (.intr vec.toNat code.toNat) })
      else
        let m : MailRec := { part := x.vdr.part, vd := x.vdr.vd, queue := x.q, index := x.qptr, code := code.toNat }
        .next (((s.putQueue x.past).updVdev x.vdr (fun d => { d with mailbox := d.mailbox ++ [m] })).updPlat d.home (fun p =>
          if p.msix.contains vec.toNat then { p with msixSent := p.msixSent ++ [(vec.toNat, code.toNat)] } else p)))

/-- The bytes of a mailbox record, little-endian (R4, R390; log 97). -/
def MailRec.bytes (m : MailRec) : List Byte := bytesOf 1 m.part ++ bytesOf 1 m.vd ++ bytesOf 2 m.queue ++ bytesOf 4 m.index ++ bytesOf 8 m.code

/-- INTERRUPT_MAILBOX_DRAIN: the host reads and takes the oldest record of a virtual device's mailbox. -/
def execInterruptMailboxDrain (s : State) : Host.Outcome State Fault Refusal :=
  match s.cur with
  | .event (.vdev v) =>
    match s.vdev? v with
    | some d => .next ((s.updVdev v (fun d => { d with mailbox := d.mailbox.drop 1 })).updPlat d.home (fun q =>
        { q with hostRead := (d.mailbox.head?).elim [] MailRec.bytes }))
    | none => .next s
  | _ => .next s

/-- QTMR: arms, replaces or disarms a timer. -/
def execQtmr (sem : BitVec 10) (tid : BitVec 3) (delay : BitVec 40) (s : State) : Host.Outcome State Fault Refusal :=
  s.runWord (fun x =>
    let rest := x.timers.filter (·.tid != tid.toNat)
    let t : QTimer := { tid := tid.toNat, due := s.now + delay.toNat, sem := sem.toNat }
    .next (s.putQueue { x.past with timers := if delay = 0 then rest else rest ++ [t] }))

/-- QUEUE_TIMER_EXPIRY: a timer whose delay has passed adds 1 to its semaphore. -/
def execQueueTimerExpiry (v : VdRef) (q tid : Nat) (s : State) : Host.Outcome State Fault Refusal :=
  match s.queue? v q with
  | some x =>
    match x.timers.find? (fun t => t.tid == tid && t.due ≤ s.now) with
    | some t => .next ((s.putQueue { x with timers := x.timers.filter (·.tid != tid) }).sendSem v t.sem (.add 1) none)
    | none => .next s
  | none => .next s

/-- QENG: the reservation of the queue's next launch (R392). -/
def execQeng (e : BitVec 48) (s : State) : Host.Outcome State Fault Refusal :=
  s.runWord (fun x => .next (s.putQueue { x.past with pendResv := some e.toNat }))

/-! ## Launches (R386, R387, R393, R394) -/

/-- A queue enters ADMIT with a phase and the semaphore it signals. -/
def State.enterAdmit (s : State) (x : Queue) (w : QWork) (sem : BitVec 10) (sg : Bool) (addv : BitVec 32) : State :=
  s.putQueue { x with state := .admitting, work := some w, sig := if sg then some (sem.toNat, addv.toNat) else none, admitAt := s.now }

/-- QLNCH: ADMIT; an image that is not resident is asked for, once (R245, R386). -/
def execQlnch (sem : BitVec 10) (sg : Bool) (addv : BitVec 32) (img : BitVec 64) (va arg : BitVec 55) (s : State) :
    Host.Outcome State Fault Refusal :=
  s.runWord (fun x => .next (s.enterAdmit x (.launch img va.toNat arg.toNat) sem sg addv))

/-- QCOPY: ADMIT; the low five bits of its operands count as zero (R387). -/
def execQcopy (sem : BitVec 10) (sg sh : Bool) (addv : BitVec 32) (src dst : BitVec 55) (len : BitVec 40) (s : State) :
    Host.Outcome State Fault Refusal :=
  s.runWord (fun x =>
    .next (s.enterAdmit x (.copy (src.toNat / 32 * 32) (dst.toNat / 32 * 32) (len.toNat / 32 * 32) sh 0 false 0 []) sem sg addv))

/-- QLOAD: ADMIT (R393). -/
def execQload (sem : BitVec 10) (sg : Bool) (addv : BitVec 32) (img : BitVec 64) (va report : BitVec 55) (s : State) :
    Host.Outcome State Fault Refusal :=
  s.runWord (fun x => .next (s.enterAdmit x (.load img va.toNat report.toNat) sem sg addv))

/-- QSAVE: ADMIT (R394). -/
def execQsave (sem : BitVec 10) (sg : Bool) (qn : BitVec 6) (addv : BitVec 32) (s : State) : Host.Outcome State Fault Refusal :=
  s.runWord (fun x => .next (s.enterAdmit x (.save qn.toNat) sem sg addv))

/-- QREST: ADMIT (R394). -/
def execQrest (sem : BitVec 10) (sg : Bool) (qn : BitVec 6) (addv : BitVec 32) (s : State) : Host.Outcome State Fault Refusal :=
  s.runWord (fun x => .next (s.enterAdmit x (.rest qn.toNat) sem sg addv))

/-! ## Kiln's hold on a queue (R216) -/

/-- KILN_QUEUE_START: a STOPPED queue goes to READY, with QPTR where it stands. -/
def execKilnQueueStart (v : VdRef) (q : Nat) (s : State) : Host.Outcome State Fault Refusal :=
  match s.queue? v q with
  | some x => .next (if x.state == .stopped then s.putQueue { x with state := .ready, work := none } else s)
  | none => .next s

/-- Whether an operation is that of a word in EXEC, which has not been performed: not a completed phase's signal. -/
def SemReq.ofWord (r : SemReq) (v : VdRef) (q : Nat) : Bool :=
  r.vdr == v && r.queue == some q && (match r.op with
    | .signal _ _ => false
    | _ => true)

/-- KILN_QUEUE_STOP: a queue that runs no phase goes to STOPPED, with QPTR where it stands, and the operation of a word in EXEC, which a restart takes
again, does not reach the hub; one in RUN is left by its phase's end only, unless the raising of that phase is lost (R216). -/
def execKilnQueueStop (v : VdRef) (q : Nat) (s : State) : Host.Outcome State Fault Refusal :=
  match s.queue? v q with
  | some x => .next (if x.state == .run && !(x.rid.any (fun r => (s.raising? r).isNone)) then s
      else { s with semReqs := s.semReqs.filter (fun r => !r.ofWord v q) }.putQueue { x with state := .stopped, work := none })
  | none => .next s

end Sys2Proof.Machine
end

