-- ==== Sys2Proof/Machine/Ggf.lean ====
section
/-! DEFINITION. Reading a configuration image (R242 to R244, R250, R282 to R287): its header, sections, notes, rewrite entries, raising,
rings, data and block images, and the expansion of undefined opcodes (R249 to R252). -/

namespace Sys2Proof.Machine

open Sys2Proof

/-! ## Errors (R256) -/

/-- A rejection: its code and where it stands. R256 does not say where the offset counts from: the offset of a section-table entry counts from the
image's start, that of a note, rewrite, ring or block-table entry from its section's start (log 109). -/
structure LoadErr where
  code : Nat
  sec : Nat := 0
  blk : Nat := 0
  slot : Nat := 0
  opc : Nat := 0
  off : Nat := 0
deriving DecidableEq, Repr

/-- LOAD_FORMAT, LOAD_SECTION, LOAD_NOTE, LOAD_CVF, LOAD_OPCODE, LOAD_REWRITE_NESTED, LOAD_REWRITE_SIZE, LOAD_CLASS, LOAD_CHAIN, LOAD_ROLE
and LOAD_PLACE (R256). -/
def loadFormat : Nat := 0x0801
def loadSection : Nat := 0x0802
def loadNote : Nat := 0x0803
def loadCvf : Nat := 0x0804
def loadOpcode : Nat := 0x0805
def loadNested : Nat := 0x0806
def loadSize : Nat := 0x0807
def loadClass : Nat := 0x0808
def loadChain : Nat := 0x0809
def loadRole : Nat := 0x080C
def loadPlace : Nat := 0x080D

/-- Rejects when a condition holds. -/
def rejectIf (b : Bool) (e : LoadErr) : Except LoadErr Unit := if b then .error e else .ok ()

/-- Checks every member of a list. -/
def checkAll {α : Type} (l : List α) (f : α → Except LoadErr Unit) : Except LoadErr Unit :=
  l.foldl (fun r x => match r with
    | .ok _ => f x
    | .error e => .error e) (.ok ())

/-- Maps every member of a list, to the first rejection. -/
def mapAll {α β : Type} (f : α → Except LoadErr β) : List α → Except LoadErr (List β)
  | [] => .ok []
  | x :: xs => match f x with
    | .error e => .error e
    | .ok y => match mapAll f xs with
      | .error e => .error e
      | .ok ys => .ok (y :: ys)

/-! ## Bytes -/

/-- A little-endian field of n bytes at an offset (R4). -/
def le (bs : List Byte) (off n : Nat) : Nat := natOfBytes ((bs.drop off).take n)
/-- A size padded to a multiple of 8. -/
def pad8 (n : Nat) : Nat := (n + 7) / 8 * 8
/-- The eight-byte words from an offset on. -/
def wordsAt (bs : List Byte) (off n : Nat) : List W64 := (List.range n).map (fun i => BitVec.ofNat 64 (le bs (off + 8 * i) 8))

/-! ## Header and section table (R242, R243) -/

/-- A section: its index in the table, type and bytes. -/
structure Section where
  idx : Nat
  ty : Nat
  body : List Byte
deriving DecidableEq, Repr

/-- The checks of the header. R242 gives an NSECT outside 1 to 4,096, or a section table beyond IMGSIZE, no code: it is LOAD_FORMAT, after the check of
CVFVER (log 105). -/
def checkHeader (bs : List Byte) : Except LoadErr Unit :=
  let fmt : LoadErr := { code := loadFormat }
  let zeroed := bs.take 32 ++ List.replicate 32 (0 : Byte) ++ bs.drop 64
  (rejectIf (bs.length < 64 || le bs 0 4 != 0x00464747 || le bs 5 1 != 1 || le bs 24 8 != bs.length ||
    BitVec.ofNat 256 (le bs 32 32) != Config.sm3 zeroed) fmt).bind (fun _ =>
  (rejectIf (le bs 6 2 != 1) { code := loadCvf }).bind (fun _ =>
  rejectIf (le bs 8 4 == 0 || 4096 < le bs 8 4 || bs.length < 64 + 16 * le bs 8 4) fmt))

/-- The sections of an image whose header stands. -/
def readSections (bs : List Byte) : Except LoadErr (List Section) :=
  let n := le bs 8 4
  let one := fun i =>
    let at_ := 64 + 16 * i
    let ty := le bs at_ 2
    let off := le bs (at_ + 8) 8
    let size := le bs (at_ + 4) 4
    if ty = 0 ∨ bs.length < off + size then .error { code := loadFormat, sec := i, off := at_ }
    else if 10 ≤ ty ∧ le bs (at_ + 2) 2 % 2 = 0 then .error { code := loadSection, sec := i, off := at_ }
    else .ok ({ idx := i, ty := ty, body := (bs.drop off).take size } : Section)
  match mapAll one (List.range n) with
  | .error e => .error e
  | .ok ss =>
    let of := fun t => ss.filter (·.ty == t)
    match [1, 2, 3, 4, 6, 7, 8].find? (fun t => 1 < (of t).length || (t ≤ 2 && (of t).isEmpty)) with
    | some t => let i := ((of t).map (·.idx)).getLastD 0; .error { code := loadFormat, sec := i, off := 64 + 16 * i }
    | none => .ok ss

/-- The one section of a type, empty where there is none. -/
def sectionOf (ss : List Section) (ty : Nat) : Section := (ss.find? (·.ty == ty)).getD { idx := 0, ty := ty, body := [] }

/-! ## Notes (R244) -/

/-- What the notes of an image ask for, with the offset of its ROWREQ. -/
structure Notes where
  rowreq : Nat
  rowOff : Nat := 0
  spillsz : Nat
  determ : Bool
deriving DecidableEq, Repr

/-- Reads the notes from an offset of their section on. Of two ROWREQ or two SPILLSZ notes the last stands, and a note past its section is LOAD_FORMAT:
R244 settles neither (log 106). -/
def readNotes (sec : Nat) (bs : List Byte) : Nat → Nat → Notes → Except LoadErr Notes
  | 0, _, n => .ok n
  | k + 1, off, n =>
    if bs.length ≤ off then .ok n
    else
      let ty := le bs off 2
      let len := le bs (off + 4) 4
      let v := le bs (off + 8) len
      let bad := fun c => Except.error ({ code := c, sec := sec, off := off } : LoadErr)
      if bs.length < off + 8 + len then bad loadFormat
      else
        let next := off + 8 + pad8 len
        if ty = 1 then (if len = 4 ∧ 16 ≤ v ∧ v ≤ 64 then readNotes sec bs k next { n with rowreq := v, rowOff := off } else bad loadOperand)
        else if ty = 2 then
          (if len = 8 ∧ 2 ^ 20 ≤ v ∧ v ≤ 2 ^ 36 then readNotes sec bs k next { n with spillsz := v } else bad loadOperand)
        else if ty = 3 then (if len = 0 then readNotes sec bs k next { n with determ := true } else bad loadOperand)
        else if ty = 4 then readNotes sec bs k next n
        else if le bs (off + 2) 2 % 2 = 1 then bad loadNote
        else readNotes sec bs k next n

/-! ## RAISE, RINGS and DATA (R287) -/

/-- The role of a code of the role map (R287). -/
def roleOf (c : Nat) : Role := if c = 1 then .ag else if c = 2 then .rd else .cp

/-- Reads the bents of a RAISE section from an offset on. A reserved byte that is not zero is LOAD_FORMAT: R287 states no fate (log 104). -/
def readBents (sec : Nat) (bs : List Byte) : Nat → Nat → Except LoadErr (List BentDecl)
  | 0, _ => .ok []
  | k + 1, off =>
    let fmt := Except.error ({ code := loadFormat, sec := sec, off := off } : LoadErr)
    let w := le bs off 1
    let h := le bs (off + 1) 1
    let pool := le bs (off + 2) 2
    let nclaim := le bs (off + 4) 1
    let mapBytes := pad8 ((w * h + 3) / 4)
    let code := fun i => le bs (off + 8 + i / 4) 1 / 4 ^ (i % 4) % 4
    let claimAt := off + 8 + mapBytes
    let next := claimAt + pad8 (2 * nclaim)
    if bs.length < off + 8 then fmt
    else if 32 < w ∨ 32 < h then .error { code := loadCvf, sec := sec, off := off }
    else if w = 0 ∨ h = 0 ∨ 4096 < pool ∨ 64 < nclaim ∨ le bs (off + 5) 3 ≠ 0 ∨ bs.length < next then fmt
    else if (List.range (w * h)).any (fun i => code i == 3) then fmt
    else if (List.range nclaim).any (fun i => le bs (claimAt + 2 * i) 2 / 64 != 0) then fmt
    else
      let claims := (List.range nclaim).map (fun i => (le bs (claimAt + 2 * i) 2 % 8, le bs (claimAt + 2 * i) 2 / 8 % 8))
      if claims.any (fun c => (w + 3) / 4 ≤ c.1 || (h + 3) / 4 ≤ c.2) then .error { code := loadOperand, sec := sec, off := off }
      else match readBents sec bs k next with
        | .error e => .error e
        | .ok l => .ok ({ w := w, h := h, pool := pool, claims := claims, roles := (List.range (w * h)).map (fun i => roleOf (code i)) } :: l)

/-- Reads the RAISE section; a reserved byte that is not zero is LOAD_FORMAT (log 104). -/
def readRaise (sec : Section) : Except LoadErr (List BentDecl) :=
  let n := le sec.body 0 1
  if sec.body.length < 8 ∨ n = 0 ∨ le sec.body 1 7 ≠ 0 then .error { code := loadFormat, sec := sec.idx }
  else if 64 < n then .error { code := loadCvf, sec := sec.idx }
  else readBents sec.idx sec.body n 8

/-- Reads the RINGS section: each ring in a cluster of its bent, none declared twice; a reserved byte that is not zero is LOAD_FORMAT (log 104). -/
def readRings (sec : Section) (bents : List BentDecl) : Except LoadErr (List RingDecl) :=
  let n := sec.body.length / 8
  let one := fun i =>
    let e := fun k => le sec.body (8 * i + k) 1
    let bad := fun c => Except.error ({ code := c, sec := sec.idx, off := 8 * i } : LoadErr)
    if le sec.body (8 * i + 4) 4 ≠ 0 then bad loadFormat
    else if 32 ≤ e 3 then bad loadCvf
    else match bents[e 0]? with
      | some b => if (b.w + 3) / 4 ≤ e 1 ∨ (b.h + 3) / 4 ≤ e 2 then bad loadOperand
          else .ok ({ bent := e 0, cX := e 1, cY := e 2, k := e 3 } : RingDecl)
      | none => bad loadOperand
  if sec.body.length % 8 ≠ 0 then .error { code := loadFormat, sec := sec.idx }
  else match mapAll one (List.range n) with
    | .error e => .error e
    | .ok l => match (List.range l.length).find? (fun i => (l.take i).any (fun g => l[i]? == some g)) with
      | none => .ok l
      | some i => .error { code := loadOperand, sec := sec.idx, off := 8 * i }

/-- Reads a DATA section: one range of a claimed vault or of a scratchpad; a reserved byte that is not zero is LOAD_FORMAT (log 104). -/
def readData (sec : Section) (bents : List BentDecl) : Except LoadErr DataDecl :=
  let bs := sec.body
  let bad := fun c => Except.error ({ code := c, sec := sec.idx } : LoadErr)
  let kind := le bs 1 1
  let x := le bs 2 2
  let off := le bs 4 4
  let len := le bs 8 4
  if bs.length < 16 ∨ le bs 12 4 ≠ 0 ∨ bs.length < 16 + len ∨ 1 < kind then bad loadFormat
  else match bents[le bs 0 1]? with
    | none => bad loadOperand
    | some b =>
      if kind = 1 then
        (if b.claims.length ≤ x ∨ 0x200000 < off + len then bad loadOperand
         else .ok { bent := le bs 0 1, vault := true, index := x, off := off, bytes := (bs.drop 16).take len })
      else if 1024 ≤ x ∨ b.w ≤ x % 32 ∨ b.h ≤ x / 32 ∨ 0x4000 < off + len then bad loadOperand
      else .ok { bent := le bs 0 1, vault := false, index := x, off := off, bytes := (bs.drop 16).take len }

/-! ## Block images (R282 to R285) -/

/-- A block image as it stands in the image; `fits` says that its counts are in range and its parts within its LENGTH (R283, R286). -/
structure RawBlock where
  fits : Bool
  hdr : List W64
  words : List W64
  places : List Nat
  fans : List (Nat × List Nat)
  descs : List (BitVec 512)
  consts : List W64
deriving DecidableEq, Repr

/-- A field of a header word. -/
def RawBlock.f (b : RawBlock) (word lo n : Nat) : Nat := (b.hdr.getD word 0).toNat / 2 ^ lo % 2 ^ n

/-- Reads n fan lists from an offset on, those that fit, with the offset after them if all do. -/
def readFans (bs : List Byte) : Nat → Nat → List (Nat × List Nat) × Option Nat
  | 0, off => ([], some off)
  | n + 1, off =>
    let head := le bs off 4
    let k := head % 64 + 1
    if bs.length < off + 4 + 4 * k then ([], none)
    else
      let r := readFans bs n (off + 4 + 4 * k)
      ((head, (List.range k).map (fun i => le bs (off + 4 + 4 * i) 4)) :: r.1, r.2)

/-- Reads one block image: of one whose parts do not fit, the slot words and fan lists that do, which are expanded before the block is checked (R246). -/
def readBlock (bs : List Byte) : RawBlock :=
  let hdr := wordsAt bs 0 3
  let f := fun (i lo n : Nat) => (hdr.getD i 0).toNat / 2 ^ lo % 2 ^ n
  let nslot := f 0 0 8
  let nfan := f 2 43 5
  let ndesc := f 2 32 11
  let nconst := f 2 16 16
  let placeAt := 24 + 8 * nslot
  let fanAt := placeAt + pad8 (2 * nslot)
  let words := wordsAt bs 24 (Nat.min nslot ((bs.length - 24) / 8))
  let places := (List.range nslot).map (fun i => le bs (placeAt + 2 * i) 2)
  let fans := (readFans bs nfan fanAt).1
  let short : RawBlock := { fits := false, hdr := hdr, words := words, places := places, fans := fans, descs := [], consts := [] }
  if bs.length < fanAt ∨ nslot = 0 ∨ 128 < nslot ∨ 16 < nfan ∨ 1024 < ndesc then short
  else match (readFans bs nfan fanAt).2 with
    | none => short
    | some e =>
      let descAt := pad8 e
      let constAt := descAt + 64 * ndesc
      if bs.length < constAt + 8 * nconst then short
      else { fits := true, hdr := hdr, words := words, places := places, fans := fans,
             descs := (List.range ndesc).map (fun i => BitVec.ofNat 512 (le bs (descAt + 64 * i) 64)), consts := wordsAt bs constAt nconst }

/-- The offset of a block's entry in the table of the BLOCKS section (R282). -/
def blockEntry (i : Nat) : Nat := 8 + 8 * i

/-- Reads the BLOCKS section: its blocks, and the offset of what breaks the rules of its table (R282), if something does. -/
def readBlocks (sec : Section) : Option Nat × List RawBlock :=
  let bs := sec.body
  let n := le bs 0 4
  let m := Nat.min n ((bs.length - 8) / 8)
  let es := (List.range m).map (fun i => (le bs (blockEntry i) 4, le bs (blockEntry i + 4) 4))
  let entry := fun i => es.getD i (0, 0)
  let bad := fun i => (entry i).1 % 8 != 0 || bs.length < (entry i).1 + (entry i).2 ||
    (List.range i).any (fun j => overlaps (entry i).1 (entry i).2 (entry j).1 (entry j).2)
  (if bs.length < 8 ∨ n = 0 ∨ 4095 < n ∨ le bs 4 4 ≠ 0 ∨ m < n then some 0 else ((List.range m).find? bad).map blockEntry,
   es.map (fun e => readBlock ((bs.drop e.1).take e.2)))

/-! ## Rewrite entries (R249 to R252) -/

/-- A rewrite entry: opcode, types, where the ports go, and its slots with their INH bits. -/
structure Rewrite where
  opc : Nat
  tymask : Nat
  ins : List (Option (Port × Nat))
  slots : List (W64 × Nat)
deriving DecidableEq, Repr

/-- The port of a two-bit code; none for 11. -/
def portOf (n : Nat) : Option Port := if n = 0 then some .a else if n = 1 then some .b else if n = 2 then some .p else none

/-- Reads rewrite entries from an offset on. NSLOT outside 1 to 16, an entry past its section, reserved bits, and an IN field with port 11 are
LOAD_OPERAND: R250 names no code for them (log 108). -/
def readRewrites (sec : Nat) (bs : List Byte) : Nat → Nat → Except LoadErr (List Rewrite)
  | 0, _ => .ok []
  | k + 1, off =>
    if bs.length ≤ off then .ok []
    else
      let n := le bs (off + 1) 1
      let inf := fun i => le bs (off + 4 + i) 1
      let bad := Except.error ({ code := loadOperand, sec := sec, off := off } : LoadErr)
      let slotAt := fun i => off + 16 + 16 * i
      if bs.length < off + 16 + 16 * n ∨ n = 0 ∨ 16 < n ∨ le bs (off + 7) 9 ≠ 0 then bad
      else if (List.range 3).any (fun i => 128 ≤ inf i && (n ≤ inf i % 16 || (portOf (inf i / 32 % 4)).isNone)) then bad
      else if (List.range n).any (fun i => le bs (slotAt i + 9) 7 != 0) then bad
      else
        let r : Rewrite :=
          { opc := le bs off 1, tymask := le bs (off + 2) 2,
            ins := (List.range 3).map (fun i => if 128 ≤ inf i then (portOf (inf i / 32 % 4)).map (fun p => (p, inf i % 16)) else none),
            slots := (List.range n).map (fun i => (BitVec.ofNat 64 (le bs (slotAt i) 8), le bs (slotAt i + 8) 1)) }
        match readRewrites sec bs k (slotAt n) with
        | .error e => .error e
        | .ok l => .ok (r :: l)

/-- The code of a target port of a slot (R276). -/
def targetCode (p : Port) (slot : Nat) : BitVec 9 := BitVec.ofNat 9 (p.code * 128 + slot)

/-- Where the ports of a slot go after its expansion. -/
structure Moved where
  blk : Nat
  slot : Nat
  ins : List (Option (Port × Nat))
deriving DecidableEq, Repr

/-- Moves a direct target of the block; none for one that names a port that goes nowhere. -/
def Moved.code (m : Moved) (t : BitVec 9) : Option (BitVec 9) :=
  if t.toNat < 0x180 ∧ t.toNat % 128 = m.slot then
    match m.ins.getD (t.toNat / 128) none with
    | some (p, s) => some (targetCode p s)
    | none => none
  else some t

/-- Moves the targets of a slot word of the block. -/
def Moved.word (m : Moved) (w : W64) : Option W64 :=
  let o := SlotOps.ofWord w
  match m.code o.t0, m.code o.t1 with
  | some a, some b => some ({ o with t0 := a, t1 := b }.word (slotOpc w))
  | _, _ => none

/-- Moves a fan-list entry that stands in block `own`. -/
def Moved.fan (m : Moved) (own e : Nat) : Option Nat :=
  let blk := if e / 2 ^ 13 % 2 ^ 12 = 0xFFF then own else e / 2 ^ 13 % 2 ^ 12
  if blk = m.blk ∧ e % 128 = m.slot then
    match m.ins.getD (e / 128 % 4) none with
    | some (p, s) => some (e / 512 * 512 + p.code * 128 + s)
    | none => none
  else some e

/-- A list of answers, or none when one is missing. -/
def allSome {α : Type} : List (Option α) → Option (List α)
  | [] => some []
  | x :: xs => match x, allSome xs with
    | some y, some ys => some (y :: ys)
    | _, _ => none

/-- Moves every target and fan-list entry of a raising (R251). -/
def Moved.blocks (m : Moved) (bs : List RawBlock) : Option (List RawBlock) :=
  allSome ((List.range bs.length).map (fun i => (bs[i]?).bind (fun b =>
    let ws := if i = m.blk then allSome (b.words.map m.word) else some b.words
    let fs := allSome (b.fans.map (fun l => (allSome (l.2.map (m.fan i))).map (fun x => (l.1, x))))
    match ws, fs with
    | some ws, some fs => some { b with words := ws, fans := fs }
    | _, _ => none)))

/-- The word of an expansion slot: inherited fields, and its targets resolved (R250, R251). A target that names expansion slot 0 stays at the slot that
the entry replaces, whatever the IN fields say, and one at or above NSLOT is LOAD_OPERAND: R251 settles neither (log 108). -/
def Rewrite.word (orig : SlotOps) (place : Nat → Nat) (n : Nat) (e : W64 × Nat) : Option W64 :=
  let o := SlotOps.ofWord e.1
  let bit := fun i => e.2 / 2 ^ i % 2 == 1
  let tgt := fun (t : BitVec 9) =>
    if t.toNat = 0x1A0 then some orig.t0
    else if t.toNat = 0x1A1 then some orig.t1
    else if t.toNat < 0x180 then
      (if t.toNat % 128 < n then some (BitVec.ofNat 9 (t.toNat / 128 * 128 + place (t.toNat % 128))) else none)
    else some t
  match tgt o.t0, tgt o.t1 with
  | some a, some b => some ({ o with
      ty := if bit 0 then orig.ty else o.ty
      mod := if bit 1 then orig.mod else o.mod
      pr := if bit 2 then orig.pr else o.pr
      x := if bit 3 then orig.x else o.x
      t0 := a
      t1 := b }.word (slotOpc e.1))
  | _, _ => none

/-- Whether a slot word's opcode is undefined on this device (R249, R290). -/
def undefinedOpc (w : W64) : Bool := (ofOpcode (slotOpc w) (SlotOps.ofWord w)).isNone

/-- Expands one slot that holds an undefined opcode (R249 to R252). -/
def expandSlot (rw : List Rewrite) (bs : List RawBlock) (blk slot : Nat) : Except LoadErr (List RawBlock) :=
  match bs[blk]? with
  | none => .ok bs
  | some b =>
    let w := b.words.getD slot 0
    if !undefinedOpc w then .ok bs
    else
      let bad := fun c => Except.error ({ code := c, blk := blk, slot := slot, opc := slotOpc w } : LoadErr)
      match rw.find? (fun r => r.opc == slotOpc w && r.tymask / 2 ^ (SlotOps.ofWord w).ty.toNat % 2 == 1) with
      | none => bad loadOpcode
      | some r =>
        let n := r.slots.length
        let base := b.words.length
        let place := fun k => if k = 0 then slot else base + k - 1
        if r.slots.any (fun e => undefinedOpc e.1) then bad loadNested
        else if 128 < base + n - 1 then bad loadSize
        else
          let m : Moved := { blk := blk, slot := slot, ins := r.ins.map (fun x => x.map (fun y => (y.1, place y.2))) }
          match m.blocks bs with
          | none => bad loadOperand
          | some bs =>
            match bs[blk]? with
            | none => .ok bs
            | some b =>
              match allSome (r.slots.map (Rewrite.word (SlotOps.ofWord (b.words.getD slot 0)) place n)) with
              | some (e0 :: es) =>
                let b := { b with
                  words := b.words.set slot e0 ++ es
                  places := b.places ++ List.replicate es.length 0x8000 }
                .ok (bs.set blk b)
              | _ => bad loadOperand

/-- Whether a slot of some block needs an entry that a list of rewrite entries does not have (R249). -/
def needsMore (rw : List Rewrite) (bs : List RawBlock) : Bool :=
  bs.any (fun b => b.words.any (fun w => undefinedOpc w &&
    !rw.any (fun r => r.opc == slotOpc w && r.tymask / 2 ^ (SlotOps.ofWord w).ty.toNat % 2 == 1)))

/-- Expands every slot of every block. -/
def expandAll (rw : List Rewrite) (bs : List RawBlock) : Except LoadErr (List RawBlock) :=
  ((List.range bs.length).flatMap (fun i => (List.range ((bs[i]?).elim 0 (·.words.length))).map (fun j => (i, j)))).foldl
    (fun r p => match r with
      | .ok l => expandSlot rw l p.1 p.2
      | .error e => .error e) (.ok bs)

end Sys2Proof.Machine
end

