-- ==== Sys2Proof/Machine/Place.lean ====
section
/-! DEFINITION. The parts of the state as they are when they come into being: elements and clusters of a placed bent (R35, R45,
R131, R235, R271, R294), queues, virtual devices and partitions (R217, R237, R254); and placing one instruction for the step. -/

namespace Sys2Proof.Machine

open Sys2Proof

/-- An element at its phase's launch: rows empty, registers cleared (R131, R271, R294). -/
def Elem.fresh (cx cy : Nat) : Elem where
  cx := cx
  cy := cy
  link := []
  rows := []
  ready := []
  flags := 0
  rmode := 0
  warn := 0
  nondet := 0
  pwin := List.replicate 8 none
  own := []
  ctr := []
  kbnd := []
  gate := []
  reord := []
  join := []
  cmb := []
  stats := []
  streams := []
  scat := []
  batches := []
  eccFrozen := false
  strayCount := 0
  strayNext := 0
  rangeCount := 0
  rangeNext := 0

/-- The shared units of a cluster at a phase's launch: no ring configured, nothing in progress (R66, R235). -/
def Cluster.fresh (cX cY : Nat) : Cluster where
  cX := cX
  cY := cY
  link := []
  rows := []
  ready := []
  rings := []
  score := []
  nodes := []
  firing := none
  scribe := []
  copies := []
  laharWin := []
  jointer := []
  jlast := 0

/-- A timeline at launch: empty window, g registers 0 (R42, R45). -/
def Timeline.fresh : Timeline where
  win := []
  waiting := []
  aborted := []
  redeliver := none
  g := List.replicate 64 0
  chain := true

/-- The default watchdog interval (R58). -/
def wdDefault : Nat := 2 ^ 24
/-- The default spill area of a bent in bytes (R36). -/
def spillDefault : Nat := 64 * 2 ^ 20

/-- A bent at its placement (R31, R61, R191): its contexts, claims and grant mask are the loader's to fill in. -/
def Bent.fresh (pkg : Pkg) (x0 y0 w h : Nat) (roles : List Role) (now : Nat) : Bent where
  pkg := pkg
  x0 := x0
  y0 := y0
  w := w
  h := h
  roles := roles
  claims := []
  grant := []
  vdx := 0
  vdy := 0
  rootCtx := 0
  tlCtx := []
  pool := []
  ctxs := []
  bentId := 0
  engFlags := 0
  engWarn := 0
  engRmode := 0
  spillCnt := 0
  trimCnt := 0
  refaultCnt := 0
  lostPosted := 0
  cycAcc := 0
  runFrom := some now
  wdInterval := wdDefault
  ages := []
  spillSize := spillDefault
  spill := []
  completions := 0
  frozen := false
  isSealed := false
  timelines := List.replicate 16 Timeline.fresh
  frozenTags := []
  elems := (List.range h).flatMap (fun cy => (List.range w).map (fun cx => Elem.fresh cx cy))
  clus := (List.range ((h + 3) / 4)).flatMap (fun cY => (List.range ((w + 3) / 4)).map (fun cX => Cluster.fresh cX cY))

/-- A queue as Kiln binds it: STOPPED, QPTR 0, reservations 0 (R216, R237). -/
def Queue.fresh (v : VdRef) (q sequencer qbase : Nat) (prog : List W64) : Queue where
  vdr := v
  q := q
  sequencer := sequencer
  qbase := qbase
  prog := prog
  qptr := 0
  state := .stopped
  prio := 0
  work := none
  sig := none
  admitAt := 0
  pendResv := none
  defResv := 0
  excess := 0
  timers := []
  rid := none
  resv := 0
  used := 0
  endCode := 0
  report := none

/-- A virtual device as Kiln creates it: EALLOT, ENERGY, DEPCOUNT, DEPCTL and DBGEN 0 (R237, R254, R315), TGEN 0 (R173). -/
def Vdev.fresh (v : VdRef) (home : Pkg) (ctxBase ctxLim : Nat) : Vdev where
  vdr := v
  vdId := BitVec.ofNat 64 v.vd
  home := home
  ctxBase := ctxBase
  ctxLim := ctxLim
  semBase := 0
  semCount := 0
  energy := 0
  ealot := 0
  depcount := 0
  depctl := 0
  depArmed := true
  dbgen := false
  pinq := 0
  troot := []
  tgen := []
  posted := 0
  lost := []
  ranges := []
  shadows := []
  images := []
  libAt := none
  mailbox := []
  ingress := { head := 0, slots := [], binding := none, waiting := [] }
  saveBase := 0
  savedClus := []

/-- A partition as a layout brings it into being (R222, R267): rounds not started, default grace window (R227). -/
def Partition.fresh (l : PartLayout) : Partition where
  lay := l
  shares := []
  partId := BitVec.ofNat 64 l.part
  qtOff := 0
  quota := l.quota
  q := 80000000
  g := 1472960
  w := 400000
  round := 0
  slot := 0
  slotStart := 0
  phase := .idle
  suspended := false
  dirty := { base := 0, size := 0, wr := 0, rd := 0, ovf := false }
  faults := []
  ring := { base := 0, cap := 0, wr := 0 }
  strays := []
  catch_ := []
  txSize := 16 * 2 ^ 20
  charged := 0
  ckpt := none

/-! ## One instruction where the step runs it -/

/-- A layout of one partition with every resource of its packages, for `placeSlot`. -/
def soleLayout (clusters : List Clu) : PartLayout where
  part := 0
  clusters := clusters
  ctxBase := 0
  ctxLim := 65535
  quota := 512
  keys := []
  envelope := 0
  hbm := 0x6000000000
  vault := 0x80000000
  sinter := 0xC000000000
  sequencers := List.range 64
  semBase := 0
  semCount := 1024

/-- A raising of one bent of one cluster whose block holds one slot word, for `placeSlot`. -/
def oneSlotRaising (rid now : Nat) (w : W64) : Raising :=
  let ord := slotOpc w = 0x68 || slotOpc w = 0x69
  let role : Role := if slotOpc w = 0x5F || slotOpc w = 0x80 then .rd else .ag
  let b0 := Bent.fresh { px := 0, py := 0 } 0 0 4 4 (List.replicate 16 role) now
  let e0 : WinEntry := { ts := 0, blk := 0, start := nullTok (Tag.mk 1 0), exits := 0, exitNull := 0, lsids := [], stores := [],
                         writes := [], held := [], reads := [], faults := [], charged := 0 }
  let b := { b0 with
    rootCtx := 0
    tlCtx := (List.range 16).map (· + 1)
    pool := (List.range 16).map (· + 17)
    claims := [(0, 0)]
    grant := [0]
    timelines := if ord then b0.timelines.modify 0 (fun t => { t with win := [e0] }) else b0.timelines }
  { rid := rid, raiseId := BitVec.ofNat 64 rid, vdr := { part := 0, vd := 0 }, queue := 0, image := 0,
    blocks := [{ ordered := ord, timeline := 0, entry := true, bent := 0, stmask := 0, wrmask := 0, nexit := 1, nread := 0,
                 slots := [{ word := w, cx := 0, cy := 0, bNamed := true }], fans := [], descs := [], consts := [] }],
    bents := [b], state := .running, brkStop := false, brks := [], halts := [], stats := [], resv := 0, used := 0, admitted := now }

/-- Places a slot word with operand tokens of payload 0 at a station, and puts its firing at the head of the tape. -/
def State.placeSlot (s : State) (w : W64) : State :=
  let rid := s.nextRid
  let ord := slotOpc w = 0x68 || slotOpc w = 0x69
  let tag := if ord then Tag.mk 1 0 else Tag.mk 0 0
  let u : UnitLoc := if tileClass w then .station 0 0 else .elem 0 0
  let br : BentRef := { rid := rid, bent := 0 }
  let tok := fun (port : Port) (v : Nat) =>
    ({ blk := 0, slot := 0, port := port, tok := scalarTok tag v, at_ := s.now, frozen := false } : WaitTok)
  let pv := if (SlotOps.ofWord w).pr = 2 then 0 else 1
  let r : Ready := match stationInstr w .a with
    | some i => match portRule i true with
      | .pair na nb np => { blk := 0, slot := 0, tag := tag, a := if na then some (tok .a 0) else none,
                            b := if nb then some (tok .b 0) else none, p := if np then some (tok .p pv) else none }
      | .each np => { blk := 0, slot := 0, tag := tag, a := some (tok .a 0), b := none, p := if np then some (tok .p pv) else none }
      | .mask np => { blk := 0, slot := 0, tag := tag, a := some (tok .a 0), b := none, p := if np then some (tok .p pv) else none }
      | .steer => { blk := 0, slot := 0, tag := tag, a := some (tok .a 0), b := none, p := some (tok .p pv) }
      | .merge => { blk := 0, slot := 0, tag := tag, a := some (tok .a 0), b := none, p := some (tok .p 1) }
    | none => { blk := 0, slot := 0, tag := tag, a := some (tok .a 0), b := none, p := none }
  let lay := soleLayout [{ pkg := { px := 0, py := 0 }, X := 0, Y := 0 }]
  let s := { s with
    nextRid := rid + 1
    parts := { Partition.fresh lay with phase := .quantum, slotStart := s.now } :: s.parts
    vdevs := Vdev.fresh { part := 0, vd := 0 } { px := 0, py := 0 } 0 65535 :: s.vdevs
    raisings := oneSlotRaising rid s.now w :: s.raisings
    sched := [.fire br u] }
  match u with
  | .elem cx cy => s.updElem br cx cy (fun e => { e with ready := [r] })
  | .station cX cY => s.updClus br cX cY (fun c => { c with ready := [r] })

/-- Gives a queue of a virtual device in its slot a program of the given words, and puts its turn at the head of the tape. -/
def State.placeWords (s : State) (ws : List W64) : State :=
  { s with
    parts := { Partition.fresh (soleLayout []) with phase := .quantum, slotStart := s.now } :: s.parts
    vdevs := { Vdev.fresh { part := 0, vd := 0 } { px := 0, py := 0 } 0 65535 with semCount := 1024 } :: s.vdevs
    queues := { Queue.fresh { part := 0, vd := 0 } 0 0 0 ws with state := .ready } :: s.queues
    sched := [.take { part := 0, vd := 0 } 0] }

/-- Places an instruction's bits: a slot word when it has one word, queue words when it has more. -/
def State.placeBits (s : State) (nbits w : Nat) : State :=
  if nbits ≤ 64 then s.placeSlot (BitVec.ofNat 64 w) else s.placeWords (wordsOf 5 w)

end Sys2Proof.Machine
end

