-- ==== Sys2Proof/Machine/Loader.lean ====
section
/-! DEFINITION. The loader's checks of an image (R11, R22, R41, R74, R217, R246, R247, R275 to R287, and the entries they cite), the placing
of ANY slots (R284) and of raisings (R31, R220, R221, R234, R235, R386), and the event IMAGE_LOAD (R245, R253, R256). -/

namespace Sys2Proof.Machine

open Sys2Proof

/-! ## Which ports an instruction reads (R274 to R277) -/

/-- Whether a B port that nothing names is rejected. -/
def mustNameB : Instr → Bool
  | .kbndAdmit _ | .kbndRetire _ | .swr _ => true
  | .cpy _ | .cpys _ => false
  | i => readsB i && !admitsImm i

/-- Whether an instruction reads a port. -/
def readsPort (i : Instr) (p : Port) : Bool :=
  match p with
  | .a => true
  | .b => mustNameB i || admitsImm i || (match i with
      | .gath _ | .cpys _ | .merge _ | .mmam _ => true
      | .cpy o => o.x.getLsbD 18
      | .scrb o => o.x.getLsbD 16
      | .join o => o.x.getLsbD 6
      | _ => false)
  | .p => match i with
    | .steer _ | .merge _ | .gate _ => true
    | _ => (i.ops?).elim false slotPredicated

/-! ## An image under check -/

/-- What the checks of a slot look at: the bents, blocks, rings and notes, every port that a target or fan-list entry names, and the
cells of the slots by block. -/
structure LoadEnv where
  bents : List BentDecl
  blocks : List BlockImg
  rings : List RingDecl
  notes : Notes
  named : List (Nat × Nat × Port)
  cells : List (List (Nat × Nat))
deriving DecidableEq, Repr

/-- The fan-list entry of 32 bits (R51). -/
def FanEntry.ofNat (e : Nat) : FanEntry :=
  { rmt := e / 2 ^ 31 % 2 == 1, bent := e / 2 ^ 25 % 64, blk := e / 2 ^ 13 % 2 ^ 12, port := (portOf (e / 128 % 4)).getD .a, slot := e % 128 }

/-- The place of a place entry (R284). -/
def placeOf (n : Nat) : Place := if 0x8000 ≤ n then none else some (n / 32 % 32, n % 32)

/-- A block as the loader checks it. -/
def RawBlock.img (b : RawBlock) : BlockImg :=
  { ordered := b.f 0 20 1 == 1, timeline := b.f 0 16 4, entry := b.f 0 21 1 == 1, bent := b.f 0 26 6, stmask := b.f 0 32 32,
    wrmask := (b.hdr.getD 1 0).toNat, nexit := b.f 2 48 8, nread := b.f 2 56 8, words := b.words, places := b.places.map placeOf,
    fans := b.fans.map (fun l => l.2.map FanEntry.ofNat), descs := b.descs, consts := b.consts }

/-- The ports that the targets of a block name (R276). -/
def BlockImg.names (b : BlockImg) (own : Nat) : List (Nat × Nat × Port) :=
  let one := fun (t : BitVec 9) => if t.toNat < 0x180 then (match portOf (t.toNat / 128) with
    | some p => [(own, t.toNat % 128, p)]
    | none => []) else []
  b.words.flatMap (fun w => one (SlotOps.ofWord w).t0 ++ one (SlotOps.ofWord w).t1) ++
  b.fans.flatMap (fun l => l.map (fun e => (if e.blk = 0xFFF then own else e.blk, e.slot, e.port)))

/-- Every port that the raising names. -/
def namedPorts (bs : List BlockImg) : List (Nat × Nat × Port) :=
  (List.range bs.length).flatMap (fun i => (bs[i]?).elim [] (·.names i))

/-! ## Roles and the placing of ANY slots (R11, R22, R284, R286, R289) -/

/-- Whether a role admits an instruction of an opcode. -/
def admits (r : Role) (opc : Nat) : Bool :=
  let agOnly := (0x70 ≤ opc && opc ≤ 0x7E) || (0x98 ≤ opc && opc ≤ 0x99) || (0xA0 ≤ opc && opc ≤ 0xA9) || opc == 0xE0 || opc == 0xE3
  if agOnly then r == .ag else if opc == 0x80 || opc == 0x5F then r == .rd else true

/-- The role of a canonical cell of a declared bent. -/
def BentDecl.roleAt (b : BentDecl) (cx cy : Nat) : Role := b.roles.getD (cy * b.w + cx) .cp

/-- The slots on a cell, tile-class ones apart. -/
def slotsOn (l : List (Nat × Nat × Nat × Nat × Bool)) (cx cy : Nat) : Nat := (l.filter (fun e => e.2.2.1 == cx && e.2.2.2.1 == cy && !e.2.2.2.2)).length

/-- The slots of a bent with their places: block, slot, word, place. -/
def bentSlots (bs : List BlockImg) (bent : Nat) : List (Nat × Nat × W64 × Place) :=
  (List.range bs.length).flatMap (fun i => match bs[i]? with
    | some b => if b.bent = bent then (List.range b.words.length).map (fun j => (i, j, b.words.getD j 0, b.places.getD j none)) else []
    | none => [])

/-- Puts every slot of a bent on a cell (R284): the pinned ones first, then the ANY ones in order; none when a slot has no cell, or a count
of R286 is exceeded. `fenced` tells fenced canonical cells. Each entry is block, slot, column, row, tile class. -/
def assignBent (d : BentDecl) (bs : List BlockImg) (bent : Nat) (fenced : Nat → Nat → Bool) : Option (List (Nat × Nat × Nat × Nat × Bool)) :=
  let slots := bentSlots bs bent
  let pinned := slots.filterMap (fun e => e.2.2.2.map (fun c => (e.1, e.2.1, c.1, c.2, tileClass e.2.2.1)))
  let anys := slots.filter (fun e => e.2.2.2.isNone)
  let cellsOf := (List.range d.h).flatMap (fun y => (List.range d.w).map (fun x => (x, y)))
  let place := fun (l : List (Nat × Nat × Nat × Nat × Bool)) (e : Nat × Nat × W64 × Place) =>
    (cellsOf.find? (fun c => admits (d.roleAt c.1 c.2) (slotOpc e.2.2.1) && !fenced c.1 c.2 && slotsOn l c.1 c.2 < 32)).map
      (fun c => l ++ [(e.1, e.2.1, c.1, c.2, false)])
  let full := anys.foldl (fun r e => r.bind (fun l => place l e)) (some pinned)
  full.bind (fun l =>
    if pinned.any (fun e => !e.2.2.2.2 && fenced e.2.2.1 e.2.2.2.1) then none
    else if cellsOf.any (fun c => 32 < slotsOn l c.1 c.2) then none
    else if l.any (fun e => e.2.2.2.2 && 16 < (l.filter (fun g =>
        g.2.2.2.2 && g.2.2.1 / 4 == e.2.2.1 / 4 && g.2.2.2.1 / 4 == e.2.2.2.1 / 4)).length) then none
    else some l)

/-- The cell of a slot in an assignment. -/
def cellIn (l : List (Nat × Nat × Nat × Nat × Bool)) (blk slot : Nat) : Nat × Nat :=
  match l.find? (fun e => e.1 == blk && e.2.1 == slot) with
  | some e => (e.2.2.1, e.2.2.2.1)
  | none => (0, 0)

/-! ## Descriptors (R74, and the entries that add to it) -/

/-- The rules of R74 for one descriptor, and that of a scale for the 8-bit formats. -/
def Desc.ok (b : BitVec 512) : Bool :=
  let d := Desc.ofBits b
  d.nd1 ≤ 4 && d.cop ≤ 9 && descF b 448 29 == 0 && d.dims.all (· != 0) &&
  (!(0xE ≤ d.fmt) || (d.ext.headD 0 % 32 == 0 && d.scaled && d.str.all (fun x => x % 16 == 0))) &&
  (!(d.fmt == 0xC || d.fmt == 0xD) || !d.scaled || d.ext.headD 0 % 32 == 0) &&
  (!d.tl || (d.ext.headD 0 % d.tc == 0 && d.ext.getD 1 0 % d.tr == 0))

/-- The descriptor at an index of a block. -/
def BlockImg.desc (b : BlockImg) (i : Nat) : Option Desc := b.descs[i]?.map Desc.ofBits

/-- The descriptor rules of an instruction (R74, R322, R350, R411, R418, R426, R433); `any` says that its place entry is ANY. -/
def descRules (i : Instr) (b : BlockImg) (any : Bool) : Bool :=
  match i with
  | .srd o => (b.desc (o.xf 0 20)).elim false (fun d => !(d.tl && d.scaled && 32 < d.mostScales))
  | .swr o => (b.desc (o.xf 0 20)).isSome
  | .csrd o => (b.desc (o.xf 0 20)).elim false (fun d => d.fmt == 5 || d.fmt == 7)
  | .gath o => (b.desc (o.xf 0 20)).elim false (fun d => !d.loc && d.fmt < 0xE)
  | .scat o => (b.desc (o.xf 0 20)).elim false (fun d => !d.loc && d.fmt < 0xE &&
      !(1 ≤ d.cop && d.cop ≤ 6 && 8 ≤ d.fmt) && !(7 ≤ d.cop && d.fmt < 8))
  | .tcvtMem o =>
    let blockScaled := 0xE ≤ o.ty.toNat || o.x.getLsbD 16
    (b.desc (o.xf 0 10)).elim false (fun d => d.fmt == o.ty.toNat && d.tl && d.cop == 0 && d.scaled == blockScaled)
  | .cpy o =>
    let dr := o.x.getLsbD 19
    let msk := o.x.getLsbD 18
    match b.desc (o.xf 0 16), b.desc (o.xf 0 16 + 1) with
    | some s, dst => !s.sh && (!(dr || msk) || s.tl) && !(dr && any) &&
        (dr || dst.elim false (fun d => s.fmt == d.fmt && d.cop == 0 && s.total == d.total && !(s.scaled && !d.scaled)))
    | none, _ => false
  | .cpys o => match b.desc (o.xf 0 16), b.desc (o.xf 0 16 + 1) with
    | some s, some d =>
      s.fmt == d.fmt && !s.sh && d.cop == 0 && s.nd1 != 0 && d.nd1 == 0 && d.ext.headD 0 == s.ext.headD 0 && !s.scaled && !d.scaled &&
        !s.tl && !d.tl
    | _, _ => false
  | _ => true

/-! ## The checks of one slot -/

/-- The constant-pool index of an instruction. -/
def constIndex : Instr → Option Nat
  | .mad o | .ffma o | .sel o | .scrb o | .stsnk o => some (o.xf 0 16)
  | _ => none

/-- The rings that an instruction names. -/
def ringsOf (i : Instr) : List Nat :=
  match i with
  | .mma o | .mmam o => [o.xf 24 5, o.xf 19 5, o.xf 14 5] ++ (if o.x.getLsbD 8 then [o.xf 9 5] else [])
  | .scout o => [o.xf 24 5, o.xf 19 5]
  | .ring o => [o.xf 0 5]
  | .tcvtRing o | .tfn o | .tred o | .ttrn o => [o.xf 24 5, o.xf 19 5]
  | .tcvtMem o => [o.xf 24 5]
  | .cpy o => if o.x.getLsbD 19 then [o.xf 24 5] else []
  | _ => []

/-- Whether a class of instruction may stand in an ORDERED block (R41, R289). -/
def orderedOk (opc : Nat) : Bool :=
  !(opc == 0x5C || opc == 0x5D || opc == 0x5E || opc == 0xE3 || (0x72 ≤ opc && opc ≤ 0x7E) || (0x88 ≤ opc && opc ≤ 0x91) ||
    (0x98 ≤ opc && opc ≤ 0x99) || (0xA0 ≤ opc && opc ≤ 0xA9))

/-- Whether some target of a STAD names only STAD or STSNK slots of its bent (R422). -/
def LoadEnv.stadOk (e : LoadEnv) (blk : Nat) (b : BlockImg) (t : BitVec 9) : Bool :=
  let stat := fun (i j : Nat) => match e.blocks[i]? with
    | some c => c.bent == b.bent && (let opc := slotOpc (c.words.getD j 0); opc == 0xAC || opc == 0xAD)
    | none => false
  if t.toNat < 0x80 then stat blk (t.toNat % 128)
  else if 0x180 ≤ t.toNat ∧ t.toNat < 0x190 then
    (b.fans.getD (t.toNat - 0x180) []).all (fun f => f.port == .a && stat (if f.blk = 0xFFF then blk else f.blk) f.slot)
  else false

/-- The code that rejects a slot, if one does (R41, R246, R275 to R281, R286). -/
def LoadEnv.slotCode (e : LoadEnv) (blk : Nat) (b : BlockImg) (slot : Nat) : Option Nat :=
  let w := b.words.getD slot 0
  let opc := slotOpc w
  let any := (b.places.getD slot none).isNone
  let cell := (e.cells.getD blk []).getD slot (0, 0)
  match decodeSlot w, e.bents[b.bent]? with
  | .ok i, some d =>
    match loadCheck i with
    | some c => some c
    | none =>
      match i.ops? with
      | none => some loadOpcode
      | some o =>
        let here := fun p => e.named.contains (blk, slot, p)
        let tgt := fun (t : BitVec 9) => t.toNat == 0x1FF || (t.toNat < 0x180 && t.toNat % 128 < b.words.length) ||
          (0x180 ≤ t.toNat && t.toNat < 0x190 && t.toNat - 0x180 < b.fans.length)
        let groupOk := match i with
          | .mcred o | .mcst o => (List.range e.blocks.length).any (fun n => match e.blocks[n]? with
              | some c => c.bent == b.bent && (List.range c.words.length).any (fun j =>
                  slotOpc (c.words.getD j 0) == 0xA6 && (SlotOps.ofWord (c.words.getD j 0)).xf 0 8 == o.xf 0 8 &&
                  (e.cells.getD n []).getD j (0, 0) == cell)
              | none => false)
          | _ => true
        let chainOk := match i with
          | .exit o =>
            if o.x.getLsbD 12 then
              match e.blocks[o.xf 0 12]? with
              | some c => if b.ordered then c.ordered && c.timeline == b.timeline && c.bent == b.bent else !c.ordered
              | none => !b.ordered
            else true
          | _ => true
        let cls := if b.ordered then orderedOk opc else !(opc == 0x68 || opc == 0x69)
        if !cls then some loadClass
        else if opc = 0x71 ∧ !b.ordered ∧ o.xf 24 5 ≠ 0 then some loadMask
        else if !chainOk then some loadChain
        else if !(tgt o.t0 && tgt o.t1) then some loadOperand
        else if (here .b && !readsPort i .b) || (here .p && !readsPort i .p) then some loadOperand
        else if mustNameB i && !here .b then some loadOperand
        else if (constIndex i).elim false (fun n => b.consts.length ≤ n) then some loadOperand
        else if !descRules i b any then some loadOperand
        else if any && tileClass w then some loadOperand
        else if (ringsOf i).any (fun k => !e.rings.any (fun g => g.bent == b.bent && g.k == k && g.cX == cell.1 / 4 && g.cY == cell.2 / 4)) then
          some loadOperand
        else if !groupOk then some loadOperand
        else if opc = 0xAC ∧ !e.stadOk blk b o.t0 then some loadOperand
        else if opc = 0x5C ∧ o.mod ≠ 1 ∧ d.pool = 0 then some loadOperand
        else if opc = 0x80 ∧ o.x.getLsbD 15 ∧ e.notes.determ then some loadOperand
        else match b.places.getD slot none with
          | some c =>
            if d.w ≤ c.1 ∨ d.h ≤ c.2 then some loadOperand
            else if !tileClass w && !admits (d.roleAt c.1 c.2) opc then some loadRole
            else none
          | none => none
  | _, _ => some loadOpcode

/-! ## The checks of one block (R41, R51, R74, R283, R286) -/

/-- Whether the target graph of a block has a cycle: slots with no predecessor are taken away until none is left. -/
def graphCycle (succ : Nat → List Nat) : Nat → List Nat → Bool
  | 0, l => !l.isEmpty
  | k + 1, l =>
    let inner := l.filter (fun n => l.any (fun m => (succ m).contains n))
    if inner.length = l.length then !l.isEmpty else graphCycle succ k inner

/-- The slots of its own block that a slot's targets name. -/
def BlockImg.succ (b : BlockImg) (own slot : Nat) : List Nat :=
  let o := SlotOps.ofWord (b.words.getD slot 0)
  let one := fun (t : BitVec 9) =>
    if t.toNat < 0x180 then [t.toNat % 128]
    else if t.toNat < 0x190 then ((b.fans.getD (t.toNat - 0x180) []).filter (fun e => e.blk == 0xFFF || e.blk == own)).map (·.slot)
    else []
  one o.t0 ++ one o.t1

/-- The LSIDs of the STs, or the registers of the WRITEs, of a block. -/
def BlockImg.carried (b : BlockImg) (opc lo n : Nat) : List Nat :=
  (b.words.filter (fun w => slotOpc w == opc)).map (fun w => (SlotOps.ofWord w).xf lo n)

/-- Whether a mask is covered: each of its bits once, and nothing outside it. -/
def maskOk (mask n : Nat) (l : List Nat) : Bool :=
  (List.range n).all (fun i => (l.filter (· == i)).length == (if maskBit mask i then 1 else 0))

/-- The format rules of a block (R283 to R286, R51). -/
def RawBlock.formatOk (b : RawBlock) (nbent : Nat) : Bool :=
  b.fits && b.f 0 22 4 == 0 && b.f 0 8 8 == 0 && b.f 2 0 16 == 0 && b.f 0 26 6 < nbent && b.f 2 56 8 ≤ 64 && b.f 2 48 8 ≤ 128 &&
  b.places.all (fun p => if 0x8000 ≤ p then p == 0x8000 else p / 1024 == 0) &&
  b.fans.all (fun l => l.1 / 64 == 0 && l.2.all (fun e => e / 512 % 16 == 0))

/-- The checks of one block of the raising. -/
def LoadEnv.checkBlock (e : LoadEnv) (sec i : Nat) (r : RawBlock) (b : BlockImg) : Except LoadErr Unit :=
  let at_ := fun c => ({ code := c, sec := sec, blk := i, off := blockEntry i } : LoadErr)
  let count := fun opc => (b.words.filter (fun w => slotOpc w == opc)).length
  let fanBad := b.fans.any (fun l => l.any (fun f =>
    (!f.rmt && f.bent != 0) || (f.rmt && e.bents.length ≤ f.bent) || (match e.blocks[if f.blk = 0xFFF then i else f.blk]? with
      | some c => c.words.length ≤ f.slot || c.bent != (if f.rmt then f.bent else b.bent)
      | none => true)))
  (rejectIf (!r.formatOk e.bents.length) (at_ loadFormat)).bind (fun _ =>
  (rejectIf (!b.ordered && (b.timeline != 0 || b.stmask != 0 || b.wrmask != 0)) (at_ loadClass)).bind (fun _ =>
  (rejectIf (b.nread != count 0x68 || b.nexit != count 0x62 || (b.ordered && b.nexit == 0)) (at_ loadMask)).bind (fun _ =>
  (rejectIf (fanBad || r.fans.any (fun l => l.2.any (fun x => x / 128 % 4 == 3)) || !(b.descs.all Desc.ok)) (at_ loadOperand)).bind (fun _ =>
  (checkAll (List.range b.words.length) (fun j => match e.slotCode i b j with
    | some c => .error { code := c, sec := sec, blk := i, slot := j, opc := slotOpc (b.words.getD j 0), off := blockEntry i }
    | none => .ok ())).bind (fun _ =>
  (rejectIf (b.ordered && graphCycle (b.succ i) b.words.length (List.range b.words.length)) (at_ loadClass)).bind (fun _ =>
  rejectIf (b.ordered && !(maskOk b.stmask 32 (b.carried 0x71 24 5) && maskOk b.wrmask 64 (b.carried 0x69 0 6))) (at_ loadMask)))))))

/-- The first ORDERED ENTRY block that shares its timeline of a bent with an earlier one (R286). -/
def entryClash (bs : List BlockImg) : Option Nat :=
  (List.range bs.length).find? (fun i => (bs[i]?).elim false (fun b =>
    b.ordered && b.entry && (bs.take i).any (fun c => c.ordered && c.entry && c.bent == b.bent && c.timeline == b.timeline)))

/-- The first block whose slots do not all find a cell or a station beside those of the blocks before it (R286). -/
def placeClash (bents : List BentDecl) (bs : List BlockImg) : Option Nat :=
  (List.range bs.length).find? (fun i => (bs[i]?).elim false (fun b => (bents[b.bent]?).elim false (fun d =>
    (assignBent d (bs.take (i + 1)) b.bent (fun _ _ => false)).isNone)))

/-! ## Queue programs (R217) -/

/-- The semaphore that a queue word names. -/
def wordSem : Instr → Option Nat
  | .qlnch n sg _ _ _ _ | .qcopy n sg _ _ _ _ _ | .qload n sg _ _ _ _ | .qsave n sg _ _ | .qrest n sg _ _ => if sg then some n.toNat else none
  | .qwge n _ | .qweq n _ | .qsig n _ _ | .qset n _ | .qjnz n _ _ | .qtmr n _ _ => some n.toNat
  | _ => none

/-- Whether a program names a semaphore at or above a count. -/
def semBeyond (count : Nat) : Nat → List W64 → Bool
  | 0, _ => false
  | _, [] => false
  | k + 1, w :: ws =>
    match decodeQueue (w :: ws) with
    | .ok (i, rest) => (wordSem i).elim false (count ≤ ·) || semBeyond count k rest
    | .error _ => semBeyond count k ws

/-! ## Regions (R22, R70, R220, R221) -/

/-- Whether a cell of a package is fenced, by itself or with its cluster (R21). -/
def State.fencedCell (s : State) (p : Pkg) (x y : Nat) : Bool :=
  match s.plat? p with
  | some q => q.fenced.contains (x, y) || q.fencedClus.contains (x / 4, y / 4)
  | none => true

/-- The clusters that a bent of a size covers from an origin. -/
def clusOf (o : Origin) (w h : Nat) : List Clu :=
  (List.range ((h + 3) / 4)).flatMap (fun j => (List.range ((w + 3) / 4)).map (fun i => ({ pkg := o.pkg, X := o.x / 4 + i, Y := o.y / 4 + j } : Clu)))

/-- Whether a region qualifies for a bent (R22, R70), and lies in the free clusters of the partition. -/
def State.qualifies (s : State) (img : Image) (bent : Nat) (d : BentDecl) (free : List Clu) (o : Origin) : Bool :=
  let fenced := fun cx cy => s.fencedCell o.pkg (o.x + cx) (o.y + cy)
  let cluFenced := fun (cX cY : Nat) => (s.plat? o.pkg).elim true (fun q => q.fencedClus.contains (o.x / 4 + cX, o.y / 4 + cY))
  let rrotBad := fun (cx cy : Nat) => (List.range 16).any (fun i =>
    let x := cx / 4 * 4 + i % 4
    let y := cy / 4 * 4 + i / 4
    d.w ≤ x || d.h ≤ y || fenced x y)
  o.x % 4 == 0 && o.y % 4 == 0 && o.x + d.w ≤ 128 && o.y + d.h ≤ 128 && (clusOf o d.w d.h).all free.contains &&
  d.claims.all (fun c => !cluFenced c.1 c.2) && (assignBent d img.blocks bent fenced).isSome &&
  (bentSlots img.blocks bent).all (fun e => match e.2.2.2 with
    | some c => !tileClass e.2.2.1 || (!cluFenced (c.1 / 4) (c.2 / 4) && !((List.range 16).all (fun i => fenced (c.1 / 4 * 4 + i % 4) (c.2 / 4 * 4 + i / 4))) &&
        (slotOpc e.2.2.1 != 0x8D || !rrotBad c.1 c.2))
    | none => true)

/-- The origins of a partition's packages in the order of R221. -/
def originsOf (pkgs : List Pkg) : List Origin :=
  pkgs.flatMap (fun p => (List.range 32).flatMap (fun j => (List.range 32).map (fun i => ({ pkg := p, x := 4 * i, y := 4 * j } : Origin))))

/-- Inserts a package by PY, then PX. -/
def insertPkg (p : Pkg) : List Pkg → List Pkg
  | [] => [p]
  | q :: qs => if p = q then q :: qs else if p.py < q.py ∨ (p.py = q.py ∧ p.px < q.px) then p :: q :: qs else q :: insertPkg p qs

/-- The packages of a partition's clusters, in order. -/
def PartLayout.pkgs (l : PartLayout) : List Pkg := l.clusters.foldl (fun ps c => insertPkg c.pkg ps) []

/-- Places the bents of an image one after another in free clusters (R221). -/
def State.placeBents (s : State) (img : Image) (pkgs : List Pkg) : Nat → List BentDecl → List Clu → Option (List Origin)
  | _, [], _ => some []
  | n, d :: ds, free =>
    match (originsOf pkgs).find? (s.qualifies img n d free) with
    | some o => (s.placeBents img pkgs (n + 1) ds (free.filter (fun c => !(clusOf o d.w d.h).contains c))).map (o :: ·)
    | none => none

/-- Whether a statistics route of an image crosses a package edge where its bents stand (R134, R246). -/
def Image.routesCross (img : Image) (os : List Origin) : Bool :=
  let pkg := fun (b : Nat) => ((img.blocks[b]?).bind (fun x => os[x.bent]?)).map (·.pkg)
  img.stats.any (fun r => pkg r.1 != pkg r.2.2.1)

/-- Whether a partition's quotas of a package hold spill areas of a size and a number of claimed vaults (R61, R222). -/
def Partition.holds (p : Partition) (pkg : Pkg) (spill claims : Nat) : Bool :=
  spill ≤ (p.share pkg).hbm && claims * 0x200000 ≤ (p.share pkg).vault

/-- The bents of an image that stand on a package. -/
def Image.bentsOn (img : Image) (os : List Origin) (pkg : Pkg) : List BentDecl :=
  (List.range img.bents.length).filterMap (fun n => match img.bents[n]?, os[n]? with
    | some b, some o => if o.pkg = pkg then some b else none
    | _, _ => none)

/-- The contexts that a raising of an image takes (R31). -/
def Image.contexts (img : Image) : Nat := (img.bents.map (fun b => 17 + b.pool)).foldl (· + ·) 0

/-- The vaults that bents claim. -/
def claimsOf (bs : List BentDecl) : Nat := (bs.map (·.claims.length)).foldl (· + ·) 0

/-- Whether a partition that holds nothing else has the contexts, the spill areas and the vaults for a raising (R31, R61, R222, R246). -/
def State.emptyHolds (s : State) (v : VdRef) (p : Partition) (img : Image) (os : List Origin) : Bool :=
  (s.vdev? v).elim false (fun d => img.contexts ≤ d.ctxLim + 1 - d.ctxBase) &&
  p.lay.pkgs.all (fun q => p.holds q ((img.bentsOn os q).length * img.spillsz) (claimsOf (img.bentsOn os q)))

/-! ## The checks of a whole image (R246) -/

/-- Whether the check of an image has to look into Kiln's library: it gets as far as the expansion, and an opcode of it is undefined here and has no
entry in the image (R246, R249, R253). -/
def looksUp (bs : List Byte) : Bool :=
  match checkHeader bs, readSections bs with
  | .ok _, .ok ss =>
    let nsec := sectionOf ss 8
    let wsec := sectionOf ss 7
    match readNotes nsec.idx nsec.body (nsec.body.length + 1) 0 { rowreq := 0, spillsz := spillDefault, determ := false },
        readRewrites wsec.idx wsec.body (wsec.body.length + 1) 0 with
    | .ok _, .ok rw => needsMore rw (readBlocks (sectionOf ss 2)).2
    | _, _ => false
  | _, _ => false

/-- The image that its bytes hold, for a virtual device, with the bytes of Kiln's library (R246). R246 gives no place to the checks of R247 and R287:
they stand after the expansion and the block table and before the block rules (log 107); and a library that does not read is one without entries
(log 108). -/
def State.checkImage (s : State) (v : VdRef) (lib : List Byte) (id : W64) (bs : List Byte) : Except LoadErr Image :=
  match checkHeader bs with
  | .error e => .error e
  | .ok _ =>
  match readSections bs with
  | .error e => .error e
  | .ok ss =>
  let nsec := sectionOf ss 8
  match readNotes nsec.idx nsec.body (nsec.body.length + 1) 0 { rowreq := 0, spillsz := spillDefault, determ := false } with
  | .error e => .error e
  | .ok notes =>
  let wsec := sectionOf ss 7
  let bsec := (sectionOf ss 2).idx
  match readRewrites wsec.idx wsec.body (wsec.body.length + 1) 0 with
  | .error e => .error e
  | .ok rw =>
  let kiln := match readRewrites 0 lib (lib.length + 1) 0 with
    | .ok l => l
    | .error _ => []
  match expandAll (rw ++ kiln) (readBlocks (sectionOf ss 2)).2 with
  | .error e => .error { e with sec := bsec, off := blockEntry e.blk }
  | .ok raw =>
  match (readBlocks (sectionOf ss 2)).1 with
  | some off => .error { code := loadFormat, sec := bsec, blk := (off - 8) / 8, off := off }
  | none =>
  match readRaise (sectionOf ss 1) with
  | .error e => .error e
  | .ok bents =>
  match readRings (sectionOf ss 4) bents, mapAll (fun x => readData x bents) (ss.filter (·.ty == 5)) with
  | .error e, _ => .error e
  | .ok _, .error e => .error e
  | .ok rings, .ok datas =>
  let blocks := raw.map RawBlock.img
  let plans := (List.range bents.length).map (fun n => match bents[n]? with
    | some d => assignBent d blocks n (fun _ _ => false)
    | none => none)
  let cells := (List.range blocks.length).map (fun i => match blocks[i]? with
    | some b => (List.range b.words.length).map (fun j => match (plans.getD b.bent none) with
        | some l => cellIn l i j
        | none => (b.places.getD j none).getD (0, 0))
    | none => [])
  let env : LoadEnv := { bents := bents, blocks := blocks, rings := rings, notes := notes, named := namedPorts blocks, cells := cells }
  match checkAll (List.range blocks.length) (fun i => match raw[i]?, blocks[i]? with
    | some r, some b => env.checkBlock bsec i r b
    | _, _ => .ok ()) with
  | .error e => .error e
  | .ok _ =>
  let queues := match ss.find? (·.ty == 3) with
    | some q => Config.queuePrograms q.body
    | none => []
  let stats := match ss.find? (·.ty == 6) with
    | some q => Config.statsRoutes q.body
    | none => []
  let unit := fun (b j : Nat) => (blocks[b]?).elim false (fun c => j < c.words.length)
  let sems := (s.vdev? v).elim 0 (·.semCount)
  let img : Image := { id := id, bents := bents, blocks := blocks, rings := rings, datas := datas, queues := queues, stats := stats,
                       rowreq := notes.rowreq, spillsz := notes.spillsz }
  match placeClash bents blocks, entryClash blocks with
  | some i, _ => .error { code := loadPlace, sec := bsec, blk := i, off := blockEntry i }
  | none, some i => .error { code := loadChain, sec := bsec, blk := i, off := blockEntry i }
  | none, none =>
  if queues.any (fun ws => semBeyond sems ws.length ws) then .error { code := loadOperand, sec := (sectionOf ss 3).idx }
  else
    let pkgs := (s.part? v.part).elim [] (·.lay.pkgs)
    let empty := (s.part? v.part).bind (fun p => s.placeBents img pkgs 0 bents p.lay.clusters)
    if stats.any (fun r => !(unit r.1 r.2.1) || !(unit r.2.2.1 r.2.2.2)) || empty.elim false (img.routesCross ·) then
      .error { code := loadOperand, sec := (sectionOf ss 6).idx }
    else match s.part? v.part with
      | none => .error { code := loadPlace }
      | some p =>
        if p.lay.pkgs.all (fun q => p.quotaOn q < notes.rowreq) || empty.elim false (fun os => os.any (fun o => p.quotaOn o.pkg < notes.rowreq)) then
          .error { code := loadPlace, sec := nsec.idx, off := notes.rowOff }
        else if empty.elim true (fun os => !s.emptyHolds v p img os) then .error { code := loadPlace }
        else .ok img

/-! ## Reading and writing a virtual device's memory for the hub (R253, R393) -/

/-- The byte at a home address under a key; none where an error stands or where the port is not ready. -/
def State.byteAt (s : State) (ga key : Nat) : Option Byte × State :=
  match s.portReady ga 1 with
  | .ready s => if s.eccIn ga 1 then (none, s) else (some ((s.readKey ga 1 key).headD 0), s)
  | _ => (none, s)

/-- A byte at a virtual address, read through translation on the virtual device's package, with the windows then; none where a walk fails too. The A
bits of the walk stand (R172). -/
def State.vdByte (s : State) (p : Pkg) (v : VdRef) (wins : List Window) (a : Nat) : Option (Byte × List Window) × State :=
  match s.engineAccess p v wins (s.visibleVa v (a % 2 ^ 55) []) needRd with
  | (.ok w, wins, s) =>
    let r := s.byteAt (w.ga p (s.visibleVa v (a % 2 ^ 55) [])) (s.keyOf p v.part w.leaf)
    (r.1.map (·, wins), r.2)
  | (.bad _, _, s) => (none, s)

/-- Bytes at virtual addresses. -/
def State.vdRead (s : State) (p : Pkg) (v : VdRef) : List Window → List Nat → Option (List Byte) × State
  | _, [] => (some [], s)
  | wins, a :: as =>
    match s.vdByte p v wins a with
    | (some (b, wins), s) =>
      let r := s.vdRead p v wins as
      (r.1.map (b :: ·), r.2)
    | (none, s) => (none, s)

/-- Writes a byte at a home address under a key; none where the port is not ready. -/
def State.byteInto (s : State) (ga key : Nat) (b : Byte) : Option State :=
  match s.portReady ga 1 with
  | .ready s => some (s.writeKey ga key [b])
  | _ => none

/-- Writes a byte at a virtual address, with the windows then; none where a walk fails too. -/
def State.vdPut (s : State) (p : Pkg) (v : VdRef) (wins : List Window) (a : Nat) (b : Byte) : Option (List Window × State) :=
  let va := s.visibleVa v (a % 2 ^ 55) []
  match s.engineAccess p v wins va needWr with
  | (.ok w, wins, s) => (s.byteInto (w.ga p va) (s.keyOf p v.part w.leaf) b).map (wins, ·)
  | (.bad _, _, _) => none

/-- Writes bytes at virtual addresses. -/
def State.vdWrite (s : State) (p : Pkg) (v : VdRef) : List Window → Nat → List Byte → Option State
  | _, _, [] => some s
  | wins, a, b :: bs =>
    match s.vdPut p v wins a b with
    | some (wins, s) => s.vdWrite p v wins (a + 1) bs
    | none => none

/-- n addresses from one on. -/
def addrsFrom (a n : Nat) : List Nat := (List.range n).map (· + a)

/-- The bytes of an image in memory: the header first, for its size; no more of one whose header is wrong (R242). -/
def State.imageBytes (s : State) (p : Pkg) (v : VdRef) (va : Nat) : Option (List Byte) × State :=
  match s.vdRead p v [] (addrsFrom va 64) with
  | (none, s) => (none, s)
  | (some h, s) =>
    if le h 0 4 != 0x00464747 || le h 5 1 != 1 || le h 24 8 ≤ 64 then (some h, s)
    else s.vdRead p v [] (addrsFrom va (le h 24 8))

/-- The bytes of Kiln's library, through the virtual device's translation where Kiln has put it; a firmware image with none has none to read, and one that
Kiln has not put anywhere does not translate (R249, R253; log 96). -/
def State.libraryBytes (s : State) (d : Vdev) : Option (List Byte) × State :=
  match d.libAt with
  | some (va, n) => s.vdRead d.home d.vdr [] (addrsFrom va n)
  | none => (if (s.plat? d.home).elim true (·.library.isEmpty) then some [] else none, s)

/-! ## Outcomes of a load (R245, R256, R261, R393) -/

/-- The 32 bytes of a report (R256). -/
def LoadReport.bytes (r : LoadReport) : List Byte :=
  bytesOf 2 r.code ++ bytesOf 2 r.section_ ++ bytesOf 2 r.blk ++ bytesOf 1 r.slot ++ bytesOf 1 r.opc ++ bytesOf 8 r.off ++ bytesOf 16 0

/-- A queue's phase is complete: its semaphore is signalled, then the queue is READY past the word, or STOPPED (R216, R353, R386). -/
def State.endPhase (s : State) (x : Queue) (stop : Bool) : State :=
  let x := { x with rid := none }
  match x.sig with
  | some (sem, addv) =>
    (s.putQueue { x with state := .run, work := some (.semOp sem), sig := none }).sendSem x.vdr sem (.signal (BitVec.ofNat 64 addv) stop) (some x.q)
  | none => s.putQueue (if stop then { x.past with state := .stopped } else x.past)

/-- A QLOAD ends with its report (R393). -/
def State.endLoad (s : State) (x : Queue) (report : Nat) (r : LoadReport) : State :=
  let p := ((s.vdev? x.vdr).map (·.home)).getD { px := 0, py := 0 }
  let s := if report = 0 then s else (s.vdWrite p x.vdr [] report r.bytes).getD s
  s.endPhase x false

/-- Whether the hub can write the report of a QLOAD where its queue asks for it (log 51). -/
def State.reportable (s : State) (x : Queue) (rep : Nat) : Bool :=
  rep == 0 || (s.vdWrite (((s.vdev? x.vdr).map (·.home)).getD { px := 0, py := 0 }) x.vdr [] rep (List.replicate 32 0)).isSome

/-- Whether every report of a load can be written (R393; log 51). -/
def State.reportsReady (s : State) (v : VdRef) (id : W64) : Bool :=
  (s.queues.filter (·.vdr == v)).all (fun x => match x.state, x.work with
    | .run, some (.load i _ rep) => i != id || s.reportable x rep
    | _, _ => true)

/-- The outcome of a load reaches everything that waits for it. -/
def State.loaded (s : State) (v : VdRef) (id : W64) (r : LoadReport) : State :=
  let ok := r.code == 0
  let mine := s.queues.filter (fun x => x.vdr == v)
  let s := mine.foldl (fun s x => match x.state, x.work with
    | .admitting, some (.launch i _ _) => if i = id && !ok then s.putQueue { x with state := .stopped, work := none } else s
    | .run, some (.load i _ rep) => if i = id then s.endLoad x rep r else s
    | _, _ => s) s
  let s := if ok then s else s.updVdev v (fun d => { d with ingress := { d.ingress with binding := d.ingress.binding.map (fun b =>
    if b.image = id && b.rid.isNone then { b with rejected := true } else b) } })
  { s with reports := s.reports ++ [r], loads := s.loads.filter (fun l => !(l.vdr == v && l.id == id)) }

/-- What the loader has of Kiln's library for an image: nothing where none of it is looked up, or where Kiln has declared it unreadable; none while its
page does not translate (R253). -/
def State.libraryFor (s : State) (d : Vdev) (kilnReads : Bool) (bs : List Byte) : Option (List Byte) × State :=
  if kilnReads && looksUp bs then s.libraryBytes d else (some [], s)

/-- The report of a rejected load. -/
def LoadErr.report (e : LoadErr) (v : VdRef) (id : W64) : LoadReport :=
  { vdr := v, id := id, code := e.code, section_ := e.sec, blk := e.blk, slot := e.slot, opc := e.opc, off := e.off }

/-- The loader has an image's bytes and what it needs of the library: it checks the image, and reports (R246, R256). -/
def State.judge (s : State) (d : Vdev) (l : LoadReq) (lib bs : List Byte) : State :=
  match s.checkImage d.vdr lib l.id bs with
  | .error e => s.loaded d.vdr l.id (e.report d.vdr l.id)
  | .ok img => (s.updVdev d.vdr (fun d => { d with images := d.images ++ [img] })).loaded d.vdr l.id (LoadErr.report { code := 0 } d.vdr l.id)

/-- IMAGE_LOAD: the loader reads and checks the image that the oldest load of a virtual device asks for, and reports (R245, R246, R253,
R256). While the image or the library cannot be read, or a report of it not written, the load stays pending. -/
def execImageLoad (v : VdRef) (kilnReads : Bool) (s : State) : Host.Outcome State Fault Refusal :=
  match s.loads.find? (·.vdr == v), s.vdev? v with
  | some l, some d =>
    match s.imageBytes d.home v l.va with
    | (none, s) => .next s
    | (some bs, s) =>
      if !s.reportsReady v l.id then .next s
      else match s.libraryFor d kilnReads bs with
        | (none, s) => .next s
        | (some lib, s) => .next (s.judge d l lib bs)
  | _, _ => .next s

/-- Asks for an image that is not resident, once (R245). -/
def State.askImage (s : State) (v : VdRef) (id : W64) (va : Nat) (queue report : Option Nat) (ingress : Bool) : State :=
  if (s.vdev? v).elim false (fun d => d.images.any (·.id == id)) || s.loads.any (fun l => l.vdr == v && l.id == id) then s
  else { s with loads := s.loads ++ [{ vdr := v, id := id, va := va, queue := queue, report := report, ingress := ingress }] }

/-! ## Placing a raising (R31, R61, R220, R235, R386) -/

/-- The contexts of a virtual device that no placed raising holds, lowest first, as many as asked for. -/
def State.freeCtxs (s : State) (d : Vdev) (n : Nat) : Option (List Nat) :=
  let held := (s.raisingsOf d.vdr).flatMap (fun r => r.bents.flatMap (fun b => b.rootCtx :: b.tlCtx ++ b.pool ++ b.ctxs.map (·.ctx)))
  let free := ((List.range (d.ctxLim + 1 - d.ctxBase)).map (· + d.ctxBase)).filter (fun c => !held.contains c)
  if n ≤ free.length then some (free.take n) else none

/-- The contexts that each bent takes: root, timelines, pool (R31). -/
def takeCtxs : List BentDecl → List Nat → List (Nat × List Nat × List Nat)
  | [], _ => []
  | d :: ds, l => (l.headD 0, (l.drop 1).take 16, (l.drop 17).take d.pool) :: takeCtxs ds (l.drop (17 + d.pool))

/-- The clusters that placed raisings of a virtual device occupy: held phases are not placed (R394). -/
def State.occupied (s : State) (v : VdRef) : List Clu :=
  ((s.raisingsOf v).filter (·.state != .held)).flatMap (fun r => r.bents.flatMap (fun b => clusOf { pkg := b.pkg, x := b.x0, y := b.y0 } b.w b.h))

/-- Whether a partition's quotas of a package have room for the spill areas and the vault claims of more bents: those of every placed or saved raising of
the partition keep their spill area, and those of the virtual device's placed raisings their vaults (R61, R220, R222). -/
def State.quotasFit (s : State) (d : Vdev) (p : Partition) (img : Image) (os : List Origin) (pkg : Pkg) : Bool :=
  let new_ := img.bentsOn os pkg
  let old := (s.raisings.filter (·.vdr.part == d.vdr.part)).flatMap (fun r => (r.bents.filter (·.pkg == pkg)).map (fun b => (r, b)))
  let live := old.filter (fun x => x.1.vdr == d.vdr && x.1.state != .held)
  p.holds pkg ((old.map (·.2.spillSize)).foldl (· + ·) (new_.length * img.spillsz)) ((live.map (·.2.claims.length)).foldl (· + ·) (claimsOf new_))

/-- Whether tokens are still on their way to what an earlier bent left in a cluster: the loader waits for them to arrive (R235). -/
def State.unquiet (s : State) (p : Partition) (c : Clu) : Bool :=
  p.strays.any (fun x => x.clusters.contains c && s.allMsgs.any (fun m => m.forBent x.br.rid x.br.bent))

/-- Where an image can be placed now, with the contexts it takes (R220). -/
def State.findPlace (s : State) (d : Vdev) (img : Image) : Option (List Origin × List Nat) :=
  match s.part? d.vdr.part with
  | none => none
  | some p =>
    let free := p.lay.clusters.filter (fun c => !(s.occupied d.vdr).contains c && !s.unquiet p c)
    match s.placeBents img p.lay.pkgs 0 img.bents free, s.freeCtxs d img.contexts with
    | some os, some cs => if os.all (fun o => img.rowreq ≤ p.quotaOn o.pkg) && !img.routesCross os && p.lay.pkgs.all (s.quotasFit d p img os) then some (os, cs) else none
    | _, _ => none

/-- The placed blocks of an image (R275, R284). -/
def State.placedBlocks (s : State) (img : Image) (os : List Origin) : List PBlock :=
  let named := namedPorts img.blocks
  let plan := fun (n : Nat) => match img.bents[n]?, os[n]? with
    | some d, some o => (assignBent d img.blocks n (fun cx cy => s.fencedCell o.pkg (o.x + cx) (o.y + cy))).getD []
    | _, _ => []
  (List.range img.blocks.length).filterMap (fun i => (img.blocks[i]?).map (fun b =>
    { ordered := b.ordered, timeline := b.timeline, entry := b.entry, bent := b.bent, stmask := b.stmask, wrmask := b.wrmask,
      nexit := b.nexit, nread := b.nread,
      slots := (List.range b.words.length).map (fun j =>
        let c := cellIn (plan b.bent) i j
        { word := b.words.getD j 0, cx := c.1, cy := c.2, bNamed := named.contains (i, j, .b) })
      fans := b.fans, descs := b.descs, consts := b.consts }))

/-- A bent as it is placed: units on fenced cells are absent (R22), its claims granted (R61). -/
def State.placedBent (s : State) (img : Image) (d : BentDecl) (o : Origin) (cs : Nat × List Nat × List Nat) : Bent :=
  let b := Bent.fresh o.pkg o.x o.y d.w d.h d.roles s.now
  { b with
    rootCtx := cs.1
    tlCtx := cs.2.1
    pool := cs.2.2
    claims := d.claims
    grant := d.claims.map (fun c => ({ pkg := o.pkg, X := o.x / 4 + c.1, Y := o.y / 4 + c.2 } : Clu).vault)
    spillSize := img.spillsz
    elems := b.elems.filter (fun e => !s.fencedCell o.pkg (o.x + e.cx) (o.y + e.cy))
    clus := b.clus.filter (fun k => !((s.plat? o.pkg).elim true (fun q => q.fencedClus.contains (o.x / 4 + k.cX, o.y / 4 + k.cY)))) }

/-- Raises the configuration generation of the cells of a region, modulo 64 (R234). -/
def State.bumpGens (s : State) (o : Origin) (w h : Nat) : State :=
  ((List.range h).flatMap (fun j => (List.range w).map (fun i => (o.x + i, o.y + j)))).foldl (fun s c =>
    s.updPlat o.pkg (fun p =>
      let g := match p.gens.find? (fun g => g.1 == c.1 && g.2.1 == c.2) with
        | some g => g.2.2
        | none => 0
      { p with gens := (c.1, c.2, (g + 1) % 64) :: p.gens.filter (fun g => !(g.1 == c.1 && g.2.1 == c.2)) })) s

/-- Grants a vault: its data is zero and its presence bits are empty (R82). -/
def State.grantVault (s : State) (c : Clu) : State :=
  let v := vaultGa c.pkg c.vault 0
  { s with
    mem := s.mem.filter (fun x => x.1 < v || v + 0x200000 ≤ x.1)
    presence := s.presence.filter (fun w => 8 * w < v || v + 0x200000 ≤ 8 * w) }

/-- Writes the initial bytes of an image (R235, R287). -/
def State.writeData (s : State) (img : Image) (os : List Origin) : State :=
  img.datas.foldl (fun s x => match img.bents[x.bent]?, os[x.bent]? with
    | some d, some o =>
      if x.vault then
        let c := d.claims.getD x.index (0, 0)
        s.writeBytes (vaultGa o.pkg ({ pkg := o.pkg, X := o.x / 4 + c.1, Y := o.y / 4 + c.2 } : Clu).vault x.off) x.bytes
      else s.writeBytes (spadGa { pkg := o.pkg, x := o.x + x.index % 32, y := o.y + x.index / 32 } x.off) x.bytes
    | _, _ => s) s

/-- Delivers the start tokens of a launch (R386). -/
def State.startBlocks (s : State) (rid : Nat) (blocks : List PBlock) (arg : W64) : State :=
  (List.range blocks.length).foldl (fun s i => match blocks[i]? with
    | some b =>
      if !b.entry then s
      else match s.bent? { rid := rid, bent := b.bent } with
        | some n =>
          if b.ordered then s.sillStart { rid := rid, bent := b.bent } b.timeline none { ts := 0, blk := i, tok := scalarTok 0 arg.toNat }
          else s.deliverStart rid none i (scalarTok (Tag.mk n.rootCtx 0) arg.toNat)
        | none => s
    | none => s) s

/-- The loader takes a region whose quiescence it has awaited: one STRAY_TOKEN record with the number of the tokens swept there goes to the virtual device
of the bent that left them, unless there are none; the tokens go as its spill area is freed (R235). -/
def State.sweepRegion (s : State) (part : Nat) (cs : List Clu) : State :=
  match s.part? part with
  | some p =>
    let hit := p.strays.filter (fun x => x.clusters.any cs.contains && !x.toks.isEmpty)
    let s := s.updPart part (fun p => { p with strays := p.strays.filter (fun x => !x.clusters.any cs.contains) })
    hit.foldl (fun s x => s.pushRecord ((x.clusters.map (·.pkg)).headD { px := 0, py := 0 }) part (fun seq =>
      { cause := Cause.strayToken.code, part := part, vdid := x.vdr.vd, bent := x.br.bent, raiseid := x.br.rid, ecx := 0, ecy := 0, eng := false,
        unit := 0, blk := 0, slot := 0, port := 0, tag := 0, addr := 0, level := 0, wr := false, park := false, j := 0, refc := 0, fire := 0,
        sub := 0, grp := 0, kstep := 0, acc := 0, seq := seq, aux := x.toks.length, cycle := 0 })) s
  | none => s

/-- Places a raising of an image and starts it; an ingress window that waits for one takes it (R220, R234, R235, R261, R386). -/
def State.placeRaising (s : State) (d : Vdev) (q : Nat) (img : Image) (os : List Origin) (cs : List Nat) (arg : W64) (resv : Nat) : State :=
  let rid := s.nextRid
  let ctxs := takeCtxs img.bents cs
  let bents := (List.range img.bents.length).filterMap (fun n => match img.bents[n]?, os[n]? with
    | some b, some o => some { s.placedBent img b o (ctxs.getD n (0, [], [])) with bentId := BitVec.ofNat 64 n }
    | _, _ => none)
  let r : Raising :=
    { rid := rid, raiseId := BitVec.ofNat 64 rid, vdr := d.vdr, queue := q, image := img.id, blocks := s.placedBlocks img os, bents := bents, state := .running,
      brkStop := false, brks := [], halts := [], stats := img.stats, resv := resv, used := 0, admitted := s.now }
  let s := s.sweepRegion d.vdr.part (bents.flatMap (fun b => clusOf { pkg := b.pkg, x := b.x0, y := b.y0 } b.w b.h))
  let s := (List.range img.bents.length).foldl (fun s n => match img.bents[n]?, os[n]? with
    | some b, some o => s.bumpGens o b.w b.h
    | _, _ => s) s
  let s := { s with nextRid := rid + 1, raisings := s.raisings ++ [r] }
  let s := s.updVdev d.vdr (fun d => { d with ingress := { d.ingress with binding := d.ingress.binding.map (fun b =>
    if b.rid.isNone && !b.rejected && b.image == img.id && (b.qsel.isNone || b.qsel == some q) then { b with rid := some rid } else b) } })
  let s := bents.foldl (fun s b => b.claims.foldl (fun s c => s.grantVault { pkg := b.pkg, X := b.x0 / 4 + c.1, Y := b.y0 / 4 + c.2 }) s) s
  (s.writeData img os).startBlocks rid r.blocks arg

end Sys2Proof.Machine
end

