-- ==== Sys2Proof/Machine/Image.lean ====
section
/-! DEFINITION. Cluster images (R231, R232): what they hold, and how a cluster is saved to the save area of its virtual device and restored from it. -/

namespace Sys2Proof.Machine

open Sys2Proof

/-! ## Cluster images (R231, R232) -/

/-- The bytes of a cluster image. -/
def imageBytes : Nat := 0x300000

/-- The home address of a byte of an image in the save area of a virtual device: interleaved in 32-byte units across the eight stacks. -/
def saveGa (p : Pkg) (base idx off : Nat) : Nat :=
  let u := (idx * imageBytes + off) / 32
  gaOf p (u % 8 * 0xC00000000 + base + u / 8 * 32 + off % 32)

/-- The image index and offset of a home address in a save area, of a package. -/
def saveOff (p : Pkg) (base ga : Nat) : Option (Nat × Nat) :=
  let pa := gaPhys ga
  let k := pa / 0xC00000000
  let l := pa % 0xC00000000
  if gaPkg ga = p ∧ k < 8 ∧ base ≤ l then
    let b := ((l - base) / 32 * 8 + k) * 32 + (l - base) % 32
    some (b / imageBytes, b % imageBytes)
  else none

/-- The image offset of a home address in a cluster's vault or scratchpads (R231). -/
def Clu.imageOff (c : Clu) (ga : Nat) : Option Nat :=
  let v := vaultGa c.pkg c.vault 0
  if v ≤ ga ∧ ga < v + 0x200000 then some (ga - v)
  else (List.range 16).findSome? (fun i =>
    let a := spadGa { pkg := c.pkg, x := 4 * c.X + i % 4, y := 4 * c.Y + i / 4 } 0
    if a ≤ ga ∧ ga < a + 0x4000 then some (0x200000 + i * 0x4000 + (ga - a)) else none)

/-- The home address of an image offset in a cluster. -/
def Clu.imageGa (c : Clu) (off : Nat) : Option Nat :=
  if off < 0x200000 then some (vaultGa c.pkg c.vault off)
  else if off < 0x240000 then
    let i := (off - 0x200000) / 0x4000
    some (spadGa { pkg := c.pkg, x := 4 * c.X + i % 4, y := 4 * c.Y + i / 4 } (off % 0x4000))
  else none

/-- Whether a word number is one of a cluster's vault. -/
def Clu.hasWord (c : Clu) (w : Nat) : Bool := vaultGa c.pkg c.vault 0 ≤ 8 * w && 8 * w < vaultGa c.pkg c.vault 0 + 0x200000

/-- The presence bits of a cluster's vault as the bytes of its image (R231), those that are not 0. -/
def State.presenceBytes (s : State) (c : Clu) : List (Nat × Byte) :=
  let ws := (s.presence.filter c.hasWord).map (fun w => w - vaultGa c.pkg c.vault 0 / 8)
  ((ws.map (· / 8)).eraseDups).map (fun k => (0x2A0000 + k, BitVec.ofNat 8 (bitmap ((List.range 8).map (fun i => ws.contains (8 * k + i))))))

/-- Where the deferred readers and marks of a vault are kept while its image is saved, so that another virtual device's words do not meet
them: beyond every home address. -/
def shelfOf (v : VdRef) (held : Nat) : Nat := 2 ^ 80 * (1 + (v.part * 64 + v.vd) * 65 + held)

/-- Changes the addresses of deferred readers and tile marks. -/
def State.remapHomes (s : State) (f : Nat → Nat) : State :=
  { s with
    deferred := s.deferred.map (fun d => { d with ga := f d.ga })
    marks := s.marks.map (fun m => { m with lo := f m.lo }) }

/-- Changes the home addresses that a raising holds: its scoreboards, its Sill and its requests. -/
def State.remapRaising (s : State) (rid : Nat) (f : Nat → Nat) : State :=
  let s := s.updRaising rid (fun r => { r with bents := r.bents.map (fun b =>
    { b with
      clus := b.clus.map (fun k => { k with score := k.score.map (fun e => { e with lo := f e.lo }) })
      timelines := b.timelines.map (fun t => { t with win := t.win.map (fun e =>
        { e with
          stores := e.stores.map (fun x => { x with ga := f x.ga })
          reads := e.reads.map (fun x => (f x.1, x.2)) }) }) }) })
  { s with reqs := updIf s.reqs (·.br.rid == rid) (fun r => { r with ga := r.ga.map f }) }

/-! ## What an image holds of units (R231; log 15)

Every structure is a run of 64-bit words, its fields in order, and a list is preceded by its length. -/

/-- A list in an image. -/
def seqOf {α : Type} (f : α → List Nat) (l : List α) : List Nat := l.length :: l.flatMap f

/-- What may be absent, in an image. -/
def optOf {α : Type} (f : α → List Nat) (o : Option α) : List Nat := o.elim [0] (fun a => 1 :: f a)

/-- A pair of numbers in an image. -/
def pairOf (x : Nat × Nat) : List Nat := [x.1, x.2]

/-- A payload in an image. -/
def quads (w : W256) : List Nat := (List.range 4).map (fun i => w.toNat / 2 ^ (64 * i) % 2 ^ 64)

/-- An integer in an image. -/
def wordOfInt (i : Int) : Nat := (BitVec.ofInt 64 i).toNat

def Token.image (t : Token) : List Nat := quads t.pay ++ [t.tag.toNat, t.shape.code, t.seq] ++ seqOf quads t.body
def WaitTok.image (w : WaitTok) : List Nat := [w.blk, w.slot, w.port.code, w.at_, w.frozen.toNat] ++ w.tok.image
def Ready.image (r : Ready) : List Nat := [r.blk, r.slot, r.tag.toNat] ++ optOf WaitTok.image r.a ++ optOf WaitTok.image r.b ++ optOf WaitTok.image r.p
def linkImage (x : Nat × WaitTok) : List Nat := x.1 :: x.2.image
def Window.image (w : Window) : List Nat := [w.gen, w.big.toNat, w.ptea, w.leaf.toNat, w.vbase, w.at_]
def Dest.image (d : Dest) : List Nat := [d.bent, d.blk, d.slot, d.port.code]
def FaultInfo.image (i : FaultInfo) : List Nat := [i.cause.code, i.addr, i.level, i.wr.toNat, i.aux, i.j, i.park.toNat, i.port]
def CtrCtx.image (x : CtrCtx) : List Nat := [x.blk, x.slot, x.ctx, x.count]
def KbndCtx.image (x : KbndCtx) : List Nat := [x.blk, x.slot, x.ctx, x.live, x.first]
def GateCtx.image (x : GateCtx) : List Nat := [x.blk, x.slot, x.ctx, x.null.toNat]
def ReordCtx.image (x : ReordCtx) : List Nat := [x.blk, x.slot, x.ctx, x.due]
def JoinRow.image (x : JoinRow) : List Nat := [x.blk, x.slot, x.tag.toNat] ++ seqOf (fun n => [n]) x.arcs ++ [x.nulls, x.counter] ++ optOf Token.image x.p
def CmbRow.image (x : CmbRow) : List Nat :=
  [x.blk, x.slot, x.key.toNat, x.seen] ++ seqOf (fun v => v.1 :: optOf quads v.2) x.vals ++ optOf quads x.acc ++
  [x.null.toNat, x.vector.toNat, x.flags.toNat, x.warn.toNat]
def StatRow.image (x : StatRow) : List Nat :=
  [x.blk, x.slot, x.count] ++ quads x.pay ++ [x.tag.toNat] ++ optOf WaitTok.image x.a ++ [x.frozen.toNat, x.warn.toNat]
def StreamKind.code (k : StreamKind) : Nat := match k with
  | .srd => 0
  | .swr => 1
  | .csrd => 2
def Stream.image (x : Stream) : List Nat :=
  [x.id, x.kind.code, x.blk, x.slot, x.tag.toNat] ++ x.atok.image ++ [x.base, x.next, x.emit, x.count] ++ seqOf (fun v => v.j :: v.tok.image) x.held ++
  seqOf (fun n => [n]) x.parked ++ seqOf (fun n => [n]) x.done ++ seqOf (fun n => [n]) x.spilled ++ seqOf pairOf x.gens ++ seqOf pairOf x.ptrs ++
  [x.stalled.toNat, x.badrows, x.warn.toNat]
def ScatElem.image (x : ScatElem) : List Nat := [x.pos, wordOfInt x.idx, x.val]
def ScatCtx.image (x : ScatCtx) : List Nat := [x.blk, x.slot, x.ctx, x.total] ++ seqOf ScatElem.image x.batch ++ [x.warn.toNat]
def ScatBatch.image (x : ScatBatch) : List Nat :=
  [x.id, x.blk, x.slot, x.tag.toNat, x.base] ++ seqOf ScatElem.image x.elems ++ [x.rnd.toNat, x.warn.toNat, x.pos, x.frozen.toNat]

/-- An element: its link, ready buffer, words, windows, and the state of its instructions, streams and batches. Its rows stand apart (R231). -/
def Elem.image (e : Elem) : List Nat :=
  [e.cx, e.cy] ++ seqOf linkImage e.link ++ seqOf Ready.image e.ready ++ [e.flags.toNat, e.rmode.toNat, e.warn.toNat, e.nondet.toNat] ++
  seqOf (optOf Window.image) e.pwin ++ seqOf Window.image e.own ++ seqOf CtrCtx.image e.ctr ++ seqOf KbndCtx.image e.kbnd ++ seqOf GateCtx.image e.gate ++
  seqOf ReordCtx.image e.reord ++ seqOf JoinRow.image e.join ++ seqOf CmbRow.image e.cmb ++ seqOf StatRow.image e.stats ++ seqOf Stream.image e.streams ++
  seqOf ScatCtx.image e.scat ++ seqOf ScatBatch.image e.batches ++ [e.eccFrozen.toNat, e.strayCount, e.strayNext, e.rangeCount, e.rangeNext]

def SlotState.code (x : SlotState) : Nat := match x with
  | .empty => 0
  | .fill => 1
  | .full => 2
def Ring.image (g : Ring) : List Nat :=
  [g.k, g.base, g.slotsz, g.nslot] ++ optOf pairOf g.prod ++ pairOf g.cons ++ [g.head, g.tail] ++ seqOf (fun x => [x.code]) g.states ++
  [g.credits, g.notices, g.written]
def ScoreEntry.image (x : ScoreEntry) : List Nat := [x.owner, x.lo, x.len]
def TNode.image (n : TNode) : List Nat :=
  [n.blk, n.slot] ++ n.cfg.image ++ [n.left, n.fire, n.sub] ++ optOf Token.image n.mask ++ seqOf (fun j => [j]) n.js ++ [n.readyAt, n.warn.toNat, n.mwarn.toNat]
def Firing.image (f : Firing) : List Nat :=
  [f.id, f.blk, f.slot, f.grp, f.kstep, f.acc] ++ seqOf (seqOf (fun a => [a])) f.accs ++ [f.flags.toNat, f.rnd.toNat, f.stopped.toNat]
def ScribeKey.image (x : ScribeKey) : List Nat :=
  [x.blk, x.slot, x.key.toNat] ++ seqOf (fun v => v.1 :: optOf quads v.2) x.scores ++ optOf (optOf quads) x.force ++ [x.warn.toNat]
def Copy.image (x : Copy) : List Nat :=
  [x.id, x.cx, x.cy, x.blk, x.slot, x.tag.toNat] ++ x.atok.image ++ optOf Token.image x.btok ++ seqOf (fun u => [u]) x.units ++
  [x.pos, x.off, x.begun.toNat] ++ seqOf (fun v => [v.1, v.2.toNat]) x.buf ++ seqOf pairOf x.gens ++ [x.frozen.toNat, x.warn.toNat, x.ewarn.toNat]
def JTok.image (j : JTok) : List Nat :=
  [j.id, j.cx, j.cy, j.blk, j.slot] ++ j.out.image ++ [j.flags.toNat, j.warn.toNat, j.fastEnd, j.queued] ++ seqOf (fun t => [t]) j.heldTo ++
  [j.tile.toNat, j.frozen.toNat]

/-- The shared units of a cluster: stations with their rows and ready buffer, rings, scoreboard, Truss, Scribe, Lahar and Jointer. -/
def Cluster.image (k : Cluster) : List Nat :=
  [k.cX, k.cY] ++ seqOf linkImage k.link ++ seqOf WaitTok.image k.rows ++ seqOf Ready.image k.ready ++ seqOf Ring.image k.rings ++
  seqOf ScoreEntry.image k.score ++ seqOf TNode.image k.nodes ++ optOf Firing.image k.firing ++ seqOf ScribeKey.image k.scribe ++
  seqOf Copy.image k.copies ++ seqOf Window.image k.laharWin ++ seqOf JTok.image k.jointer ++ [k.jlast]

def SillStore.image (x : SillStore) : List Nat :=
  [x.lsid, x.slot, x.cx, x.cy, x.loc.toNat, x.va, x.tgen, x.shadow.toNat, x.ga, x.key] ++ seqOf (fun b => [b.toNat]) x.bytes ++ [x.frozen.toNat]
def WinEntry.image (e : WinEntry) : List Nat :=
  [e.ts, e.blk] ++ e.start.image ++ [e.exits, e.exitNull] ++ seqOf (fun n => [n]) e.lsids ++ seqOf SillStore.image e.stores ++
  seqOf (fun w => w.1 :: optOf (fun x => [x.toNat]) w.2) e.writes ++ seqOf (fun h => h.1.image ++ h.2.image) e.held ++ seqOf pairOf e.reads ++
  seqOf (fun f => f.1.image ++ pairOf f.2) e.faults ++ [e.charged]
def StartTok.image (x : StartTok) : List Nat := [x.ts, x.blk] ++ x.tok.image
def Timeline.image (t : Timeline) : List Nat :=
  seqOf WinEntry.image t.win ++ seqOf StartTok.image t.waiting ++ seqOf (fun n => [n]) t.aborted ++ optOf StartTok.image t.redeliver ++
  seqOf (fun w => [w.toNat]) t.g ++ [t.chain.toNat]
def UnitLoc.image (u : UnitLoc) : List Nat := match u with
  | .elem cx cy => [0, cx, cy]
  | .station cX cY => [1, cX, cY]
def Frozen.image (f : Frozen) : List Nat := [f.blk, f.slot, f.tag.toNat] ++ f.info.image ++ [f.refc, f.held.toNat] ++ optOf (fun n => [n]) f.work

/-- What a bent holds as a whole: the engine words, its counters, the context table, watchdog ages, frozen tags, and the Sill's windows with the g
registers. -/
def Bent.image (b : Bent) : List Nat :=
  [b.engFlags.toNat, b.engWarn.toNat, b.engRmode.toNat, b.spillCnt.toNat, b.trimCnt.toNat, b.refaultCnt.toNat] ++
  seqOf (fun c => [c.ctx, c.parent.toNat, c.closing.toNat]) b.ctxs ++ seqOf (fun a => [a.blk, a.tag.toNat, a.start, a.told.toNat]) b.ages ++
  seqOf (fun f => f.1.image ++ f.2.image) b.frozenTags ++ seqOf Timeline.image b.timelines

/-- The 48 bytes of a Mortise row in an image (R231; log 15). -/
def rowImage (w : WaitTok) : List Byte :=
  bytesOf 32 w.tok.pay.toNat ++ bytesOf 4 w.tok.tag.toNat ++ bytesOf 1 w.slot ++
  bytesOf 1 (w.port.code + 4 * w.tok.shape.code + 16 * w.frozen.toNat) ++ bytesOf 2 w.blk ++ bytesOf 8 w.at_

/-- Bytes at rising offsets of an image. -/
def placed (off : Nat) (bs : List Byte) : List (Nat × Byte) := (List.range bs.length).map (fun i => (off + i, bs.getD i 0))

/-- The clusters that a bent stands on. -/
def Bent.clusters (b : Bent) : List Clu := clusOf { pkg := b.pkg, x := b.x0, y := b.y0 } b.w b.h

/-- What an image holds from 0x2B_8000 on, of the units of a cluster and of its bent. -/
def Bent.clusImage (b : Bent) (c : Clu) : List Byte :=
  (seqOf Elem.image (b.elems.filter (fun e => (b.x0 + e.cx) / 4 == c.X && (b.y0 + e.cy) / 4 == c.Y)) ++ seqOf Cluster.image (b.clus.filter (fun k => b.physClu k.cX k.cY == c)) ++
    b.image).flatMap (bytesOf 8)

/-- The Mortise rows of a cluster's 16 cells, and what its units and bent hold, as the bytes of its image (R231). -/
def State.rowBytes (s : State) (v : VdRef) (c : Clu) : List (Nat × Byte) :=
  match ((s.raisingsOf v).filter (·.state != .held)).flatMap (fun r => r.bents.filter (fun b => b.clusters.contains c)) with
  | b :: _ => (List.range 16).flatMap (fun i =>
      match b.elems.find? (fun e => b.x0 + e.cx == 4 * c.X + i % 4 && b.y0 + e.cy == 4 * c.Y + i / 4) with
      | some e => (List.range e.rows.length).flatMap (fun j => match e.rows[j]? with
          | some w => placed (0x240000 + i * 0x6000 + j * 48) (rowImage w)
          | none => [])
      | none => []) ++ placed 0x2B8000 ((b.clusImage c).take 0x48000)
  | [] => []

/-- The entries of a vault's deferred-reader pool as the bytes of its image (R84, R231; log 15). -/
def State.poolBytes (s : State) (c : Clu) : List (Nat × Byte) :=
  let ds := s.deferred.filter (fun d => d.pool && c.hasWord (d.ga / 8))
  (List.range ds.length).flatMap (fun i => match ds[i]? with
    | some d => placed (0x2A8000 + i * 16) (bytesOf 8 (d.ga - vaultGa c.pkg c.vault 0) ++ bytesOf 8 d.req)
    | none => [])

/-- Saves a cluster's image (R231): its vault, scratchpads, Mortise rows, presence bits and deferred-reader pool in memory; the rest of it stays in its
bents. `held` tells the slot's images (0) from those of a held phase of queue held − 1. -/
def State.saveCluster (s : State) (d : Vdev) (c : Clu) (idx held : Nat) : State :=
  let keep := fun (x : Host.Cell) => match saveOff c.pkg d.saveBase x.1 with
    | some (i, _) => i != idx
    | none => true
  let moved := s.mem.filterMap (fun (x : Host.Cell) => (c.imageOff x.1).map (fun o => (saveGa c.pkg d.saveBase idx o, x.2)))
  let bits := (s.rowBytes d.vdr c ++ s.presenceBytes c ++ s.poolBytes c).map (fun x => (saveGa c.pkg d.saveBase idx x.1, x.2))
  let inSave := fun (u : Nat) => match saveOff c.pkg d.saveBase (32 * u) with
    | some (i, _) => i == idx
    | none => false
  { s with mem := memCanon (moved ++ bits ++ s.mem.filter keep), enc := s.enc.filter (fun e => !inSave e.unit) }.remapHomes
    (fun a => if (c.imageOff a).isSome then a + shelfOf d.vdr held else a)

/-- Clears a cluster: vault, scratchpads and presence bits. -/
def State.clearCluster (s : State) (c : Clu) : State :=
  { s with mem := s.mem.filter (fun x => (c.imageOff x.1).isNone), presence := s.presence.filter (fun w => !c.hasWord w) }

/-- Writes an image back into a cluster, which may be another than it was saved from (R232). -/
def State.restoreCluster (s : State) (d : Vdev) (old c : Clu) (idx held : Nat) : State :=
  let s := s.clearCluster c
  let at_ := fun (x : Host.Cell) => match saveOff old.pkg d.saveBase x.1 with
    | some (i, o) => if i = idx then some o else none
    | none => none
  let back := s.mem.filterMap (fun (x : Host.Cell) => ((at_ x).bind c.imageGa).map (fun a => (a, x.2)))
  let bits := s.mem.flatMap (fun (x : Host.Cell) => match at_ x with
    | some o => if 0x2A0000 ≤ o ∧ o < 0x2A8000 then
        ((List.range 8).filter (fun i => x.2.getLsbD i)).map (fun i => vaultGa c.pkg c.vault 0 / 8 + (o - 0x2A0000) * 8 + i) else []
    | none => [])
  let lo := shelfOf d.vdr held
  { s with mem := memCanon (back ++ s.mem), presence := bits.foldl setIns s.presence }.remapHomes
    (fun a => if lo ≤ a then ((old.imageOff (a - lo)).bind c.imageGa).getD a else a)

end Sys2Proof.Machine
end

