-- ==== Sys2Proof/Machine/LaneOps.lean ====
section
/-! DEFINITION. The lanes group: SHUF (R417), BCST (R314), REDL and SCAN (R402, R403), PACK (R377, R378) and UNPK (R440). -/

namespace Sys2Proof.Machine

open Sys2Proof

/-- SHUF: lane i is lane idx_i modulo n of A, or 0 with .z where idx_i is n or above (R417). -/
def execShuf (o : SlotOps) (s : State) : Host.Outcome State Fault Refusal :=
  s.compute o (fun c =>
    let ty := (laneTy o.ty).1
    let bound := s.bBound c
    let n := laneCount ty
    let imm := if ty < 8 then immInt o.x (laneBits ty) else immFp o.x ty
    let as_ := c.lanesA ty
    laneResult c (c.scalar2 bound) (laneBits ty)
      ((c.lanesB ty bound imm).map (fun i => (if o.mod.getLsbD 0 && n ≤ i then 0 else as_.getD (i % n) 0, (0 : BitVec 8))))
      ((laneTy o.ty).2 ||| rsvImm bound o ||| rsvx (2 ≤ o.mod.toNat)))

/-- BCST: every lane holds lane L of A; always a vector (R314). -/
def execBcst (o : SlotOps) (s : State) : Host.Outcome State Fault Refusal :=
  s.compute o (fun c =>
    let ty := (laneTy o.ty).1
    laneResult c false (laneBits ty)
      (List.replicate (laneCount ty) ((c.lanesA ty).getD (o.xf 0 6) 0, (0 : BitVec 8)))
      ((laneTy o.ty).2 ||| rsvx (o.xf 6 23 != 0)))

/-- The canonical combination of lanes, with a lone leaf settled (R132, R403). -/
def canonLanes (op ty : Nat) (mode : Rnd) (ls : List Nat) : Nat × BitVec 8 :=
  match ls with
  | [a] => redLeaf op ty a
  | _ =>
    let r := canon (redNode op ty mode) (ls.map some)
    (r.1.getD 0, r.2)

/-- The rounding mode of a reduction: MOD for FADD only (R402). -/
def State.redMode (s : State) (o : SlotOps) (c : Ctx) (op : Nat) : Rnd × BitVec 30 :=
  if op = 6 then rndOf o.mod (s.rmodeOf c.br c.u) else (.rne, 0)

/-- REDL: the lanes of A combined into a scalar in canonical order (R402, R403). -/
def execRedl (o : SlotOps) (s : State) : Host.Outcome State Fault Refusal :=
  s.compute o (fun c =>
    let ty := (laneTy o.ty).1
    let op := o.xf 0 4
    let m := s.redMode o c op
    laneResult c true (laneBits ty) [canonLanes op ty m.1 (c.lanesA ty)]
      ((laneTy o.ty).2 ||| m.2 ||| rsvx (o.xf 4 25 != 0)))

/-- The identity of an exclusive SCAN (R403). -/
def scanIdentity (op ty : Nat) : Nat :=
  match op with
  | 1 => 2 ^ laneBits ty - 1
  | 4 => wrapInt ty (intHi ty)
  | 5 => wrapInt ty (intLo ty)
  | 6 => (fmtOf ty).signBit true
  | _ => 0

/-- SCAN: every prefix combined in canonical order (R402, R403). -/
def execScan (o : SlotOps) (s : State) : Host.Outcome State Fault Refusal :=
  s.compute o (fun c =>
    let ty := (laneTy o.ty).1
    let op := o.xf 0 4
    let m := s.redMode o c op
    let as_ := c.lanesA ty
    let exc := o.x.getLsbD 4
    laneResult c false (laneBits ty)
      ((List.range (laneCount ty)).map (fun i =>
        if exc && i == 0 then (scanIdentity op ty, (0 : BitVec 8))
        else canonLanes op ty m.1 (as_.take (if exc then i else i + 1))))
      ((laneTy o.ty).2 ||| m.2 ||| rsvx (o.xf 5 24 != 0)))

/-- One lane of PACK (R378). -/
def packLane (ty : Nat) (sat : Bool) (v : Nat) : Nat × BitVec 8 :=
  let sw := 2 * laneBits ty
  if sat then
    let x : Int := if 2 ^ (sw - 1) ≤ v then Int.ofNat v - 2 ^ sw else Int.ofNat v
    clampSat ty x
  else (v % 2 ^ laneBits ty, 0)

/-- PACK: the lanes of A and then of B, narrowed (R377, R378). -/
def execPack (o : SlotOps) (s : State) : Host.Outcome State Fault Refusal :=
  s.compute o (fun c =>
    let ty := o.ty.toNat
    let sw := 2 * laneBits ty
    let n := 256 / sw
    laneResult c (c.scalar2 false) (laneBits ty)
      ((c.atok.plain.lanes sw n ++ c.btok.plain.lanes sw n).map (packLane ty (o.mod.getLsbD 0)))
      (rsvx (2 ≤ o.mod.toNat || o.x != 0)))

/-- UNPK: half the lanes of A, each twice as wide (R440). -/
def execUnpk (o : SlotOps) (s : State) : Host.Outcome State Fault Refusal :=
  s.compute o (fun c =>
    let ty := o.ty.toNat
    let w := laneBits ty
    let n := 128 / w
    let src := (c.lanesA ty).drop (if o.mod.getLsbD 0 then n else 0)
    laneResult c c.atok.isScalar (2 * w)
      ((src.take n).map (fun v => (if ty < 6 && signedTy ty && 2 ^ (w - 1) ≤ v then v + 2 ^ (2 * w) - 2 ^ w else v, (0 : BitVec 8))))
      (rsvx (2 ≤ o.mod.toNat || o.x != 0)))

end Sys2Proof.Machine
end

