-- ==== Sys2Proof/Machine/ElemFn.lean ====
section
/-! DEFINITION. The elementary functions (R140 to R143, R149): special and exact cases first, and for every other operand an enclosure of
the exact real value, narrowed until both of its ends round alike (log 10). Fixed-point numbers have p fraction bits. -/

namespace Sys2Proof.Machine

open Sys2Proof

/-- The functions of R140 and R148. -/
inductive Fn where
  | exp | exp2 | expm1 | log | log2 | log1p | sin | cos | sinpi | cospi | tanh | atan | erf | sigm | rsqrt | pow | rcp
deriving DecidableEq, Repr

/-! ## Fixed-point kernels -/

/-- The sum of r^n / n! from a term on, for r below 1. -/
def expSeries (p r : Nat) : Nat → Nat → Nat → Nat → Nat
  | 0, _, _, acc => acc
  | k + 1, n, t, acc => if t = 0 then acc else expSeries p r k (n + 1) (((t * r) >>> p) / (n + 1)) (acc + t)

/-- e^r for r below 1. -/
def expFix (p r : Nat) : Nat := expSeries p r p 0 (1 <<< p) 0

/-- The sum of u^(2i+1) / (2i+1) from a power on, with alternating signs or not. -/
def oddSeries (p u2 : Nat) (alt : Bool) : Nat → Nat → Nat → Int → Int
  | 0, _, _, acc => acc
  | k + 1, i, pw, acc =>
    if pw = 0 then acc
    else
      let t : Int := Int.ofNat (pw / (2 * i + 1))
      oddSeries p u2 alt k (i + 1) ((pw * u2) >>> p) (if alt && i % 2 == 1 then acc - t else acc + t)

/-- The inverse hyperbolic tangent of u below 1/2. -/
def atanhFix (p u : Nat) : Int := oddSeries p ((u * u) >>> p) false p 0 u 0

/-- ln 2. -/
def ln2Fix (p : Nat) : Nat := (2 * atanhFix p ((1 <<< p) / 3)).toNat

/-- pi, by Machin's formula. -/
def piFix (p : Nat) : Nat :=
  let one := 1 <<< (p + 16)
  let at5 := oddSeries (p + 16) (one / 25) true (p + 16) 0 (one / 5) 0
  let at239 := oddSeries (p + 16) (one / 57121) true (p + 16) 0 (one / 239) 0
  (16 * at5 - 4 * at239).toNat >>> 16

/-- The sums of the sine or cosine series from a term on: term i + 1 is term i times r2 over (j)(j + 1). -/
def trigSeries (p r2 : Nat) : Nat → Nat → Nat → Nat → Int → Int
  | 0, _, _, _, acc => acc
  | k + 1, i, j, t, acc =>
    if t = 0 then acc
    else trigSeries p r2 k (i + 1) (j + 2) (((t * r2) >>> p) / (j * (j + 1))) (if i % 2 = 0 then acc + t else acc - t)

/-- sin r for r below 1. -/
def sinFix (p r : Nat) : Int := trigSeries p ((r * r) >>> p) p 0 2 r 0
/-- cos r for r below 1. -/
def cosFix (p r : Nat) : Int := trigSeries p ((r * r) >>> p) p 0 1 (1 <<< p) 0

/-- The sum of Euler's series of the arctangent from a term on. -/
def eulerSeries (p y : Nat) : Nat → Nat → Nat → Nat → Nat
  | 0, _, _, acc => acc
  | k + 1, n, t, acc =>
    if t = 0 then acc else eulerSeries p y k (n + 1) (((t * y) >>> p) * (2 * n + 2) / (2 * n + 3)) (acc + t)

/-- arctan u for u at most 1. -/
def atanFix (p u : Nat) : Nat :=
  let u2 := (u * u) >>> p
  let d := (1 <<< p) + u2
  eulerSeries p ((u2 <<< p) / d) (2 * p) 0 ((u <<< p) / d) 0

/-- The sum of x (2 x^2)^n / (1 3 5 ... (2n+1)) from a term on. -/
def erfSeries (p x2 : Nat) : Nat → Nat → Nat → Nat → Nat
  | 0, _, _, acc => acc
  | k + 1, n, t, acc => if t = 0 then acc else erfSeries p x2 k (n + 1) (((t * (2 * x2)) >>> p) / (2 * n + 3)) (acc + t)

/-! ## Real values of the functions at operands -/

/-- A dyadic magnitude as a fixed-point number, truncated. -/
def Dy.fix (d : Dy) (p : Nat) : Nat := shiftI d.m (d.e + p)

/-- The binary exponent of a value: the place of its leading bit. -/
def Dy.lead (d : Dy) : Int := Int.ofNat (Nat.log2 d.m) + d.e

/-- An approximation v 2^k of a real value, within 2^40 units of its last place. -/
structure Approx where
  v : Int
  k : Int
deriving DecidableEq, Repr

/-- e^t for a fixed-point t of either sign. -/
def expApx (p : Nat) (t : Int) : Approx :=
  let l := ln2Fix p
  let k := t / Int.ofNat l
  { v := expFix p (t - k * Int.ofNat l).toNat, k := k - p }

/-- A signed dyadic as a signed fixed-point number. -/
def Dy.fixI (d : Dy) (p : Nat) : Int := if d.neg then -(Int.ofNat (d.fix p)) else Int.ofNat (d.fix p)

/-- ln z for a positive z. -/
def lnFix (p : Nat) (z : Dy) : Int :=
  let k0 := z.lead
  let f0 := { z with e := z.e - k0 }.fix p
  let one := 1 <<< p
  let up := 3 * one < 2 * f0
  let k := if up then k0 + 1 else k0
  let f := if up then { z with e := z.e - k0 - 1 }.fix p else f0
  let a := if one ≤ f then 2 * atanhFix p (((f - one) <<< p) / (f + one)) else -(2 * atanhFix p (((one - f) <<< p) / (f + one)))
  k * Int.ofNat (ln2Fix p) + a

/-- 1 plus a value, exactly. -/
def Dy.onePlus (d : Dy) : Dy := Dy.sum .rne [{ neg := false, m := 1, e := 0 }, d]

/-- The sine at a quadrant and a reduced angle below 1 of either sign. -/
def quadSin (p : Nat) (q : Int) (r : Int) : Int :=
  let a := r.natAbs
  let s := if r < 0 then -(sinFix p a) else sinFix p a
  match (q % 4).toNat with
  | 0 => s
  | 1 => cosFix p a
  | 2 => -s
  | _ => -(cosFix p a)

/-- sin x or cos x, reduced with pi to as many bits as the operand's magnitude needs. -/
def trigApx (p : Nat) (cosine : Bool) (x : Dy) : Approx :=
  let w := p + x.lead.toNat + 8
  let hp : Int := Int.ofNat (piFix w / 2)
  let t := x.fixI w
  let k := (2 * t + hp) / (2 * hp)
  { v := quadSin p (k + (if cosine then 1 else 0)) ((t - k * hp) / 2 ^ (w - p)), k := -p }

/-- sin(pi x) or cos(pi x) for x with a fraction, reduced exactly. -/
def trigPiApx (p : Nat) (cosine : Bool) (x : Dy) : Approx :=
  let f := (-x.e).toNat
  let a : Int := (if x.neg then -(Int.ofNat x.m) else Int.ofNat x.m) % (2 ^ (f + 1) : Int)
  let k := (4 * a + 2 ^ f) / (2 ^ (f + 1) : Int)
  let r := 2 * a - k * 2 ^ f
  { v := quadSin p (k + (if cosine then 1 else 0)) (r * Int.ofNat (piFix p) / (2 ^ (f + 1) : Int)), k := -p }

/-- A fixed-point number with the sign of an operand. -/
def signed (neg : Bool) (v : Int) : Int := if neg then -v else v

/-- A finite value with its trailing zero bits moved into the exponent. -/
def oddPart : Nat → Nat → Int → Nat × Int
  | 0, m, e => (m, e)
  | k + 1, m, e => if m % 2 = 0 ∧ m ≠ 0 then oddPart k (m / 2) (e + 1) else (m, e)

/-- A value in lowest terms. -/
def Dy.norm (d : Dy) : Dy :=
  let r := oddPart (Nat.log2 d.m + 1) d.m d.e
  { d with m := r.1, e := r.2 }

/-- Whether a normalised finite value is an integer, and whether an odd one. -/
def Dy.isInt (d : Dy) : Bool := d.m = 0 || 0 ≤ d.norm.e
/-- Whether a value is an odd integer. -/
def Dy.isOdd (d : Dy) : Bool := d.m ≠ 0 && d.norm.e == 0

/-- The function's real value at finite operands that no special, exact or distant case covers. -/
def realApx (fn : Fn) (p : Nat) (x y : Dy) : Approx :=
  let one : Nat := 1 <<< p
  match fn with
  | .exp => expApx p (x.fixI p)
  | .exp2 =>
    let t := x.fixI p
    let k := t / Int.ofNat one
    { v := expFix p (((t - k * Int.ofNat one).toNat * ln2Fix p) >>> p), k := k - p }
  | .expm1 =>
    let a := expApx p (x.fixI p)
    let k := a.k + p
    if 0 ≤ k then { v := a.v - Int.ofNat (one >>> k.toNat), k := a.k }
    else { v := Int.ofNat (a.v.toNat >>> (-k).toNat) - Int.ofNat one, k := -p }
  | .log => { v := lnFix p x, k := -p }
  | .log2 => { v := lnFix p x * Int.ofNat one / Int.ofNat (ln2Fix p), k := -p }
  | .log1p => { v := lnFix p x.onePlus, k := -p }
  | .sin => trigApx p false x
  | .cos => trigApx p true x
  | .sinpi => trigPiApx p false x
  | .cospi => trigPiApx p true x
  | .tanh =>
    let a := expApx p (2 * Int.ofNat (x.fix p))
    let w : Int := a.v * 2 ^ (a.k + p).toNat
    { v := signed x.neg ((w - Int.ofNat one) * Int.ofNat one / (w + Int.ofNat one)), k := -p }
  | .atan =>
    let u := x.fix p
    let v : Int := if u ≤ one then Int.ofNat (atanFix p u)
      else Int.ofNat (piFix p / 2) - Int.ofNat (atanFix p ((one <<< p) / u))
    { v := signed x.neg v, k := -p }
  | .erf =>
    let w := p + 256
    let u := x.fix w
    let x2 := (u * u) >>> w
    let s := erfSeries w x2 (4 * w) 0 u 0
    let e := expApx w (-(Int.ofNat x2))
    let g := (s * e.v.toNat) >>> (-e.k).toNat
    let rp := isqrt (piFix w <<< w)
    { v := signed x.neg (Int.ofNat ((((2 * g) <<< w) / rp) >>> 256)), k := -p }
  | .sigm =>
    let a := expApx p (-(Int.ofNat (x.fix p)))
    let d := one + (a.v.toNat >>> (-(a.k + p)).toNat)
    if x.neg then { v := Int.ofNat ((a.v.toNat <<< p) / d), k := a.k } else { v := Int.ofNat ((one <<< p) / d), k := -p }
  | .pow =>
    let w := p + y.lead.toNat + 16
    let l := lnFix w { x with neg := false }
    let t := (Dy.ofInt l (-(Int.ofNat w)) false).mul y
    let a := expApx p (t.fixI p)
    { a with v := signed (x.neg && y.isOdd) a.v }
  | _ => { v := 0, k := 0 }

/-! ## Special and exact cases -/

/-- How the value of a function at operands is known: a special value with its flags (R143); a dyadic that rounds as the exact value
does; or a real that only an enclosure gives. -/
inductive FnCase where
  | val (v : FVal) (fl : BitVec 8)
  | dy (d : Dy)
  | real
deriving DecidableEq, Repr

/-- The dyadic of an integer. -/
def dyInt (v : Int) : Dy := Dy.ofInt v 0 false
/-- A dyadic above every format's range. -/
def dyHuge (neg : Bool) : Dy := { neg := neg, m := 3, e := 40000 }
/-- A dyadic below every format's range. -/
def dyTiny (neg : Bool) : Dy := { neg := neg, m := 3, e := -40000 }
/-- A dyadic just below 1 in magnitude. -/
def dyBelowOne (neg : Bool) : Dy := { neg := neg, m := 2 ^ oddBits - 1, e := -(Int.ofNat oddBits) }

/-- Repeated square roots of m 2^e, when all are exact. -/
def rootsOf : Nat → Nat → Int → Option (Nat × Int)
  | 0, m, e => some (m, e)
  | k + 1, m, e => if isqrt m * isqrt m = m ∧ e % 2 = 0 then rootsOf k (isqrt m) (e / 2) else none

/-- |x|^y where it is a dyadic of at most 65 odd bits or so: none where it is no value that a format or a midpoint of one holds. -/
def powExact (x y : Dy) : Option Dy :=
  let xn := x.norm
  let yn := y.norm
  let base := if 0 ≤ yn.e then some (xn.m, xn.e) else rootsOf (min (-yn.e).toNat 2000) xn.m xn.e
  match base with
  | none => none
  | some (m, e) =>
    let n := if 0 ≤ yn.e then (if 16 < yn.e then 65536 else yn.m <<< yn.e.toNat) else yn.m
    if m = 1 then some { neg := false, m := 1, e := if y.neg then -(e * Int.ofNat n) else e * Int.ofNat n }
    else if y.neg || 80 < n then none
    else some { neg := false, m := m ^ n, e := e * Int.ofNat n }

/-- POW on finite operands outside the special cases, by magnitude. -/
def powCase (neg : Bool) (x y : Dy) : FnCase :=
  let xn := x.norm
  let sg := fun (d : Dy) => { d with neg := neg }
  let up := (x.lead ≥ 0) != y.neg
  if xn.m = 1 ∧ xn.e = 0 then .dy (sg { neg := false, m := 1, e := 0 })
  else if 80 ≤ y.lead then .dy (if up then dyHuge neg else dyTiny neg)
  else
    let w := 64 + y.lead.toNat + 64
    let t := (Dy.ofInt (lnFix w { x with neg := false }) (-(Int.ofNat w)) false).mul y
    if 12 ≤ t.lead && t.m != 0 then .dy (if up then dyHuge neg else dyTiny neg)
    else match powExact x y with
      | some d => .dy (sg d)
      | none => .real

/-- The special cases of POW (R143, IEEE 754-2019 pow). -/
def powSpecial (x y : FVal) : FnCase :=
  let one : FVal := .fin { neg := false, m := 1, e := 0 }
  let zero := fun n => FVal.fin { neg := n, m := 0, e := 0 }
  let sig := sigFlags [x, y]
  match x, y with
  | _, .fin g => if g.m = 0 then .val one sig
    else match x with
      | .nan _ => .val (.nan false) sig
      | .inf n => if g.neg then .val (zero (n && g.isOdd)) 0 else .val (.inf (n && g.isOdd)) 0
      | .fin d =>
        if d.m = 0 then (if g.neg then .val (.inf (d.neg && g.isOdd)) flDZ else .val (zero (d.neg && g.isOdd)) 0)
        else if d.neg && !g.isInt then .val (.nan false) flNV
        else powCase (d.neg && g.isOdd) d g
  | x, .nan _ => if x.equal one then .val one sig else .val (.nan false) sig
  | .nan _, .inf _ => .val (.nan false) sig
  | .inf _, .inf k => if k then .val (zero false) 0 else .val (.inf false) 0
  | .fin d, .inf k =>
    if d.m = 0 then (if k then .val (.inf false) 0 else .val (zero false) 0)
    else if d.norm.m = 1 && d.norm.e == 0 then .val one 0
    else if (0 ≤ d.lead) != k then .val (.inf false) 0 else .val (zero false) 0

/-- The cases of one-operand functions at a finite non-zero operand. -/
def finCase (fn : Fn) (d : Dy) : FnCase :=
  let nan : FnCase := .val (.nan false) flNV
  let zero := fun n => FVal.fin { neg := n, m := 0, e := 0 }
  let big := 11 ≤ d.lead
  match fn with
  | .exp => if big then .dy (if d.neg then dyTiny false else dyHuge false) else .real
  | .exp2 =>
    if big then .dy (if d.neg then dyTiny false else dyHuge false)
    else if d.isInt then .dy { neg := false, m := 1, e := d.norm.intAt 0 } else .real
  | .expm1 =>
    if d.neg && 8 ≤ d.lead then .dy (dyBelowOne true) else if big then .dy (dyHuge false) else .real
  | .log => if d.neg then nan else if d.norm.m = 1 && d.norm.e == 0 then .val (zero false) 0 else .real
  | .log2 => if d.neg then nan else if d.norm.m = 1 then (if d.norm.e = 0 then .val (zero false) 0 else .dy (dyInt d.norm.e)) else .real
  | .log1p =>
    let z := d.onePlus
    if z.m = 0 then .val (.inf true) flDZ else if z.neg then nan else .real
  | .sin => .real
  | .cos => .real
  | .sinpi =>
    if d.isInt then .val (zero d.neg) 0
    else if d.norm.e = -1 then .dy { neg := (d.norm.m % 4 == 3) != d.neg, m := 1, e := 0 } else .real
  | .cospi =>
    if d.isInt then .dy { neg := d.isOdd, m := 1, e := 0 } else if d.norm.e = -1 then .val (zero false) 0 else .real
  | .tanh => if 7 ≤ d.lead then .dy (dyBelowOne d.neg) else .real
  | .atan => .real
  | .erf => if 4 ≤ d.lead then .dy (dyBelowOne d.neg) else .real
  | .sigm => if 8 ≤ d.lead && !d.neg then .dy (dyBelowOne false) else if big then .dy (dyTiny false) else .real
  | .rsqrt =>
    if d.neg then nan
    else
      let z := d.norm
      let e := if z.e % 2 = 0 then z.e else z.e - 1
      let m := if z.e % 2 = 0 then z.m else 2 * z.m
      let k := 2 * (oddBits + Nat.log2 m)
      let r := isqrt (2 ^ k / m)
      .dy (oddDy false r (r * r * m != 2 ^ k) (-(Int.ofNat k / 2) - e / 2))
  | .rcp => .dy (Dy.div { neg := false, m := 1, e := 0 } d)
  | .pow => nan

/-- The cases of a function at its operands (R143, R149). -/
def fnCase (fn : Fn) (x y : FVal) : FnCase :=
  let one : FVal := .fin { neg := false, m := 1, e := 0 }
  let zero := fun n => FVal.fin { neg := n, m := 0, e := 0 }
  match fn with
  | .pow => powSpecial x y
  | _ =>
    match x with
    | .nan sig => .val (.nan false) (flagIf sig flNV)
    | .inf n =>
      match fn with
      | .exp | .exp2 => .val (if n then zero false else .inf false) 0
      | .expm1 => .val (if n then .fin { neg := true, m := 1, e := 0 } else .inf false) 0
      | .log | .log2 | .log1p => if n then .val (.nan false) flNV else .val (.inf false) 0
      | .sin | .cos | .sinpi | .cospi => .val (.nan false) flNV
      | .tanh | .erf => .val (.fin { neg := n, m := 1, e := 0 }) 0
      | .atan => .dy { neg := n, m := 2 * piFix 256 + 1, e := -258 }
      | .sigm => .val (if n then zero false else one) 0
      | .rsqrt => if n then .val (.nan false) flNV else .val (zero false) 0
      | .rcp => .val (zero n) 0
      | .pow => .val (.nan false) 0
    | .fin d =>
      if d.m = 0 then
        match fn with
        | .exp | .exp2 | .cos | .cospi => .val one 0
        | .expm1 | .log1p | .sin | .sinpi | .tanh | .atan | .erf => .val (zero d.neg) 0
        | .log | .log2 => .val (.inf true) flDZ
        | .sigm => .val (.fin { neg := false, m := 1, e := -1 }) 0
        | .rsqrt | .rcp => .val (.inf d.neg) flDZ
        | .pow => .val (.nan false) 0
      else finCase fn d

/-! ## Rounding the value of a function -/

/-- The error bound of an approximation in units of its last place. -/
def apxErr : Int := 2 ^ 40

/-- One end of an enclosure as a dyadic that no format and no midpoint of one holds. -/
def endDy (v k : Int) : Dy := { neg := v < 0, m := 2 * v.natAbs + 1, e := k - 1 }

/-- Narrows an enclosure until both ends round alike under a rounding function (log 10). The precisions are tried in turn; after the
last the approximation itself is rounded. -/
def decideReal (round : Dy → Nat × BitVec 8) (fn : Fn) (x y : Dy) : List Nat → Nat × BitVec 8
  | [] => (0, 0)
  | p :: ps =>
    let a := realApx fn p x y
    let lo := round (endDy (a.v - apxErr) a.k)
    let hi := round (endDy (a.v + apxErr) a.k)
    if (2 ^ 140 ≤ a.v.natAbs && lo == hi) || ps.isEmpty then round (endDy a.v a.k)
    else decideReal round fn x y ps

/-- The precisions tried. -/
def precisions : List Nat := [224, 448, 896, 1792, 3584, 7168, 14336]

/-- The value of a function under a rounding function, its flags, and whether it lies outside the special and exact cases: a real always, a dyadic
that stands for one when it rounds inexactly. -/
def fnRound (round : Dy → Nat × BitVec 8) (write : FVal → Nat × BitVec 8) (fn : Fn) (x y : FVal) : Nat × BitVec 8 × Bool :=
  match fnCase fn x y with
  | .val v fl => ((write v).1, (write v).2 ||| fl, false)
  | .dy d => ((round d).1, (round d).2, (round d).2 &&& flNX != 0)
  | .real =>
    match x, y with
    | .fin d, .fin g => let r := decideReal round fn d g precisions; (r.1, r.2, true)
    | .fin d, _ => let r := decideReal round fn d d precisions; (r.1, r.2, true)
    | _, _ => (0, 0, false)

/-- One lane of a correctly rounded function (R140, R142, R143): result, flags, and whether it is outside the special and exact cases. -/
def crLane (fn : Fn) (f : Fmt) (mode : Rnd) (a b : Nat) : Nat × BitVec 8 × Bool :=
  let x := f.decode a
  let y := f.decode b
  match fn with
  | .pow => fnRound (f.round mode false) (f.write mode false) fn x y
  | _ => fnRound (f.round mode false) (f.write mode false) fn x x

/-! ## The fast-approximate family -/

/-- A format with two more fraction bits, by which a value is placed among the codes of the narrower one. -/
def Fmt.finer (f : Fmt) : Fmt := { f with bits := f.bits + 2, frac := f.frac + 2 }

/-- The least and the greatest magnitude code that R149 allows for the values of a cell, within u units in the last place of each. Cell 8 t + 2 q is
the point a quarter q past code t, and cell 8 t + 2 q + 1 the values between it and the next; two codes up from the last code of a binade is more
than two of its units. -/
def approxRange (f : Fmt) (u cell : Nat) : Nat × Nat :=
  let t := cell / 8
  let edge := 2 ≤ u && (t + 1) % 2 ^ f.frac == 0 && 2 ^ f.frac ≤ t
  ((if cell % 8 = 0 then t - u else t + 1 - u), if edge then t + 1 else t + u)

/-- A free code of a cell within its range (log 11). -/
def approxFree (f : Fmt) (u opc ty cell : Nat) : Nat :=
  let r := approxRange f u cell
  r.1 + Config.approxPick opc ty cell % (r.2 - r.1 + 1)

/-- The magnitude code of an approximate result by the cell of its exact value (R149): the greatest of the free codes of the cells up to it that can
reach its range, so that it never falls as the value rises; on its own side of every value that the function takes exactly. -/
def approxCode (f : Fmt) (u opc ty : Nat) (pins : List Nat) (cell : Nat) : Nat :=
  let span := 8 * (2 * u + 1)
  let c := ((List.range span).map (fun i => approxFree f u opc ty (cell - i))).foldl Nat.max 0
  min (pins.foldl (fun c v => if 8 * v ≤ cell then Nat.max c v else Nat.min c v) c) f.infCode

/-- The exact non-zero values of a function at special operands, as magnitude codes (R143): 1 at a zero or an infinity, and 1/2 of SIGM at 0. -/
def approxPins (fn : Fn) (f : Fmt) : List Nat :=
  let one := (f.round .rne false { neg := false, m := 1, e := 0 }).1
  let half := (f.round .rne false { neg := false, m := 1, e := -1 }).1
  match fn with
  | .exp | .exp2 | .cos | .tanh => [one]
  | .sigm => [half, one]
  | _ => []

/-- The flags of an approximate finite or overflowing result by its magnitude code (R149). -/
def approxFlags (f : Fmt) (c : Nat) : BitVec 8 :=
  if f.maxCode < c then flOF else if c < 2 ^ f.frac then flUF else flNX

/-- One lane of a fast-approximate function where its bound holds (R149): which of the codes within it comes is free (log 11). -/
def nearLane (fn : Fn) (opc ty a : Nat) : Nat × BitVec 8 :=
  let f := fmtOf ty
  let x := f.decode a
  match fnCase fn x x with
  | .val v fl => ((f.write .rne false v).1, (f.write .rne false v).2 ||| fl)
  | _ =>
    let g := f.finer
    let r := fnRound (g.round .rtz false) (g.write .rtz false) fn x x
    let top := 2 ^ (g.bits - 1)
    let cell := 2 * (r.1 % top) + (if r.2.1 &&& flNX != 0 then 1 else 0)
    let c := if r.2.1 &&& flOF != 0 then f.infCode else approxCode f (if ty = 9 then 2 else 1) opc ty (approxPins fn f) cell
    (r.1 / top * 2 ^ (f.bits - 1) + c, approxFlags f c)

/-- A free function of k bits that never falls: at each halving of its domain the value at the middle is a free one of those left. -/
def freeRising (pick : Nat → Nat) : Nat → Nat → Nat → Nat → Nat → Nat
  | 0, node, _, lo, hi => lo + pick node % (hi - lo + 1)
  | k + 1, node, x, lo, hi =>
    let m := lo + pick node % (hi - lo + 1)
    if x / 2 ^ k % 2 = 0 then freeRising pick k (2 * node) x lo m else freeRising pick k (2 * node + 1) x m hi

/-- The interval between two extremes of the sine or the cosine that a magnitude lies in. -/
def trigPiece (cosine : Bool) (x : Dy) : Nat :=
  let w := 64 + x.lead.toNat + 8
  let pi := piFix w
  let t := x.fix w
  if cosine then t / pi else (2 * t + pi) / (2 * pi)

/-- The place of a code among the results from -1 to 1 in rising order. -/
def unitRank (f : Fmt) (c : Nat) : Nat :=
  let one := (f.round .rne false { neg := false, m := 1, e := 0 }).1
  let top := 2 ^ (f.bits - 1)
  if c < top then one + 1 + c else one - c % top

/-- The code at a place among the results from -1 to 1. -/
def unitAt (f : Fmt) (i : Nat) : Nat :=
  let one := (f.round .rne false { neg := false, m := 1, e := 0 }).1
  if i ≤ one then 2 ^ (f.bits - 1) + (one - i) else i - one - 1

/-- A sine or cosine of a magnitude above 256 (R149): a free value from -1 to 1, that between two extremes of the function follows its direction,
from the result at 256 on in the interval that holds 256 (log 11). -/
def farLane (fn : Fn) (opc ty : Nat) (d : Dy) (a : Nat) : Nat × BitVec 8 :=
  let f := fmtOf ty
  let top := 2 ^ (f.bits - 1)
  let one := (f.round .rne false { neg := false, m := 1, e := 0 }).1
  let cosine := fn == .cos
  let edge : Dy := { neg := d.neg, m := 256, e := 0 }
  let piece := trigPiece cosine d
  let rises := if cosine then piece % 2 == 1 else (piece % 2 == 0) != d.neg
  let start := min (unitRank f (nearLane fn opc ty (f.round .rne false edge).1).1) (2 * one + 1)
  let lo := if piece = trigPiece cosine edge && rises then start else 0
  let hi := if piece = trigPiece cosine edge && !rises then start else 2 * one + 1
  let x := if rises then a % top else top - 1 - a % top
  let c := unitAt f (freeRising (fun node => Config.approxPick opc ty (2 ^ 70 * (1 + 2 * piece + d.neg.toNat) + node)) (f.bits - 1) 1 x lo hi)
  (c, approxFlags f (c % top))

/-- One lane of a fast-approximate function (R149): within the bound of its format, and monotonic where the function is; a sine or cosine of a
magnitude above 256 is from -1 to 1. -/
def approxLane (fn : Fn) (opc ty a : Nat) : Nat × BitVec 8 :=
  match (fmtOf ty).decode a with
  | .fin d =>
    if (fn == .sin || fn == .cos) && d.m != 0 && (9 ≤ d.lead || (8 ≤ d.lead && d.norm.m != 1)) then farLane fn opc ty d a
    else nearLane fn opc ty a
  | _ => nearLane fn opc ty a

end Sys2Proof.Machine
end

