-- ==== Sys2Proof/Machine/FnOps.lean ====
section
/-! DEFINITION. The function group (R138 to R149): the correctly rounded functions with the Jointer's second phase, and the
fast-approximate ones. -/

namespace Sys2Proof.Machine

open Sys2Proof

/-- The cluster of an element (R9). -/
def clusterOf (u : UnitLoc) : Nat × Nat :=
  match u with
  | .elem cx cy => (cx / 4, cy / 4)
  | .station cX cY => (cX, cY)

/-- The lanes that tokens of a Jointer have still to enter it with. -/
def jointerLanes (l : List JTok) : Nat := (l.map (·.queued)).foldl (· + ·) 0

/-- Whether a limit of the Jointer stops an element's firing of a function instruction that has n lanes for it (R146): 64 lanes queued in the
cluster, or 8 tokens of the element past their fast paths whose lanes have not all entered; a firing with lanes for it also waits while those on
their way would pass a limit with it. -/
def State.jointerFull (s : State) (c : Ctx) (n : Nat) : Bool :=
  let k := clusterOf c.u
  match s.clus? c.br k.1 k.2 with
  | some l =>
    let mine := l.jointer.filter (fun j => UnitLoc.elem j.cx j.cy == c.u && !j.tile && j.queued != 0)
    64 ≤ jointerLanes (l.jointer.filter (·.fastEnd ≤ s.now)) || 8 ≤ (mine.filter (·.fastEnd ≤ s.now)).length ||
    (n != 0 && (64 < jointerLanes l.jointer + n || 8 ≤ mine.length))
  | none => false

/-- The latency of the fast path (R144). -/
def fastPath (ty : Nat) : Nat := if ty = 8 then 22 else if ty = 9 then 14 else if ty = 0xA ∨ ty = 0xB then 10 else 15

/-- The lanes of a token that take the second phase (R144): only f32 and f64 lanes outside the special and exact cases. -/
def secondLanes (opc ty mode : Nat) (ls : List (Nat × Nat)) (rs : List (Nat × BitVec 8 × Bool)) : Nat :=
  if ty = 8 ∨ ty = 9 then
    ((ls.zip rs).filter (fun x => x.2.2.2 && Config.secondPhase opc ty mode x.1.1 x.1.2)).length
  else 0

/-- Sends a result whose lanes are not all decided to the cluster's Jointer, where it waits to emit (R144, R145). -/
def State.toJointer (s : State) (o : SlotOps) (c : Ctx) (ty : Nat) (r : Result) (lanes : Nat) : State :=
  let (id, s) := s.newId
  let k := clusterOf c.u
  let cell := s.ctxCell c
  s.updClus c.br k.1 k.2 (fun l =>
    { l with jointer := l.jointer ++ [{ id := id, cx := cell.1, cy := cell.2, blk := c.blk, slot := c.slot, out := r.tok,
                                        flags := r.flags ||| flSPH, warn := (prEff o).2 ||| tilehd c ||| r.warn, fastEnd := s.now + fastPath ty,
                                        queued := lanes, heldTo := [], tile := false }] })

/-- The result of a firing of a correctly rounded function, and how many of its lanes take the second phase (R138 to R144). -/
def State.fnResult (s : State) (fn : Fn) (opc : Nat) (o : SlotOps) (c : Ctx) : Result × Nat :=
  let ty := (fnTy o.ty).1
  let m := rndOf o.mod (s.rmodeOf c.br c.u)
  let two := fn == .pow
  let as_ := c.lanesA ty
  let bs := if two then c.lanesB ty false 0 else as_
  let ls := as_.zip bs
  let rs := ls.map (fun x => crLane fn (fmtOf ty) m.1 x.1 x.2)
  let scalar := if two then c.scalar2 false else c.atok.isScalar
  (laneResult c scalar (laneBits ty) (rs.map (fun x => (x.1, x.2.1))) ((fnTy o.ty).2 ||| m.2 ||| rsvx (o.x != 0)),
   secondLanes opc ty m.1.code (if scalar then ls.take 1 else ls) rs)

/-- The lanes that a firing has for the Jointer: none of a null-pass, nor of one predicated off. -/
def State.fnLanes (s : State) (fn : Fn) (opc : Nat) (o : SlotOps) (c : Ctx) : Nat :=
  if fireCase (prEff o).1 c = .run then (s.fnResult fn opc o c).2 else 0

/-- A correctly rounded function instruction (R138 to R147): the value of every lane is that of R140; only lanes that the fast path
does not decide delay the token. A firing waits while the Jointer is full. -/
def State.function (s : State) (fn : Fn) (opc : Nat) (o : SlotOps) : Host.Outcome State Fault Refusal :=
  match s.firing? with
  | none => .fault .notLatched
  | some c0 =>
    if s.jointerFull c0 (s.fnLanes fn opc o c0) then .next { s with cur := .waits }
    else s.runFiring o (fun c =>
      let r := s.fnResult fn opc o c
      .next (if r.2 = 0 then s.deliver o c r.1 else s.toJointer o c (fnTy o.ty).1 r.1 r.2))

/-- A fast-approximate function instruction (R148, R149). -/
def State.approx (s : State) (fn : Fn) (opc : Nat) (o : SlotOps) : Host.Outcome State Fault Refusal :=
  s.compute o (fun c =>
    let ty := (apTy o.ty).1
    laneResult c c.atok.isScalar (laneBits ty) ((c.lanesA ty).map (approxLane fn opc ty))
      ((apTy o.ty).2 ||| rsvx (o.x != 0)))

/-- EXP (R334). -/
def execExp (o : SlotOps) (s : State) : Host.Outcome State Fault Refusal := s.function .exp 0x30 o
/-- EXP2 (R334). -/
def execExp2 (o : SlotOps) (s : State) : Host.Outcome State Fault Refusal := s.function .exp2 0x31 o
/-- EXPM1 (R334). -/
def execExpm1 (o : SlotOps) (s : State) : Host.Outcome State Fault Refusal := s.function .expm1 0x32 o
/-- LOG (R334). -/
def execLog (o : SlotOps) (s : State) : Host.Outcome State Fault Refusal := s.function .log 0x33 o
/-- LOG2 (R334). -/
def execLog2 (o : SlotOps) (s : State) : Host.Outcome State Fault Refusal := s.function .log2 0x34 o
/-- LOG1P (R334). -/
def execLog1p (o : SlotOps) (s : State) : Host.Outcome State Fault Refusal := s.function .log1p 0x35 o
/-- SIN (R410). -/
def execSin (o : SlotOps) (s : State) : Host.Outcome State Fault Refusal := s.function .sin 0x36 o
/-- COS (R308). -/
def execCos (o : SlotOps) (s : State) : Host.Outcome State Fault Refusal := s.function .cos 0x37 o
/-- SINPI (R410). -/
def execSinpi (o : SlotOps) (s : State) : Host.Outcome State Fault Refusal := s.function .sinpi 0x38 o
/-- COSPI (R308). -/
def execCospi (o : SlotOps) (s : State) : Host.Outcome State Fault Refusal := s.function .cospi 0x39 o
/-- TANH (R431). -/
def execTanh (o : SlotOps) (s : State) : Host.Outcome State Fault Refusal := s.function .tanh 0x3A o
/-- ATAN (R308). -/
def execAtan (o : SlotOps) (s : State) : Host.Outcome State Fault Refusal := s.function .atan 0x3B o
/-- ERF (R334). -/
def execErf (o : SlotOps) (s : State) : Host.Outcome State Fault Refusal := s.function .erf 0x3C o
/-- SIGM (R410). -/
def execSigm (o : SlotOps) (s : State) : Host.Outcome State Fault Refusal := s.function .sigm 0x3D o
/-- RSQRT (R410). -/
def execRsqrt (o : SlotOps) (s : State) : Host.Outcome State Fault Refusal := s.function .rsqrt 0x3E o
/-- POW (R379). -/
def execPow (o : SlotOps) (s : State) : Host.Outcome State Fault Refusal := s.function .pow 0x3F o
/-- EXPA (R338). -/
def execExpa (o : SlotOps) (s : State) : Host.Outcome State Fault Refusal := s.approx .exp 0x40 o
/-- EXP2A (R338). -/
def execExp2a (o : SlotOps) (s : State) : Host.Outcome State Fault Refusal := s.approx .exp2 0x41 o
/-- LOGA (R338). -/
def execLoga (o : SlotOps) (s : State) : Host.Outcome State Fault Refusal := s.approx .log 0x42 o
/-- LOG2A (R338). -/
def execLog2a (o : SlotOps) (s : State) : Host.Outcome State Fault Refusal := s.approx .log2 0x43 o
/-- SINA (R399). -/
def execSina (o : SlotOps) (s : State) : Host.Outcome State Fault Refusal := s.approx .sin 0x44 o
/-- COSA (R308). -/
def execCosa (o : SlotOps) (s : State) : Host.Outcome State Fault Refusal := s.approx .cos 0x45 o
/-- TANHA (R431). -/
def execTanha (o : SlotOps) (s : State) : Host.Outcome State Fault Refusal := s.approx .tanh 0x46 o
/-- SIGMA (R399). -/
def execSigma (o : SlotOps) (s : State) : Host.Outcome State Fault Refusal := s.approx .sigm 0x47 o
/-- RCPA (R399). -/
def execRcpa (o : SlotOps) (s : State) : Host.Outcome State Fault Refusal := s.approx .rcp 0x48 o
/-- RSQA (R399). -/
def execRsqa (o : SlotOps) (s : State) : Host.Outcome State Fault Refusal := s.approx .rsqrt 0x49 o

/-- FEXPL: EXP under another opcode, which also counts in DEPCOUNT when it executes (R345, R254). -/
def execFexpl (o : SlotOps) (s : State) : Host.Outcome State Fault Refusal :=
  match s.firing? with
  | none => .fault .notLatched
  | some c =>
    if fireCase (prEff o).1 c = .run && !s.jointerFull c (s.fnLanes .exp 0x30 o c) then (s.deprecate c.br.rid).function .exp 0x30 o
    else s.function .exp 0x30 o

end Sys2Proof.Machine
end

