-- ==== Sys2Proof/Machine/Truss.lean ====
section
/-! DEFINITION. The arithmetic of the Truss and the Scribe (R119 to R121, R129, R132, R133, R155 to R157, R162, R164, R434, R435): operands as
they lie in ring slots, engine steps, the scout format, masks, and the row instructions. -/

namespace Sys2Proof.Machine

open Sys2Proof

/-! ## Operands in rings (R155, R434) -/

/-- The codes of elements packed in bytes (R119). -/
def codesOf (eb : Nat) (bs : List Byte) : List Nat :=
  if eb < 8 then bs.flatMap (fun b => [b.toNat % 16, b.toNat / 16])
  else (List.range (bs.length / (eb / 8))).map (fun i => natOfBytes ((bs.drop (i * (eb / 8))).take (eb / 8)))

/-- The bytes of codes, packed (R119). -/
def packCodes (eb : Nat) (cs : List Nat) : List Byte :=
  if eb < 8 then (List.range ((cs.length + 1) / 2)).map (fun i => BitVec.ofNat 8 (cs.getD (2 * i) 0 % 16 + 16 * (cs.getD (2 * i + 1) 0 % 16)))
  else cs.flatMap (fun c => bytesOf (eb / 8) c)

/-- A value times a power-of-two scale given as e8m0 (R117, R120). -/
def scaleBy (e : Nat) (v : FVal) : FVal :=
  match scaleE8 e, v with
  | none, _ => .nan false
  | some s, .fin d => .fin (if d.m = 0 then d else { d with e := d.e + s.e })
  | some _, v => v

/-- One decoded block of 32 elements: values with the scale in, misplaced OX4 markers, and the NaNs that NANC counts (R120, R134). -/
def decodeBlock (ty : Nat) (scaled : Bool) (e : Nat) (cs : List Nat) : List FVal × Nat × Nat :=
  if ty = 0xF then ox4Decode cs e
  else if scaled then
    let vs := cs.map (fun c => scaleBy e ((fmtOf ty).decode c))
    (vs, 0, if e = 255 then 32 else (vs.filter (·.isNan)).length)
  else
    let vs := cs.map (fun c => (fmtOf ty).decode c)
    (vs, 0, (vs.filter (·.isNan)).length)

/-- A decoded row: the values, and its blocks' counts added. -/
def decodeRow (ty : Nat) (scaled : Bool) (cs es : List Nat) : List FVal × Nat × Nat :=
  (List.range ((cs.length + 31) / 32)).foldl (fun acc b =>
    let r := decodeBlock ty scaled (es.getD b 127) ((cs.drop (32 * b)).take 32)
    (acc.1 ++ r.1, acc.2.1 + r.2.1, acc.2.2 + r.2.2)) ([], 0, 0)

/-- Reads n bytes of consecutive ring slots, from a byte of the slot at a distance past HEAD. -/
def State.ringBytes (s : State) (b : Bent) (cX cY : Nat) (g : Ring) (slots off n : Nat) : List Byte :=
  (List.range n).map (fun i => memRead s.mem (g.ga (b.vault0 cX cY) (g.head + slots) (off + i)))

/-- The first byte of a range of consecutive ring slots that an uncorrectable error holds (R186). -/
def State.ringEcc (s : State) (b : Bent) (cX cY : Nat) (g : Ring) (slots : Nat) (r : Nat × Nat) : Option Nat :=
  ((List.range r.2).map (fun i => g.ga (b.vault0 cX cY) (g.head + slots) (r.1 + i))).find? (fun a => s.eccIn a 1)

/-- The bytes of some rows of a panel of an operand: codes, then scales (R155). -/
def panelSpans (ty : Nat) (mx : Bool) (rows t first n : Nat) : List (Nat × Nat) :=
  let rb := keOf ty * laneBits ty / 8
  let base := t * panelBytes ty mx rows
  (base + first * rb, n * rb) :: (if panelScaled ty mx then [(base + rows * rb + first * (keOf ty / 32), n * (keOf ty / 32))] else [])

/-- One row of a panel of an operand: its values and the counts of its decode. -/
def State.panelRow (s : State) (b : Bent) (cX cY : Nat) (g : Ring) (slots ty : Nat) (mx : Bool) (rows t r : Nat) : List FVal × Nat × Nat :=
  let rb := keOf ty * laneBits ty / 8
  let base := t * panelBytes ty mx rows
  let cs := codesOf (laneBits ty) (s.ringBytes b cX cY g slots (base + r * rb) rb)
  let es := if panelScaled ty mx then
      (s.ringBytes b cX cY g slots (base + rows * rb + r * (keOf ty / 32)) (keOf ty / 32)).map (·.toNat)
    else []
  decodeRow ty (panelScaled ty mx) cs es

/-! ## Engine steps (R133, R157) -/

/-- The accumulator's format (R156). -/
def accTy (ty : Nat) : Nat := if ty = 8 then 8 else 9

/-- One accumulation: an accumulator value plus 32 products, summed exactly and rounded once (R133). -/
def accStep (f : Fmt) (acc : Nat) (as_ bs : List FVal) : Nat × BitVec 8 :=
  let ps := List.zipWith FVal.mul as_ bs
  let r := sumVals .rne (f.decode acc :: ps.map (·.1))
  let w := f.write .rne false r.1
  (w.1, w.2 ||| r.2 ||| orFlags (ps.map (·.2)) ||| sigFlags (f.decode acc :: as_) ||| sigFlags bs)

/-- The accumulations of one output element over a row of A and a row of B, 32 values at a time (R133). -/
def accRow (f : Fmt) : Nat → Nat → List FVal → List FVal → BitVec 8 → Nat × BitVec 8
  | 0, acc, _, _, fl => (acc, fl)
  | n + 1, acc, as_, bs, fl =>
    let r := accStep f acc (as_.take 32) (bs.take 32)
    accRow f n r.1 (as_.drop 32) (bs.drop 32) (fl ||| r.2)

/-- One engine step on an accumulator: rows of A by 64 rows of B (R156, R157). -/
def engineStep (f : Fmt) (arows brows : List (List FVal)) (acc : List Nat) : List Nat × BitVec 8 :=
  let n := brows.length
  let rs := (List.range arows.length).flatMap (fun i => (List.range n).map (fun j =>
    let a := arows.getD i []
    accRow f (a.length / 32) (acc.getD (i * n + j) 0) a (brows.getD j []) 0))
  (rs.map (·.1), orFlags (rs.map (·.2)))

/-! ## The scout format (R162) -/

/-- The greatest magnitude's exponent of a block, none for a block of zeros. -/
def leadOf (vs : List FVal) : Option Int :=
  vs.foldl (fun acc v => match v with
    | .fin d => if d.m = 0 then acc else match acc with
      | some e => some (max e d.lead)
      | none => some d.lead
    | _ => acc) none

/-- A block converted to the scout format, with its scale in (R129, R162). -/
def scoutBlock (ox4 : Bool) (mode : Rnd) (vs : List FVal) : List FVal × BitVec 8 :=
  if vs.any (fun v => match v with
    | .fin _ => false
    | _ => true) then (vs.map (fun _ => .nan false), sigFlags vs)
  else
    let s : Dy := { neg := false, m := 1, e := match leadOf vs with
      | some e => e - (if ox4 then 2 else 7)
      | none => 0 }
    let xs := vs.map (FVal.scaled mode s)
    let back := fun v => match v with
      | FVal.fin d => FVal.fin (if d.m = 0 then d else { d with e := d.e + s.e })
      | v => v
    if ox4 then
      let r := ox4Encode mode xs
      ((ox4Decode r.1 127).1.map back, r.2.1)
    else
      let rs := xs.map (fun v => (fmtOf 0xC).write mode false v)
      (rs.map (fun r => back ((fmtOf 0xC).decode r.1)), orFlags (rs.map (·.2)))

/-- A row converted to the scout format, block by block. -/
def scoutRow (ox4 : Bool) (mode : Rnd) (vs : List FVal) : List FVal × BitVec 8 :=
  (List.range ((vs.length + 31) / 32)).foldl (fun acc b =>
    let r := scoutBlock ox4 mode ((vs.drop (32 * b)).take 32)
    (acc.1 ++ r.1, acc.2 ||| r.2)) ([], 0)

/-- The greatest of a list of f32 values, canonical NaN when one is a NaN (R162). -/
def maxOf (l : List FVal) : FVal := l.foldl (FVal.pick true) (.inf true)

/-! ## The Scribe (R164) -/

/-- A score as the Scribe compares it: a NaN counts as +∞. -/
def scoreVal (x : Nat) : FVal :=
  match (fmtOf 9).decode x with
  | .nan _ => .inf false
  | v => v

/-- Whether one score is at least another. -/
def FVal.atLeast (a b : FVal) : Bool :=
  match a, b with
  | .nan _, _ => false
  | _, .nan _ => false
  | a, b => !a.below b || a.equal b

/-- The exact sum of a score and δ; a NaN for ∞ − ∞ and for a NaN δ (R164, R414). -/
def scoreSum (v d : FVal) : FVal := (sumVals .rne [v, d]).1

/-- The tiles that one row-block keeps (R164). -/
def keptOf (mode : Nat) (param : Nat) (vs : List FVal) : List Bool :=
  let mx := vs.foldl (fun a v => if a.below v then v else a) (.inf true)
  if mx == .inf true then vs.map (fun _ => false)
  else (List.range vs.length).map (fun j =>
    let v := vs.getD j (.inf true)
    match mode with
    | 0 => v.atLeast ((fmtOf 9).decode param)
    | 1 => (scoreSum v ((fmtOf 9).decode param)).atLeast mx
    | _ => ((List.range vs.length).filter (fun i =>
        let w := vs.getD i (.inf true)
        !w.equal v && v.below w || w.equal v && i < j)).length < param)

/-- The mask over all row-blocks, with the force mask (R164). -/
def scribeMask (mode param nt1 : Nat) (scores : Nat → Option W256) (force : W256) : List Bool :=
  let lane := fun (r j : Nat) => match scores j with
    | some x => scoreVal (laneAt x 32 r)
    | none => .inf true
  let ks := (List.range 8).map (fun r => keptOf mode param ((List.range (nt1 + 1)).map (lane r)))
  (List.range (nt1 + 1)).map (fun j => force.getLsbD j || ks.any (fun k => k.getD j false))

/-! ## The row instructions (R434, R435) -/

/-- Reads a tile from a ring's head: its codes and scales by row. -/
def State.ringTile (s : State) (b : Bent) (cX cY : Nat) (g : Ring) (ty : Nat) (scaled : Bool) (rows cols : Nat) :
    List (List Nat × List Nat) :=
  let rb := (cols * laneBits ty + 7) / 8
  (List.range rows).map (fun r =>
    ((codesOf (laneBits ty) (s.ringBytes b cX cY g 0 (r * rb) rb)).take cols,
     if scaled then (s.ringBytes b cX cY g 0 (rows * rb + r * (cols / 32)) (cols / 32)).map (·.toNat) else []))

/-- EM of a block-scaled destination (R435). -/
def emOf (ty : Nat) : Int := if ty = 0xC then 8 else if ty = 0xD then 15 else 2

/-- A converted block: codes, scale, flags, and the counts NANC, SATC and UFC (R121, R129, R435). An unscaled value is one over a scale of 1, its
zero by R116. A NaN that goes to e2m1 with BS = 0 becomes the code +0 and raises no NV: e2m1 holds no NaN, and R329 gives NV to CVT alone (log 91). -/
def tcvtBlock (ty : Nat) (scaled bs nov : Bool) (mode : Rnd) (vs : List FVal) : List Nat × Nat × BitVec 8 × Nat × Nat × Nat :=
  let plain := fun (xs : List FVal) =>
    let rs := xs.map (fun v =>
      let w := (fmtOf ty).write mode nov v
      (w.1, w.2 ||| v.sigFlag))
    (rs.map (·.1), orFlags (rs.map (·.2)),
      (rs.filter (fun r => ((fmtOf ty).decode r.1).isNan)).length, (rs.filter (fun r => r.2 &&& flSAT != 0)).length,
      (rs.filter (fun r => r.2 &&& flUF != 0)).length)
  let odd := vs.any (fun v => match v with
    | .fin _ => false
    | _ => true)
  if !scaled then
    let r := plain (vs.map (FVal.scaled mode { neg := false, m := 1, e := 0 }))
    (r.1, 127, r.2.1, r.2.2.1, r.2.2.2.1, r.2.2.2.2)
  else if odd && (bs || ty == 0xF) then (vs.map (fun _ => 0), 255, sigFlags vs, 32, 0, 0)
  else
    let k : Int := if !bs then 0 else match leadOf vs with
      | some e => max (-127) (min 127 (e - emOf ty))
      | none => 0
    let xs := vs.map (FVal.scaled mode { neg := false, m := 1, e := k })
    if ty = 0xF then
      let r := ox4Encode mode xs
      (r.1, (k + 127).toNat, r.2.1, ((ox4Decode r.1 127).1.filter (·.isNan)).length, r.2.2.2, 0)
    else
      let r := plain xs
      (r.1, (k + 127).toNat, r.2.1, r.2.2.1, r.2.2.2.1, r.2.2.2.2)

/-- A converted row: codes, scales, flags, counts. -/
def tcvtRow (ty : Nat) (scaled bs nov : Bool) (mode : Rnd) (vs : List FVal) : List Nat × List Nat × BitVec 8 × Nat × Nat × Nat :=
  (List.range ((vs.length + 31) / 32)).foldl (fun acc b =>
    let r := tcvtBlock ty scaled bs nov mode ((vs.drop (32 * b)).take 32)
    (acc.1 ++ r.1, acc.2.1 ++ [r.2.1], acc.2.2.1 ||| r.2.2.1, acc.2.2.2.1 + r.2.2.2.1, acc.2.2.2.2.1 + r.2.2.2.2.1,
      acc.2.2.2.2.2 + r.2.2.2.2.2)) ([], [], 0, 0, 0, 0)

/-- The largest unbiased exponent among finite non-zero values (R134). -/
def maxeOf (vs : List FVal) : Int := (leadOf vs).getD (-0x8000)

/-- The function that FN of TFN names: that of OPC 0x30 + FN (R432). -/
def fnNamed (n : Nat) : Fn :=
  match n with
  | 0 => .exp | 1 => .exp2 | 2 => .expm1 | 3 => .log | 4 => .log2 | 5 => .log1p | 6 => .sin | 7 => .cos | 8 => .sinpi | 9 => .cospi
  | 10 => .tanh | 11 => .atan | 12 => .erf | 13 => .sigm | _ => .rsqrt

end Sys2Proof.Machine
end

