-- ==== Sys2Proof/Machine/TileOps.lean ====
section
/-! DEFINITION. The tile class (R69, R70, R150 to R168, R375, R407 to R409, R413, R414, R432 to R437): nodes and their configuration, the
Truss's firings, the Scribe, rings as events change them, and the Jointer's lanes (R145 to R147). -/

namespace Sys2Proof.Machine

open Sys2Proof

/-! ## Configurations -/

/-- The least c with 2^c at least n. -/
def ceilLog2 (n : Nat) : Nat := if n ≤ 1 then 0 else Nat.log2 (n - 1) + 1

/-- The opcode of a slot. -/
def State.opcAt (s : State) (rid blk slot : Nat) : Nat := slotOpc ((s.slot? rid blk slot).elim 0 (·.word))

/-- Whether a ring serves a node as an operand of a number of bytes (R154): configured, consumed by the node, a whole number of slots, and
enough of them. -/
def Cluster.feeds (k : Cluster) (ring blk slot bytes : Nat) (exact : Bool) : Bool :=
  match k.ring? ring with
  | some g => g.cons == (blk, slot) && (!exact || bytes % g.slotsz == 0) && decide (g.slotsFor bytes ≤ g.nslot)
  | none => false

/-- Whether a ring takes a node's results. -/
def Cluster.takes (k : Cluster) (ring blk slot bytes : Nat) (exact : Bool) : Bool :=
  match k.ring? ring with
  | some g => g.prod == some (blk, slot) && (!exact || bytes % g.slotsz == 0) && decide (g.slotsFor bytes ≤ g.nslot)
  | none => false

/-- Whether an MMA or MMAM configuration is MMA_CONFIG (R154). -/
def mmaBad (k : Cluster) (blk slot : Nat) (o : SlotOps) (t : Token) : Bool :=
  let h := mmaShape o t
  cfgF t 48 16 == 0 || decide (5 ≤ cfgF t 13 3) || (cfgF t 13 3 == 4 && h.ty != 8) ||
  !k.feeds (o.xf 24 5) blk slot h.abytes true || !k.feeds (o.xf 19 5) blk slot h.bbytes true ||
  !k.takes (o.xf 14 5) blk slot h.cbytes true || (o.x.getLsbD 8 && !k.feeds (o.xf 9 5) blk slot h.cbytes true)

/-- Whether a SCOUT configuration is MMA_CONFIG (R161, R413). -/
def scoutBad (k : Cluster) (blk slot : Nat) (o : SlotOps) (t : Token) : Bool :=
  let h := scoutShape o t
  cfgF t 48 16 == 0 || decide (8 < h.m / 2 ^ o.xf 15 3) || t.tag.iter % 2 ^ ceilLog2 (cfgF t 40 8 + 1) != 0 ||
  !k.feeds (o.xf 24 5) blk slot h.abytes true || !k.feeds (o.xf 19 5) blk slot h.bbytes true

/-- Whether a row instruction's configuration is MMA_CONFIG (R434). -/
def State.rowBad (s : State) (rid : Nat) (k : Cluster) (blk slot : Nat) (o : SlotOps) (t : Token) : Bool :=
  let p := rowShape (s.opcAt rid blk slot) o t
  let dm := s.opcAt rid blk slot == 0x8E && o.x.getLsbD 18
  let d := s.descAt rid blk (o.xf 0 10)
  cfgF t 48 16 == 0 || decide (p.sty < 8 ∧ s.opcAt rid blk slot = 0x8E) || ((p.ssc || p.dsc) && p.cols % 32 != 0) ||
  !k.feeds (o.xf 24 5) blk slot p.sbytes false ||
  (if dm then d.rows != p.rows || d.tc != p.cols || decide (d.units < cfgF t 48 16) else !k.takes (o.xf 19 5) blk slot p.dbytes false)

/-! ## When a node is ready (R158, R162, R166, R435, R451) -/

/-- Whether a ring's head holds n operands of a number of bytes. -/
def Cluster.holds (k : Cluster) (ring bytes n : Nat) : Bool :=
  match k.ring? ring with
  | some g => g.fullFrom 0 (n * g.slotsFor bytes)
  | none => false

/-- Whether a ring's producer holds the credits of a result. -/
def Cluster.hasRoom (k : Cluster) (ring bytes : Nat) : Bool :=
  match k.ring? ring with
  | some g => decide (g.slotsFor bytes ≤ g.credits)
  | none => false

/-- Whether a node's next firing may begin. -/
def State.nodeReady (s : State) (rid : Nat) (k : Cluster) (n : TNode) : Bool :=
  let o := s.opsAt rid n.blk n.slot
  let opc := s.opcAt rid n.blk n.slot
  if n.left = 0 then false
  else if opc = 0x88 ∨ opc = 0x89 then
    let h := mmaShape o n.cfg
    let times := if opc = 0x89 && sumMode n.cfg then n.js.length else 1
    (opc == 0x88 || !n.js.isEmpty) && k.holds (o.xf 24 5) h.abytes times && k.holds (o.xf 19 5) h.bbytes times &&
    (!o.x.getLsbD 8 || k.holds (o.xf 9 5) h.cbytes 1) && k.hasRoom (o.xf 14 5) h.cbytes
  else if opc = 0x8A then
    let h := scoutShape o n.cfg
    k.holds (o.xf 24 5) h.abytes 1 && k.holds (o.xf 19 5) h.bbytes 1
  else
    let p := rowShape opc o n.cfg
    k.holds (o.xf 24 5) p.sbytes 1 && ((opc == 0x8E && o.x.getLsbD 18) || k.hasRoom (o.xf 19 5) p.dbytes)

/-- Notes the time since which each node of a cluster is ready (R151); 0 while it is not. -/
def State.refreshNodes (s : State) (br : BentRef) (cX cY : Nat) : State :=
  s.updClus br cX cY (fun k => { k with nodes := k.nodes.map (fun n =>
    { n with readyAt := if s.nodeReady br.rid k n then (if n.readyAt = 0 then s.now + 1 else n.readyAt) else 0 }) })

/-- RING_SLOT_FULL: the last byte of the tail slot is written, and the slot is FULL (R67). -/
def execRingSlotFull (br : BentRef) (cX cY : Nat) (k : Nat) (s : State) : Host.Outcome State Fault Refusal :=
  match (s.clus? br cX cY).bind (·.ring? k) with
  | some g =>
    if g.written = 0 then .next s
    else .next ((s.updClus br cX cY (fun c => c.updRing k Ring.tailFull)).refreshNodes br cX cY)
  | none => .next s

/-- RING_FREED_SLOT_NOTICE: a notice returns a credit to the producer (R68). -/
def execRingFreedSlotNotice (br : BentRef) (cX cY : Nat) (k : Nat) (s : State) : Host.Outcome State Fault Refusal :=
  match (s.clus? br cX cY).bind (·.ring? k) with
  | some g =>
    if g.notices = 0 then .next s
    else .next ((s.updClus br cX cY (fun c =>
      c.updRing k (fun g => { g with notices := g.notices - 1, credits := g.credits + 1 }))).refreshNodes br cX cY)
  | none => .next s

/-! ## Configuring a node -/

/-- The node of a slot. -/
def Cluster.node? (k : Cluster) (blk slot : Nat) : Option TNode := k.nodes.find? (fun n => n.blk == blk && n.slot == slot)

/-- Changes the node of a slot. -/
def Cluster.updNode (k : Cluster) (blk slot : Nat) (f : TNode → TNode) : Cluster :=
  { k with nodes := updIf k.nodes (fun n => n.blk == blk && n.slot == slot) f }

/-- The cluster of a firing of a station. -/
def State.ctxClus (s : State) (c : Ctx) : Option Cluster := s.clus? c.br (clusterOf c.u).1 (clusterOf c.u).2

/-- Configures a tile node by its A token (R154): while firings are left the token waits; `bad` is MMA_CONFIG. -/
def State.configure (s : State) (o : SlotOps) (bad : Cluster → Ctx → Bool) (warn : Ctx → BitVec 30) : Host.Outcome State Fault Refusal :=
  s.runFiring o (fun c =>
    match s.ctxClus c with
    | none => .next s
    | some k =>
      if (k.node? c.blk c.slot).isSome then s.wait
      else if bad k c then .next (s.fault c { cause := .mmaConfig })
      else
        let xy := clusterOf c.u
        .next ((s.updClus c.br xy.1 xy.2 (fun k => { k with nodes := k.nodes ++
          [{ blk := c.blk, slot := c.slot, cfg := c.atok, left := cfgF c.atok 48 16, fire := 0, sub := 0, mask := none, js := [],
             readyAt := 0, warn := (prEff o).2 ||| (rndOf o.mod (s.rmodeOf c.br c.u)).2 ||| warn c }] })).refreshNodes c.br xy.1 xy.2))

/-- The warnings of an MMA or MMAM configuration (R153, R154). -/
def mmaWarn (o : SlotOps) (mam : Bool) (t : Token) : BitVec 30 :=
  (if o.ty.toNat < 8 then warnBit 17 else 0) ||| rsvx (o.xf 0 8 != 0) |||
  rsvc (cfgF t 17 31 != 0 || cfgF t 0 2 != 0 || (!mam && cfgF t 2 1 != 0) || (o.ty != 0xC && o.ty != 0xD && cfgF t 16 1 != 0))

/-- MMA: configures its node (R153 to R159, R375). -/
def execMma (o : SlotOps) (s : State) : Host.Outcome State Fault Refusal :=
  s.configure o (fun k c => mmaBad k c.blk c.slot o c.atok) (fun c => mmaWarn o false c.atok)

/-- Whether a mask is the oldest of those that wait for its slot, in rows, ready buffer or spill ring, frozen ones among them (R375). -/
def State.maskTurn (s : State) (c : Ctx) : Bool :=
  let toks := s.unitToks c.br c.u
  !(toks.1 ++ toks.2.flatMap Ready.toks ++ (s.bent? c.br).elim [] (·.spill)).any (fun w =>
    w.blk == c.blk && w.slot == c.slot && w.port == .b && c.b.elim false (fun b => w.at_ < b.at_))

/-- Sets in the engine word the WARN bits of a node's configuration, and those of its mask and operands, as the node emits (R294). -/
def State.raiseNode (s : State) (c : Ctx) (n : TNode) : State :=
  let now := (((s.ctxClus c).bind (·.node? n.blk n.slot)).map (·.mwarn)).getD 0
  s.raiseWarn c.br c.u (n.warn ||| now)

/-- A node ends one of its COUNT: after the last, the configuration token goes to T0 and the node is free (R154). -/
def State.countDown (s : State) (c : Ctx) (o : SlotOps) (n : TNode) : State :=
  let xy := clusterOf c.u
  if n.left ≤ 1 then
    (s.updClus c.br xy.1 xy.2 (fun k => { k with nodes := k.nodes.filter (fun x => !(x.blk == n.blk && x.slot == n.slot)) })).raiseWarn c.br c.u
      n.warn |>.emit c o.t0 n.cfg
  else s.updClus c.br xy.1 xy.2 (fun k => k.updNode n.blk n.slot (fun x =>
    { x with left := x.left - 1, fire := x.fire + 1, sub := 0, mask := none, js := [], mwarn := 0 }))

/-- MMAM: configures its node by A, and takes masks on B, one for each of COUNT (R166, R375, R451). -/
def execMmam (o : SlotOps) (s : State) : Host.Outcome State Fault Refusal :=
  match s.firing? with
  | none => .fault .notLatched
  | some c =>
    if c.b.isNone then s.configure o (fun k c => mmaBad k c.blk c.slot o c.atok) (fun c => mmaWarn o true c.atok)
    else
      match s.ctxClus c with
      | none => .next s
      | some k =>
        match k.node? c.blk c.slot with
        | none => s.wait
        | some n =>
          if n.mask.isSome || !s.maskTurn c then s.wait
          else if c.btok.shape = .null then .next ((s.emit c o.t1 (nullTok c.tag)).countDown c o n)
          else
            let m := maskSet c.btok
            let h := mmaShape o n.cfg
            let many := fun (ring bytes : Nat) => match k.ring? ring with
              | some g => decide (g.nslot < m.1.length * g.slotsFor bytes)
              | none => true
            if sumMode n.cfg && (many (o.xf 24 5) h.abytes || many (o.xf 19 5) h.bbytes) then .next (s.fault c { cause := .mmaConfig })
            else
              let xy := clusterOf c.u
              .next ((s.updClus c.br xy.1 xy.2 (fun k =>
                k.updNode c.blk c.slot (fun x => { x with mask := some c.btok, js := m.1, sub := 0, mwarn := m.2 }))).refreshNodes c.br xy.1 xy.2)

/-- SCOUT: configures its node (R160, R161, R413). -/
def execScout (o : SlotOps) (s : State) : Host.Outcome State Fault Refusal :=
  s.configure o (fun k c => scoutBad k c.blk c.slot o c.atok) (fun c =>
    (if scoutTy o = o.ty.toNat then 0 else warnBit 18) ||| rsvx (o.xf 0 15 != 0) |||
    rsvc (cfgF c.atok 14 26 != 0 || cfgF c.atok 0 3 != 0 || (o.ty != 0xC && cfgF c.atok 13 1 != 0)))

/-- The warnings of a row instruction's configuration (R432, R434). -/
def rowWarn (o : SlotOps) (tcvt : Bool) (t : Token) : BitVec 30 :=
  rsvx (tcvt && o.x.getLsbD 17 && o.ty != 0xC) |||
  rsvc (cfgF t 23 20 != 0 || cfgF t 0 8 != 0 || (!tcvt && cfgF t 44 4 != 0) ||
    (cfgF t 43 1 != 0 && !(tcvt && (cfgF t 44 4 == 0xC || cfgF t 44 4 == 0xD))))

/-- TCVT into a ring (R432 to R436). -/
def execTcvtRing (o : SlotOps) (s : State) : Host.Outcome State Fault Refusal :=
  s.configure o (fun k c => s.rowBad c.br.rid k c.blk c.slot o c.atok) (fun c => rowWarn o true c.atok)

/-- TCVT into memory through a descriptor (R432 to R437). -/
def execTcvtMem (o : SlotOps) (s : State) : Host.Outcome State Fault Refusal :=
  s.configure o (fun k c => s.rowBad c.br.rid k c.blk c.slot o c.atok) (fun c => rowWarn o true c.atok)

/-- TRED (R432 to R436). MOD counts for `.fadd` only. -/
def execTred (o : SlotOps) (s : State) : Host.Outcome State Fault Refusal :=
  s.configure (if o.xf 14 4 = 6 then o else { o with mod := 0 }) (fun k c => s.rowBad c.br.rid k c.blk c.slot o c.atok)
    (fun c => rowWarn o false c.atok)

/-- TFN (R432 to R436). -/
def execTfn (o : SlotOps) (s : State) : Host.Outcome State Fault Refusal :=
  s.configure o (fun k c => s.rowBad c.br.rid k c.blk c.slot o c.atok) (fun c => rowWarn o false c.atok)

/-- TTRN (R432 to R436). MOD is ignored. -/
def execTtrn (o : SlotOps) (s : State) : Host.Outcome State Fault Refusal :=
  s.configure { o with mod := 0 } (fun k c => s.rowBad c.br.rid k c.blk c.slot o c.atok) (fun c => rowWarn o false c.atok)

/-! ## RING and RROT -/

/-- Whether a slot is a tile-class slot of a station (R408). -/
def State.stationSlot (s : State) (br : BentRef) (u : UnitLoc) (blk slot : Nat) : Bool :=
  match s.block? br.rid blk with
  | some b => b.bent == br.bent && (match b.slots[slot]? with
    | some p => tileClass p.word && p.loc == u
    | none => false)
  | none => false

/-- RING: configures a ring and emits its A token (R69, R407, R408). -/
def execRing (o : SlotOps) (s : State) : Host.Outcome State Fault Refusal :=
  s.runFiring o (fun c =>
    match s.ctxClus c with
    | none => .next s
    | some k =>
      let n := o.xf 0 5
      let busy := match k.ring? n with
        | some g => g.states.any (· != SlotState.empty) || decide (g.credits < g.nslot)
        | none => false
      if busy then s.wait
      else
        let t := c.atok
        let sz := 256 * 2 ^ cfgF t 15 4
        let ns := cfgF t 19 6 + 1
        let base := 256 * cfgF t 0 13
        let own := fun b => if b = 0xFFF then c.blk else b
        let pk := cfgF t 25 1 == 1
        let cons := (own (cfgF t 45 12), cfgF t 57 7)
        let prod := (own (cfgF t 26 12), cfgF t 38 7)
        let bad := decide (8 < cfgF t 15 4) || base % sz != 0 || decide (2 ^ 21 < base + ns * sz) ||
          (!pk && (cfgF t 26 12 != 0 || cfgF t 38 7 != 0)) || (pk && !s.stationSlot c.br c.u prod.1 prod.2) ||
          !s.stationSlot c.br c.u cons.1 cons.2
        if bad then .next (s.fault c { cause := .mmaConfig })
        else
          let xy := clusterOf c.u
          let g : Ring := { k := n, base := base, slotsz := sz, nslot := ns, prod := if pk then some prod else none, cons := cons, head := 0,
                            tail := 0, states := List.replicate ns .empty, credits := ns, notices := 0, written := 0 }
          let s := s.warnAs c ((prEff o).2 ||| rsvx (o.xf 5 24 != 0) ||| rsvc (cfgF t 13 2 != 0))
          let s := s.updClus c.br xy.1 xy.2 (fun k => { k with rings := k.rings.filter (fun x => x.k != n) ++ [g] })
          .next ((s.refreshNodes c.br xy.1 xy.2).emit2 c o c.atok))

/-- The cycle of cluster-local indices that RROT follows (R70). -/
def rotCycle : List Nat := [0, 1, 2, 3, 7, 6, 5, 9, 10, 11, 15, 14, 13, 12, 8, 4]

/-- RROT: each scratchpad of the cluster passes a range to the next, all at once (R70, R409), once the range scoreboard has an entry free (R71). An
uncorrectable error in a range withholds its token (R186). -/
def execRrot (o : SlotOps) (s : State) : Host.Outcome State Fault Refusal :=
  s.runFiring o (fun c =>
    match s.ctxClus c, s.bent? c.br with
    | some k, some b =>
      let xy := clusterOf c.u
      let off := 32 * o.xf 0 9
      let sz := 32 * (o.xf 9 9 + 1)
      let at_ := fun i => spadGa (b.clusterCell xy.1 xy.2 i) off
      match (if s.ecc.isEmpty then none else rotCycle.findSome? (fun i => if s.eccIn (at_ i) sz then some (at_ i) else none)) with
      | some a => .next (s.fault c { cause := .eccUncorr, addr := a })
      | none =>
      if 16 ≤ k.score.length || k.score.any (fun e => rotCycle.any (fun i => overlaps e.lo e.len (at_ i) sz)) then s.wait
      else
        let old := rotCycle.map (fun i => s.readBytes (at_ i) sz)
        let back := o.mod.getLsbD 0
        let s := (List.range 16).foldl (fun t i =>
          t.writeBytes (at_ (rotCycle.getD i 0)) (old.getD ((if back then i + 1 else i + 15) % 16) [])) s
        .next ((s.warnAs c ((prEff o).2 ||| rsvx (o.xf 18 11 != 0 || o.mod.toNat / 2 != 0))).emit2 c o c.atok)
    | _, _ => .next s)

/-! ## The Scribe (R163 to R165, R414) -/

/-- The mask token of a completed key, null when every input was (R164, R165, R414). -/
def scribeTok (o : SlotOps) (param : Nat) (k : ScribeKey) : Token :=
  if k.scores.all (·.2.isNone) && (match k.force with
    | some (some _) => false
    | _ => true) then nullTok k.key
  else
    let get := fun j => (k.scores.find? (·.1 == j)).bind (·.2)
    let m := scribeMask o.mod.toNat param (o.xf 17 8) get ((k.force.bind id).getD 0)
    { pay := BitVec.ofNat 256 (bitmap m), tag := k.key, shape := .tileHead, seq := (m.filter id).length, body := [] }

/-- SCRB: takes one score or force mask; the last input of a key makes its mask (R164, R414). -/
def execScrb (o : SlotOps) (s : State) : Host.Outcome State Fault Refusal :=
  match s.firing? with
  | none => .fault .notLatched
  | some c =>
    match s.ctxClus c with
    | none => .next s
    | some k =>
      let j := c.tag.iter % 2 ^ o.xf 25 4
      let key := Tag.mk c.tag.ctx (c.tag.iter - j)
      let mine := fun (x : ScribeKey) => x.blk == c.blk && x.slot == c.slot && x.key == key
      let old := k.scribe.find? mine
      let row := old.getD { blk := c.blk, slot := c.slot, key := key, scores := [], force := none, warn := 0 }
      let val := fun (t : Token) => if t.shape = .null then none else some (t.plain.spread 9)
      if old.isNone && 4 ≤ k.scribe.length then s.wait
      else if c.a.isSome && (o.xf 17 8 < j || row.scores.any (·.1 == j)) then .next (s.fault c { cause := .scrbMember })
      else if c.a.isNone && row.force.isSome then s.wait
      else
        let row := if c.a.isSome then { row with scores := row.scores ++ [(j, val c.atok)] }
          else { row with force := some (if c.btok.shape = .null then none else some c.btok.pay) }
        let xy := clusterOf c.u
        let live := c.toks.all (·.shape != .null)
        let row := { row with warn := row.warn ||| (if live then (prEff o).2 ||| (if o.ty = 9 then 0 else warnBit 19) else 0) }
        let done := row.scores.length == o.xf 17 8 + 1 && (!o.x.getLsbD 16 || row.force.isSome)
        let s := s.updClus c.br xy.1 xy.2 (fun k =>
          { k with scribe := k.scribe.filter (fun x => !mine x) ++ (if done then [] else [row]) })
        if done then .next ((s.warnAs c row.warn).emit2 c o (scribeTok o ((s.constAt c (o.xf 0 16)).toNat % 2 ^ 32) row)) else .next s

/-! ## Firings of the Truss -/

/-- The node that goes next: of those ready, the one ready first, ties to the lower block and slot (R151). -/
def nextNode : List TNode → Option TNode
  | [] => none
  | n :: ns =>
    match nextNode ns with
    | none => if n.readyAt = 0 then none else some n
    | some m =>
      if n.readyAt = 0 then some m
      else if n.readyAt < m.readyAt ∨ (n.readyAt = m.readyAt ∧ n.blk * 128 + n.slot ≤ m.blk * 128 + m.slot) then some n
      else some m

/-- The ring that a node's results go to, and their bytes; none for SCOUT and for TCVT to memory. -/
def State.nodeOut (s : State) (rid : Nat) (n : TNode) : Option (Nat × Nat) :=
  let o := s.opsAt rid n.blk n.slot
  let opc := s.opcAt rid n.blk n.slot
  if opc = 0x88 ∨ opc = 0x89 then some (o.xf 14 5, (mmaShape o n.cfg).cbytes)
  else if opc = 0x8A ∨ (opc = 0x8E ∧ o.x.getLsbD 18) then none
  else some (o.xf 19 5, (rowShape opc o n.cfg).dbytes)

/-- Begins the next firing: it holds the Truss, resolves its rounding mode (R125) and spends the credits of its result (R68, R151). -/
def State.beginFiring (s : State) (br : BentRef) (cX cY : Nat) (n : TNode) : State :=
  let (id, s) := s.newId
  let o := s.opsAt br.rid n.blk n.slot
  let m := (rndOf o.mod (s.rmodeOf br (.station cX cY))).1
  s.updClus br cX cY (fun k =>
    let k := match s.nodeOut br.rid n with
      | some r => k.updRing r.1 (fun g => { g with credits := g.credits - g.slotsFor r.2 })
      | none => k
    { k with firing := some { id := id, blk := n.blk, slot := n.slot, grp := 0, kstep := 0, acc := 0, accs := [], flags := 0,
                              rnd := BitVec.ofNat 3 m.code, stopped := false } })

/-- Changes the firing that holds the Truss. -/
def State.updFiring (s : State) (br : BentRef) (cX cY : Nat) (f : Firing → Firing) : State :=
  s.updClus br cX cY (fun k => { k with firing := k.firing.map f })

/-- Puts the slots of a result into FILL, their credits being spent already (R67). -/
def Ring.fill (g : Ring) (n : Nat) : Ring :=
  { g.begin_ n with credits := g.credits }

/-- Writes bytes at an offset of the FILL slots of a result; a write repairs a unit that an error holds (R186). -/
def State.putRing (s : State) (b : Bent) (cX cY : Nat) (g : Ring) (slots off : Nat) (bs : List Byte) : State :=
  let at_ := fun (i : Nat) => g.ga (b.vault0 cX cY) (g.fillAt slots) (off + i)
  { s with
    mem := ((List.range bs.length).zip bs).foldl (fun m x => memPut m (at_ x.1) x.2) s.mem
    ecc := s.ecc.filter (fun u => !(List.range bs.length).any (fun i => at_ i / 32 == u)) }

/-- The rows of a block of an operand for one panel. -/
def State.blockRows (s : State) (b : Bent) (cX cY : Nat) (g : Ring) (slots : Nat) (h : TileShape) (rows t first n : Nat) : List (List FVal) :=
  (List.range n).map (fun r => (s.panelRow b cX cY g slots h.ty h.mx rows t (first + r)).1)

/-- The blocks of a group: four, or what is left (R157). -/
def groupSize (blocks grp : Nat) : Nat := Nat.min 4 (blocks - 4 * grp)

/-- The counters after an engine step, and whether the group ends with it (R157). -/
def Firing.advance (f : Firing) (blocks ksteps : Nat) : Firing × Bool :=
  if f.acc + 1 < groupSize blocks f.grp then ({ f with acc := f.acc + 1 }, false)
  else if f.kstep + 1 < ksteps then ({ f with acc := 0, kstep := f.kstep + 1 }, false)
  else ({ f with acc := 0, kstep := 0, grp := f.grp + 1 }, true)

/-- The initial accumulators of a block: those of RI, or +0 (R157). -/
def State.initAcc (s : State) (b : Bent) (cX cY : Nat) (k : Cluster) (o : SlotOps) (t : Token) (h : TileShape) (mb nb : Nat) : List Nat × BitVec 8 :=
  let sm := smOf h.ty
  let f := fmtOf (accTy h.ty)
  match o.x.getLsbD 8, k.ring? (o.xf 9 5) with
  | true, some g =>
    let w := laneBits (cfTy t) / 8
    let rs := (List.range sm).flatMap (fun r => (List.range 64).map (fun c =>
      let off := ((mb * sm + r) * h.n + nb * 64 + c) * w
      let code := natOfBytes (s.ringBytes b cX cY g 0 off w)
      if cfTy t = accTy h.ty then (code, (0 : BitVec 8))
      else
        let v := (fmtOf (cfTy t)).decode code
        let x := f.write .rne false v
        (x.1, x.2 ||| v.sigFlag)))
    (rs.map (·.1), orFlags (rs.map (·.2)))
  | _, _ => (List.replicate (sm * 64) 0, 0)

/-- Writes the accumulators of a group to their places in C (R157). A zero that goes to another format keeps its accumulator's sign: R116 gives the
sign of an exact zero result and R124 that of an exact value rounded, and the spec does not say which of them a conversion of C falls under (log 103). -/
def State.writeGroup (s : State) (b : Bent) (cX cY : Nat) (g : Ring) (t : Token) (h : TileShape) (mode : Rnd) (grp : Nat)
    (accs : List (List Nat)) : State × BitVec 8 :=
  let sm := smOf h.ty
  let slots := g.slotsFor h.cbytes
  let w := laneBits (cfTy t) / 8
  (List.range (groupSize (h.m / sm * (h.n / 64)) grp)).foldl (fun acc i =>
    let bi := 4 * grp + i
    let mb := bi / (h.n / 64)
    let nb := bi % (h.n / 64)
    (List.range sm).foldl (fun acc r =>
      let rs := (List.range 64).map (fun c =>
        let v := (accs.getD i []).getD (r * 64 + c) 0
        if cfTy t = accTy h.ty then (v, (0 : BitVec 8)) else (fmtOf (cfTy t)).write mode false ((fmtOf (accTy h.ty)).decode v))
      (acc.1.putRing b cX cY g slots (((mb * sm + r) * h.n + nb * 64) * w) (rs.flatMap (fun x => bytesOf w x.1)), acc.2 ||| orFlags (rs.map (·.2))))
      acc) (s, 0)

/-- One engine step of MMA or MMAM; with the last of a group, the group's write (R157, R166). In SUM mode R157 and R166 do not say what KSTEP and SUB
count: the model keeps SUB at 0 and lets KSTEP run through the panels of every kept tile; a record of a firing stopped there holds KSTEP's low six
bits (log 92). -/
def State.mmaStep (s : State) (br : BentRef) (b : Bent) (cX cY : Nat) (k : Cluster) (n : TNode) (f : Firing) : State :=
  let o := s.opsAt br.rid n.blk n.slot
  let h := mmaShape o n.cfg
  match k.ring? (o.xf 24 5), k.ring? (o.xf 19 5), k.ring? (o.xf 14 5) with
  | some ga, some gb, some gc =>
    let sm := smOf h.ty
    let blocks := h.m / sm * (h.n / 64)
    let bi := 4 * f.grp + f.acc
    let mb := bi / (h.n / 64)
    let nb := bi % (h.n / 64)
    let sum := s.opcAt br.rid n.blk n.slot == 0x89 && sumMode n.cfg
    let ksteps := h.panels * (if sum then n.js.length else 1)
    let i := f.kstep / h.panels
    let t := f.kstep % h.panels
    let init := if f.kstep = 0 then s.initAcc b cX cY k o n.cfg h mb nb else (f.accs.getD f.acc [], 0)
    let ra := s.blockRows b cX cY ga (i * ga.slotsFor h.abytes) h h.m t (mb * sm) sm
    let rb := s.blockRows b cX cY gb (i * gb.slotsFor h.bbytes) h h.n t (nb * 64) 64
    let r := engineStep (fmtOf (accTy h.ty)) ra rb init.1
    let accs := (f.accs ++ List.replicate (4 - f.accs.length) []).set f.acc r.1
    let f := { f with accs := accs, flags := f.flags ||| init.2 ||| r.2 }
    let nx := f.advance blocks ksteps
    let s := s.charge br.rid (0x1100 + h.ty)
    if nx.2 then
      let slots := gc.slotsFor h.cbytes
      let s := if f.grp = 0 then s.updClus br cX cY (fun k => k.updRing (o.xf 14 5) (·.fill slots)) else s
      let gc := ((s.clus? br cX cY).bind (·.ring? (o.xf 14 5))).getD gc
      let w := s.writeGroup b cX cY gc n.cfg h (rndCode f.rnd.toNat) f.grp accs
      w.1.updFiring br cX cY (fun _ => { nx.1 with accs := [], flags := nx.1.flags ||| w.2 })
    else s.updFiring br cX cY (fun _ => nx.1)
  | _, _, _ => s

/-- A row of a SCOUT operand in the scout format, padded to whole engine steps (R161, R162). -/
def State.scoutRows (s : State) (b : Bent) (cX cY : Nat) (g : Ring) (h : TileShape) (ox4 : Bool) (mode : Rnd) (d rows first : Nat) :
    List (List FVal × BitVec 8) :=
  (List.range 64).map (fun r =>
    let full := (List.range h.panels).flatMap (fun t => (s.panelRow b cX cY g 0 h.ty h.mx rows t (first + r)).1)
    let x := scoutRow ox4 mode (full.take d)
    let ke := if ox4 then 128 else 64
    (x.1 ++ List.replicate ((d + ke - 1) / ke * ke - d) (.fin { neg := false, m := 0, e := 0 }), x.2))

/-- One engine step of SCOUT. The fifth list of the accumulators holds the lanes of the groups done (R162). -/
def State.scoutStep (s : State) (br : BentRef) (b : Bent) (cX cY : Nat) (k : Cluster) (n : TNode) (f : Firing) : State :=
  let o := s.opsAt br.rid n.blk n.slot
  let h := scoutShape o n.cfg
  match k.ring? (o.xf 24 5), k.ring? (o.xf 19 5) with
  | some gq, some gk =>
    let ox4 := !o.x.getLsbD 18
    let ke := if ox4 then 128 else 64
    let d := 32 * (cfgF n.cfg 7 6 + 1)
    let blocks := h.m / 64 * (h.n / 64)
    let bi := 4 * f.grp + f.acc
    let mode := rndCode f.rnd.toNat
    let qs := s.scoutRows b cX cY gq h ox4 mode d h.m (bi / (h.n / 64) * 64)
    let ks := s.scoutRows b cX cY gk h ox4 mode d h.n (bi % (h.n / 64) * 64)
    let part := fun (l : List (List FVal × BitVec 8)) => l.map (fun r => (r.1.drop (f.kstep * ke)).take ke)
    let init := if f.kstep = 0 then List.replicate (64 * 64) 0 else f.accs.getD f.acc []
    let r := engineStep (fmtOf 9) (part qs) (part ks) init
    let lanes0 := f.accs.getD 4 (List.replicate 8 ((fmtOf 9).infCode + (fmtOf 9).signBit true))
    let accs := ((f.accs.take 4 ++ List.replicate (4 - f.accs.length) []) ++ [lanes0]).set f.acc r.1
    let f := { f with accs := accs, flags := f.flags ||| r.2 ||| orFlags (List.map (fun (x : List FVal × BitVec 8) => x.2) (qs ++ ks)) }
    let nx := f.advance blocks ((d + ke - 1) / ke)
    let rbl := o.xf 15 3
    let lanes := if nx.2 then
        (List.range (groupSize blocks f.grp)).foldl (fun (l : List Nat) i =>
          let row0 := (4 * f.grp + i) / (h.n / 64) * 64
          let acc := (accs.getD i []).map ((fmtOf 9).decode ·)
          (List.range 8).map (fun lane =>
            let vs := (List.range 64).flatMap (fun r =>
              if (row0 + r) / 2 ^ rbl = lane then (acc.drop (r * 64)).take 64 else [])
            if vs.isEmpty then l.getD lane 0 else ((fmtOf 9).write .rne false (maxOf ((fmtOf 9).decode (l.getD lane 0) :: vs))).1)) lanes0
      else lanes0
    (s.charge br.rid (0x1100 + (if ox4 then 0xF else 0xC))).updFiring br cX cY (fun _ => { nx.1 with accs := accs.set 4 lanes })
  | _, _ => s

/-! ## Row instructions -/

/-- A source tile decoded: its values by row, and the counts of its decode (R435). -/
def decodedTile (p : RowShape) (rows : List (List Nat × List Nat)) : List (List FVal) × Nat × Nat :=
  let rs := rows.map (fun r => decodeRow p.sty p.ssc r.1 r.2)
  (rs.map (·.1), (rs.map (·.2.1)).foldl (· + ·) 0, (rs.map (·.2.2)).foldl (· + ·) 0)

/-- What a firing of a row instruction writes, its flags, and the counts of its statistics token (R435). NANC counts an element whose result is a NaN,
and one of a scaled source that its decoder reads as one, once each (R120, R134): only a result in e2m1 with BS = 0 holds fewer NaNs than its source,
and it holds none. -/
def rowResult (opc : Nat) (o : SlotOps) (p : RowShape) (mode : Rnd) (src : List (List Nat × List Nat)) :
    List Byte × BitVec 8 × Counts :=
  let w := laneBits p.dty
  if opc = 0x8E then
    let d := decodedTile p src
    let rs := d.1.map (tcvtRow p.dty p.dsc (o.x.getLsbD 16) (o.x.getLsbD 17 && p.dty == 0xC) mode)
    (rs.flatMap (fun r => packCodes w r.1) ++ (if p.dsc then rs.flatMap (fun r => r.2.1.map (BitVec.ofNat 8 ·)) else []),
     orFlags (rs.map (fun r => r.2.2.1)),
     { nanc := Nat.max ((rs.map (fun r => r.2.2.2.1)).foldl (· + ·) 0) (if p.ssc then d.2.2 else 0), satc := (rs.map (fun r => r.2.2.2.2.1)).foldl (· + ·) 0,
       ufc := (rs.map (fun r => r.2.2.2.2.2)).foldl (· + ·) 0, badc := d.2.1, maxe := maxeOf d.1.flatten, tiles := 1 })
  else if opc = 0x8F then
    let op := o.xf 14 4
    let lists := if o.x.getLsbD 13 then (List.range p.cols).map (fun c => src.map (fun r => r.1.getD c 0)) else src.map (·.1)
    let rs := lists.map (canonLanes op p.dty mode)
    (packCodes w (rs.map (·.1)), orFlags (rs.map (·.2)), Counts.zero)
  else if opc = 0x90 then
    let rs := src.map (fun r => r.1.map (fun a => crLane (fnNamed (o.xf 14 4)) (fmtOf p.dty) mode a a))
    (rs.flatMap (fun r => packCodes w (r.map (·.1))), orFlags (rs.flatMap (fun r => r.map (·.2.1))), Counts.zero)
  else
    ((List.range p.cols).flatMap (fun c => packCodes w (src.map (fun r => r.1.getD c 0))), 0, Counts.zero)

/-- The lanes of a row of TFN that take the second phase (R144, R436). -/
def tfnSecond (o : SlotOps) (p : RowShape) (mode : Rnd) (row : List Nat) : Nat :=
  let rs := row.map (fun a => crLane (fnNamed (o.xf 14 4)) (fmtOf p.dty) mode a a)
  secondLanes (0x30 + o.xf 14 4) p.dty mode.code (row.zip row) rs

/-- The access of TCVT's writes to memory, through the cluster's Lahar port (R437). -/
def State.tcvtAccess (s : State) (br : BentRef) (b : Bent) (n : TNode) (f : Firing) (d : Desc) : Access :=
  let cell := match s.slot? br.rid n.blk n.slot with
    | some p => b.cell p.cx p.cy
    | none => b.cell 0 0
  { br := br, spad := cell, loc := d.loc, need := needWr, sh := d.sh, gens := [], tile := true, owner := f.id }

/-- The addresses that a firing of TCVT writes: its tile of the descriptor's walk, then its scales (R435). -/
def tcvtAddrs (n : TNode) (d : Desc) : List Nat := d.unitAddrs d.base n.fire ++ d.scaleAddrs n.fire

/-- The row of its tile that the unit a TCVT writes next begins in: its bytes stand row by row, then its scales do (R119, R434). -/
def State.tcvtRowAt (s : State) (rid : Nat) (n : TNode) (f : Firing) (d : Desc) : Nat :=
  let p := rowShape 0x8E (s.opsAt rid n.blk n.slot) n.cfg
  let addrs := tcvtAddrs n d
  let i := (placesIn addrs ((alignedUnits addrs).getD f.grp 0)).headD 0
  let rb := Nat.max 1 ((p.dcols * laneBits p.dty + 7) / 8)
  if i < p.drows * rb then i / rb else (i - p.drows * rb) / Nat.max 1 (p.dcols / 32)

/-- A fault of a TCVT's write stops its firing; the record's SUB is the row (R436, R437). -/
def State.tcvtStop (s : State) (br : BentRef) (cX cY : Nat) (n : TNode) (f : Firing) (d : Desc) (i : FaultInfo) : State :=
  (s.updFiring br cX cY (fun f => { f with stopped := true })).workFault br (.station cX cY) (UnitLoc.station cX cY).place n.blk n.slot
    n.cfg.tag f.id { i with wr := true, j := n.fire } (n.fire, s.tcvtRowAt br.rid n f d, 0, 0, 0)

/-- Begins a TCVT's write to memory: its whole tile is found, marked from its head, and entered in the range scoreboard (R71, R104). None while it
must wait. -/
def State.tcvtBegin (s : State) (br : BentRef) (b : Bent) (cX cY : Nat) (k : Cluster) (n : TNode) (f : Firing) (d : Desc) : Option State :=
  let x := s.tcvtAccess br b n f d
  match s.locateAll x k.laharWin (tcvtAddrs n d) with
  | (.error i, wins, t) => some ((t.setLahar br cX cY wins).tcvtStop br cX cY n f d i)
  | (.ok l, wins, t) =>
    if t.tileHeld x l then none
    else ((t.setLahar br cX cY wins).enterScore br f.id (b.scoreRanges (l.map (·.1)))).map (fun t =>
      { t with marks := t.marks ++ (runsOf (l.map (·.1))).map (fun r => ({ owner := f.id, write := true, lo := r.1, len := r.2 } : TileMark)) })

/-- Writes the next aligned 32-byte unit of a TCVT to memory, once its tile is marked (R71, R90, R103, R104, R437). None while it must wait. -/
def State.tcvtUnit (s : State) (br : BentRef) (b : Bent) (cX cY : Nat) (k : Cluster) (n : TNode) (f : Firing) (d : Desc)
    (bs : List Byte) : Option State :=
  let addrs := tcvtAddrs n d
  if d.sh && !d.loc && s.shWaits (s.vdOf br.rid) addrs then none
  else if !s.marks.any (·.owner == f.id) then s.tcvtBegin br b cX cY k n f d
  else
    let ps := placesIn addrs ((alignedUnits addrs).getD f.grp 0)
    match s.engineStore { s.tcvtAccess br b n f d with tile := false } k.laharWin (ps.map (fun i => addrs.getD i 0)) (ps.map (fun i => bs.getD i 0)) with
    | .waits => none
    | .bad i wins t => some ((t.setLahar br cX cY wins).tcvtStop br cX cY n f d i)
    | .ok _ wins t =>
      let t := ((t.setLahar br cX cY wins).updBent br (fun b => b.clearFrozen (.station cX cY) n.blk n.slot n.cfg.tag)).charge br.rid 0x1001
      some (t.updFiring br cX cY (fun f => { f with grp := f.grp + 1 }))

/-- The result of a row firing as it stands in its source ring. -/
def State.rowOut (s : State) (br : BentRef) (b : Bent) (cX cY : Nat) (k : Cluster) (n : TNode) (f : Firing) : List Byte × BitVec 8 × Counts :=
  let o := s.opsAt br.rid n.blk n.slot
  let opc := s.opcAt br.rid n.blk n.slot
  let p := rowShape opc o n.cfg
  match k.ring? (o.xf 24 5) with
  | some g => rowResult opc o p (rndCode f.rnd.toNat) (s.ringTile b cX cY g p.sty p.ssc p.rows p.cols)
  | none => ([], 0, Counts.zero)

/-- The lanes of a row of TFN that wait for the Jointer enter its queue as it has room, row-major, while TFN pauses (R146, R436); `grp` counts those
of the row that have. -/
def State.tfnRow (s : State) (br : BentRef) (cX cY : Nat) (k : Cluster) (n : TNode) (f : Firing) (ty second : Nat) : State :=
  let left := second - f.grp
  let m := Nat.min left (64 - jointerLanes k.jointer)
  if left = 0 then s.updFiring br cX cY (fun f => { f with kstep := f.kstep + 1, grp := 0 })
  else if m = 0 then s
  else
    let (id, s) := s.newId
    (s.updFiring br cX cY (fun f => { f with grp := f.grp + m })).updClus br cX cY (fun k => { k with jointer := k.jointer ++
      [{ id := id, cx := 4 * cX, cy := 4 * cY, blk := n.blk, slot := n.slot, out := nullTok n.cfg.tag, flags := flSPH, warn := 0,
         fastEnd := s.now + fastPath ty, queued := m, heldTo := [], tile := true }] })

/-- One row of a row instruction; after the rows, one unit of a TCVT to memory (R436, R437). -/
def State.rowStep (s : State) (br : BentRef) (b : Bent) (cX cY : Nat) (k : Cluster) (n : TNode) (f : Firing) : State :=
  let o := s.opsAt br.rid n.blk n.slot
  let opc := s.opcAt br.rid n.blk n.slot
  let p := rowShape opc o n.cfg
  if f.kstep < p.rows then
    let s := if f.grp = 0 then s.charge br.rid (0x1200 + opc) else s
    match opc == 0x90, k.ring? (o.xf 24 5) with
    | true, some g =>
      let row := ((s.ringTile b cX cY g p.sty p.ssc p.rows p.cols).getD f.kstep ([], [])).1
      s.tfnRow br cX cY k n f p.dty (tfnSecond o p (rndCode f.rnd.toNat) row)
    | _, _ => s.updFiring br cX cY (fun f => { f with kstep := f.kstep + 1 })
  else if opc = 0x8E && o.x.getLsbD 18 then
    let d := s.descAt br.rid n.blk (o.xf 0 10)
    if f.grp < (alignedUnits (tcvtAddrs n d)).length then (s.tcvtUnit br b cX cY k n f d (s.rowOut br b cX cY k n f).1).getD s else s
  else s

/-- The counters that a record of a firing carries (R157, R187): of a row instruction, SUB is its row (R436). -/
def Firing.counters (f : Firing) (opc : Nat) (n : TNode) : Nat × Nat × Nat × Nat × Nat :=
  if 0x8E ≤ opc then (n.fire, f.kstep, 0, 0, 0) else (n.fire, n.sub, f.grp, f.kstep, f.acc)

/-- The Truss withholds its firing's token: an uncorrectable error stands where it reads (R159, R186). -/
def State.trussEcc (s : State) (br : BentRef) (cX cY : Nat) (n : TNode) (f : Firing) (addr : Nat) : State :=
  (s.updFiring br cX cY (fun f => { f with stopped := true })).workFault br (.station cX cY) (UnitLoc.station cX cY).place f.blk f.slot n.cfg.tag f.id
    { cause := .eccUncorr, addr := addr } (f.counters (s.opcAt br.rid f.blk f.slot) n)

/-- What the next step of the firing that holds the Truss reads: each ring, a distance past its HEAD in slots, and a range of bytes (R156, R157, R162,
R435). -/
def State.stepReads (s : State) (rid : Nat) (k : Cluster) (n : TNode) (f : Firing) : List (Nat × Nat × Nat × Nat) :=
  let o := s.opsAt rid n.blk n.slot
  let opc := s.opcAt rid n.blk n.slot
  let slots := fun (ring bytes : Nat) => (k.ring? ring).elim 0 (·.slotsFor bytes)
  let bi := 4 * f.grp + f.acc
  if opc = 0x88 ∨ opc = 0x89 then
    let h := mmaShape o n.cfg
    let i := f.kstep / h.panels
    let t := f.kstep % h.panels
    let sm := smOf h.ty
    let mb := bi / (h.n / 64)
    let nb := bi % (h.n / 64)
    let w := laneBits (cfTy n.cfg) / 8
    (panelSpans h.ty h.mx h.m t (mb * sm) sm).map (fun r => (o.xf 24 5, i * slots (o.xf 24 5) h.abytes, r.1, r.2)) ++
    (panelSpans h.ty h.mx h.n t (nb * 64) 64).map (fun r => (o.xf 19 5, i * slots (o.xf 19 5) h.bbytes, r.1, r.2)) ++
    (if f.kstep = 0 && o.x.getLsbD 8 then (List.range sm).map (fun r => (o.xf 9 5, 0, ((mb * sm + r) * h.n + nb * 64) * w, 64 * w)) else [])
  else if opc = 0x8A then
    let h := scoutShape o n.cfg
    (List.range h.panels).flatMap (fun t =>
      (panelSpans h.ty h.mx h.m t (bi / (h.n / 64) * 64) 64).map (fun r => (o.xf 24 5, 0, r.1, r.2)) ++
      (panelSpans h.ty h.mx h.n t (bi % (h.n / 64) * 64) 64).map (fun r => (o.xf 19 5, 0, r.1, r.2)))
  else
    let p := rowShape opc o n.cfg
    let rb := (p.cols * laneBits p.sty + 7) / 8
    if p.rows ≤ f.kstep then []
    else (o.xf 24 5, 0, f.kstep * rb, rb) :: (if p.ssc then [(o.xf 24 5, 0, p.rows * rb + f.kstep * (p.cols / 32), p.cols / 32)] else [])

/-- The first bad byte that the next step of a firing reads (R186). -/
def State.stepEcc (s : State) (rid : Nat) (b : Bent) (cX cY : Nat) (k : Cluster) (n : TNode) (f : Firing) : Option Nat :=
  if s.ecc.isEmpty then none
  else (s.stepReads rid k n f).findSome? (fun r => (k.ring? r.1).bind (fun g => s.ringEcc b cX cY g r.2.1 r.2.2))

/-- Whether the firing that holds a Truss stands inside a row of TFN, some of its lanes being with the Jointer: a drain completes the row (R436). -/
def State.midRow (s : State) (rid : Nat) (k : Cluster) : Bool :=
  k.firing.elim false (fun f => s.opcAt rid f.blk f.slot == 0x90 && f.grp != 0)

/-- Whether a bent is sealed by a drain while its raising has not been saved (R230). -/
def State.draining (s : State) (br : BentRef) : Bool :=
  match s.raising? br.rid with
  | some r => (r.state == .running || (r.state == .drained && !s.away br.rid)) && (r.bents[br.bent]?).elim false (·.isSealed)
  | none => false

/-- TRUSS_FIRING_BEGIN: the Truss begins the firing that goes next, or does the next step of the firing that holds it (R151, R156 to R158). -/
def execTrussFiringBegin (br : BentRef) (cX cY : Nat) (s : State) : Host.Outcome State Fault Refusal :=
  if !s.unitRuns br (.station cX cY) && !(s.draining br && (s.clus? br cX cY).elim false (s.midRow br.rid)) then .next s
  else
    let s := s.refreshNodes br cX cY
    match s.bent? br, s.clus? br cX cY with
    | some b, some k =>
      match k.firing with
      | none => match nextNode k.nodes with
        | some n => .next (s.beginFiring br cX cY n)
        | none => .next s
      | some f =>
        match k.node? f.blk f.slot with
        | none => .next s
        | some n =>
          if f.stopped then .next s
          else
            let opc := s.opcAt br.rid f.blk f.slot
            let o := s.opsAt br.rid f.blk f.slot
            match s.stepEcc br.rid b cX cY k n f with
            | some a => .next (s.trussEcc br cX cY n f a)
            | none =>
            if opc = 0x88 ∨ opc = 0x89 then
              let h := mmaShape o n.cfg
              if f.grp * 4 < h.m / smOf h.ty * (h.n / 64) then .next (s.mmaStep br b cX cY k n f) else .next s
            else if opc = 0x8A then
              let h := scoutShape o n.cfg
              if f.grp * 4 < h.m / 64 * (h.n / 64) then .next (s.scoutStep br b cX cY k n f) else .next s
            else .next (s.rowStep br b cX cY k n f)
    | _, _ => .next s

/-- Pops the operand of a number of bytes from a ring (R67, R158). -/
def State.popRing (s : State) (br : BentRef) (cX cY ring bytes times : Nat) : State :=
  s.updClus br cX cY (fun k => k.updRing ring (fun g => g.pop (times * g.slotsFor bytes)))

/-- The slots of a result become FULL (R158). -/
def Ring.fullSlots (g : Ring) : Nat → Ring
  | 0 => g
  | n + 1 => Ring.fullSlots g.tailFull n

/-- The statistics token of an operand decoder (R134, R135): for MX and OX4 tiles only. A misplaced OX4 marker sets OX4MARK in the engine word as the
node emits (R120, R294, R295). -/
def State.operandStat (s : State) (br : BentRef) (b : Bent) (cX cY : Nat) (g : Ring) (n : TNode) (h : TileShape) (slots rows : Nat) : State :=
  if !panelScaled h.ty h.mx then s
  else
    let rs := (List.range h.panels).flatMap (fun t => (List.range rows).map (fun r => s.panelRow b cX cY g slots h.ty h.mx rows t r))
    let bad : Nat := (rs.map (·.2.1)).foldl (· + ·) 0
    (s.updClus br cX cY (fun k => k.updNode n.blk n.slot (fun x => { x with mwarn := x.mwarn ||| (if bad = 0 then 0 else warnBit 26) }))).converterStat
      br.rid n.blk n.slot n.cfg.tag
      { nanc := (rs.map (·.2.2)).foldl (· + ·) 0, satc := 0, ufc := 0, badc := bad,
        maxe := maxeOf (rs.flatMap (·.1)), tiles := 1 }

/-- The firing index on T1 (R154): a scalar under the configuration token's tag with iteration advanced by it. -/
def firingTok (n : TNode) : Token := scalarTok (Tag.mk n.cfg.tag.ctx ((n.cfg.tag.iter + n.fire) % 4096)) n.fire

/-- The end of an MMA or MMAM firing (R158, R166). -/
def State.retireMma (s : State) (br : BentRef) (b : Bent) (cX cY : Nat) (k : Cluster) (c : Ctx) (o : SlotOps) (n : TNode) (mam : Bool) : State :=
  let h := mmaShape o n.cfg
  match k.ring? (o.xf 24 5), k.ring? (o.xf 19 5), k.ring? (o.xf 14 5) with
  | some ga, some gb, some gc =>
    let sum := mam && sumMode n.cfg
    let times := if sum then n.js.length else 1
    let last := !mam || sum || n.js.length ≤ 1
    let s := (List.range times).foldl (fun s i => s.operandStat br b cX cY gb n h (i * gb.slotsFor h.bbytes) h.n) s
    let s := if last then (List.range times).foldl (fun s i => s.operandStat br b cX cY ga n h (i * ga.slotsFor h.abytes) h.m) s else s
    let s := if last then s.popRing br cX cY (o.xf 24 5) h.abytes times else s
    let s := s.popRing br cX cY (o.xf 19 5) h.bbytes times
    let s := if o.x.getLsbD 8 then s.popRing br cX cY (o.xf 9 5) h.cbytes 1 else s
    let s := s.updClus br cX cY (fun k => k.updRing (o.xf 14 5) (·.fullSlots (gc.slotsFor h.cbytes)))
    if !mam then ((s.raiseNode c n).emit c o.t1 (firingTok n)).countDown c o n
    else if last then
      let m := n.mask.getD (nullTok n.cfg.tag)
      ((s.raiseNode c n).emit c o.t1 (scalarTok m.tag (maskSet m).1.length)).countDown c o n
    else s.updClus br cX cY (fun k => k.updNode n.blk n.slot (fun x => { x with js := x.js.tail, sub := x.sub + 1 }))
  | _, _, _ => s

/-- The end of a SCOUT firing (R162, R413). -/
def State.retireScout (s : State) (br : BentRef) (b : Bent) (cX cY : Nat) (k : Cluster) (c : Ctx) (o : SlotOps) (n : TNode) (f : Firing) : State :=
  let h := scoutShape o n.cfg
  match k.ring? (o.xf 24 5), k.ring? (o.xf 19 5) with
  | some gq, some gk =>
    let nt1 := cfgF n.cfg 40 8
    let tag := Tag.mk n.cfg.tag.ctx ((n.cfg.tag.iter + n.fire * 2 ^ ceilLog2 (nt1 + 1) + n.sub) % 4096)
    let s := s.operandStat br b cX cY gk n h 0 h.n
    let s := if n.sub < nt1 then s else s.operandStat br b cX cY gq n h 0 h.m
    let s := (s.raiseNode c n).emit c o.t0 (vectorTok tag (BitVec.ofNat 256 (packLanes 32 (f.accs.getD 4 []))))
    let s := s.popRing br cX cY (o.xf 19 5) h.bbytes 1
    if n.sub < nt1 then s.updClus br cX cY (fun k => k.updNode n.blk n.slot (fun x => { x with sub := x.sub + 1, mwarn := 0 }))
    else (s.popRing br cX cY (o.xf 24 5) h.abytes 1).countDown c { o with t0 := o.t1 } n
  | _, _ => s

/-- The end of a row instruction's firing (R435). -/
def State.retireRow (s : State) (br : BentRef) (b : Bent) (cX cY : Nat) (k : Cluster) (c : Ctx) (o : SlotOps) (n : TNode) (f : Firing) : State :=
  let opc := s.opcAt br.rid n.blk n.slot
  let p := rowShape opc o n.cfg
  let r := s.rowOut br b cX cY k n f
  let s := if opc = 0x8E && o.x.getLsbD 18 then ({ s with marks := s.marks.filter (·.owner != f.id) } : State).unscore br f.id
    else
      match k.ring? (o.xf 19 5) with
      | some gc =>
        let slots := gc.slotsFor p.dbytes
        let s := s.updClus br cX cY (fun k => k.updRing (o.xf 19 5) (·.fill slots))
        let gc := ((s.clus? br cX cY).bind (·.ring? (o.xf 19 5))).getD gc
        let s := s.putRing b cX cY gc slots 0 (r.1 ++ List.replicate (slots * gc.slotsz - r.1.length) 0)
        s.updClus br cX cY (fun k => k.updRing (o.xf 19 5) (·.fullSlots slots))
      | none => s
  let s := (s.raiseFlags br c.u r.2.1).popRing br cX cY (o.xf 24 5) p.sbytes 1
  let s := if opc = 0x8E then (s.raiseWarn br c.u (if r.2.2.badc = 0 then 0 else warnBit 26)).converterStat br.rid n.blk n.slot n.cfg.tag r.2.2 else s
  ((s.raiseNode c n).emit c o.t1 (firingTok n)).countDown c o n

/-- TRUSS_FIRING_RETIRE: a firing whose steps are done retires and releases the Truss (R151, R152, R158, R162, R166, R435). -/
def execTrussFiringRetire (br : BentRef) (cX cY : Nat) (s : State) : Host.Outcome State Fault Refusal :=
  if !s.bentLive br then .next s else
  match s.bent? br, s.clus? br cX cY with
  | some b, some k =>
    match k.firing with
    | none => .next s
    | some f =>
      match k.node? f.blk f.slot with
      | none => .next (s.updClus br cX cY (fun k => { k with firing := none }))
      | some n =>
        let o := s.opsAt br.rid f.blk f.slot
        let opc := s.opcAt br.rid f.blk f.slot
        let c : Ctx := { br := br, u := .station cX cY, blk := f.blk, slot := f.slot, tag := n.cfg.tag, a := none, b := none, p := none }
        let h := if opc = 0x8A then scoutShape o n.cfg else mmaShape o n.cfg
        let p := rowShape opc o n.cfg
        let done := if opc = 0x88 ∨ opc = 0x89 then decide (h.m / smOf h.ty * (h.n / 64) ≤ 4 * f.grp)
          else if opc = 0x8A then decide (h.m / 64 * (h.n / 64) ≤ 4 * f.grp)
          else decide (p.rows ≤ f.kstep) && !k.jointer.any (·.tile) &&
            !(opc == 0x8E && o.x.getLsbD 18 && decide (f.grp < (alignedUnits (tcvtAddrs n (s.descAt br.rid n.blk (o.xf 0 10)))).length))
        if f.stopped || !done then .next s
        else
          let s := (s.raiseFlags br c.u f.flags).updClus br cX cY (fun k =>
            ({ k with firing := none } : Cluster).updNode f.blk f.slot (fun x => { x with readyAt := 0 }))
          let s := if opc = 0x88 ∨ opc = 0x89 then s.retireMma br b cX cY k c o n (opc == 0x89)
            else if opc = 0x8A then s.retireScout br b cX cY k c o n f
            else s.retireRow br b cX cY k c o n f
          .next (s.refreshNodes br cX cY)
  | _, _ => .next s

/-! ## The Jointer (R144 to R147) -/

/-- The second-phase latency of a token's lanes (R144). -/
def State.jointerLat (s : State) (rid : Nat) (j : JTok) : Nat :=
  let o := s.opsAt rid j.blk j.slot
  if o.ty ≠ 8 then 48 else if s.opcAt rid j.blk j.slot = 0x3F then 220 else 140

/-- The order in which waiting tokens enter a Jointer: by the end of their fast paths, those of a tile after those of elements, then by the
cluster-local element index, then as they fired (R70, R145, R436). -/
def JTok.before (i j : JTok) : Bool :=
  let key := fun (x : JTok) => [x.fastEnd, if x.tile then 1 else 0, x.cy % 4 * 4 + x.cx % 4, x.id]
  (key i).lt (key j)

/-- The waiting token whose lane enters next, of those whose fast paths have ended. -/
def nextEntry (now : Nat) (l : List JTok) : Option JTok :=
  (l.filter (fun j => j.queued != 0 && !j.frozen && j.fastEnd ≤ now)).foldl (fun best j => match best with
    | some i => if j.before i then some j else some i
    | none => some j) none

/-- JOINTER_LANE_ENTRY: the first waiting lane enters, no earlier than the end of its token's fast path and 8 cycles after the previous entry
(R145). A sealed bent's tokens do not enter (R147); the lanes of TFN's row in progress do (R436). -/
def execJointerLaneEntry (br : BentRef) (cX cY : Nat) (s : State) : Host.Outcome State Fault Refusal :=
  if !s.bentLive br && !s.draining br then .next s else
  match s.clus? br cX cY with
  | some k =>
    if k.jlast != 0 && s.now < k.jlast + 8 then .next s
    else
      match nextEntry s.now (if s.bentLive br then k.jointer else k.jointer.filter (·.tile)) with
      | none => .next s
      | some j =>
        let fin := s.now + s.jointerLat br.rid j
        .next (s.updClus br cX cY (fun k => { k with
          jlast := s.now
          jointer := updIf k.jointer (·.id == j.id) (fun j => { j with queued := j.queued - 1, heldTo := j.heldTo ++ [fin] }) }))
  | none => .next s

/-- JOINTER_LANE_RESULT: the lane that ends first has its result; with the last of its token, the token emits and SPH is set (R145). -/
def execJointerLaneResult (br : BentRef) (cX cY : Nat) (s : State) : Host.Outcome State Fault Refusal :=
  match s.clus? br cX cY with
  | none => .next s
  | some k =>
    match k.jointer.find? (fun j => !j.frozen && j.heldTo.any (fun t => k.jointer.all (fun i => i.frozen || i.heldTo.all (t ≤ ·)))) with
    | none => .next s
    | some j =>
      if s.now < j.heldTo.headD 0 then .next s
      else if j.queued = 0 && j.heldTo.length ≤ 1 then
        let u : UnitLoc := if j.tile then .station cX cY else .elem j.cx j.cy
        let c : Ctx := { br := br, u := u, blk := j.blk, slot := j.slot, tag := j.out.tag, a := none, b := none, p := none }
        let s := (s.updClus br cX cY (fun k => { k with jointer := k.jointer.filter (·.id != j.id) })).raiseFlags br u j.flags
        let s := s.raiseWarn br u j.warn
        .next (if j.tile then s else s.emit2 c (s.opsAt br.rid j.blk j.slot) j.out)
      else .next (s.updClus br cX cY (fun k => { k with
        jointer := updIf k.jointer (·.id == j.id) (fun j => { j with heldTo := j.heldTo.tail }) }))

end Sys2Proof.Machine
end

