-- ==== Sys2Proof/Machine/SchedOps.lean ====
section
/-! DEFINITION. Rounds and slots (R226 to R233), cluster images (R231, R232), admission (R219, R237, R238), the end of a phase (R353, R354,
R385, R429), QSAVE and QREST (R394), checkpoints (R268) and teardown (R214, R241). -/

namespace Sys2Proof.Machine

open Sys2Proof

/-! ## Moving a bent (R191, R232) -/

/-- Where a bent stands. -/
def Bent.origin (b : Bent) : Origin := { pkg := b.pkg, x := b.x0, y := b.y0 }

/-- The cluster that a cluster of a bent becomes when the bent moves to an origin. -/
def Bent.movedClu (b : Bent) (o : Origin) (c : Clu) : Clu := { pkg := o.pkg, X := c.X - b.x0 / 4 + o.x / 4, Y := c.Y - b.y0 / 4 + o.y / 4 }

/-- Where the image of a home address stands once clusters have moved, each to its pair, all at once. -/
def movedGa (pairs : List (Clu × Clu)) (ga : Nat) : Nat := (pairs.findSome? (fun p => (p.1.imageOff ga).bind p.2.imageGa)).getD ga

/-- Moves a bent to another origin: its entry in the table of origins, its displacement and its grant mask. In another package what its units had translated
with the entries of the old one no longer holds, and its accesses go to the new one (R169, R171, R191). -/
def State.moveBent (s : State) (br : BentRef) (o : Origin) : State :=
  let away := (s.bent? br).elim false (·.pkg != o.pkg)
  let s := s.updBent br (fun b =>
    { b with
      pkg := o.pkg
      vdx := b.vdx + (Int.ofNat (o.x / 4) - Int.ofNat (b.x0 / 4))
      vdy := b.vdy + (Int.ofNat (o.y / 4) - Int.ofNat (b.y0 / 4))
      x0 := o.x
      y0 := o.y
      grant := b.claims.map (fun c => ({ pkg := o.pkg, X := o.x / 4 + c.1, Y := o.y / 4 + c.2 } : Clu).vault) })
  if away then
    { s.updBent br (fun b => { b with
        elems := b.elems.map (fun e => { e with pwin := e.pwin.map (fun _ => none), own := [] })
        clus := b.clus.map (fun k => { k with laharWin := [] }) }) with
      reqs := updIf s.reqs (fun r => r.br == br && !r.kind.remote) (fun r => { r with target := o.pkg }) }
  else s

/-- The clusters of a raising's bents. -/
def Raising.clusters (r : Raising) : List Clu := r.bents.flatMap Bent.clusters

/-- The index of a cluster in its partition's list. -/
def State.cluIdx (s : State) (part : Nat) (c : Clu) : Nat := (s.part? part).elim 0 (fun p => p.lay.clusters.idxOf c)

/-- The image index of a cluster of a held phase of a queue (R394): after those of the slots. -/
def State.heldIdx (s : State) (part q : Nat) (c : Clu) : Nat :=
  (s.part? part).elim 0 (fun p => p.lay.clusters.length * (1 + q)) + s.cluIdx part c

/-- Whether a request stands at its home only because it follows work of its own virtual device that a seal stops: earlier accesses and streams of its AG
(R91), writes to a shadow (R102) or readers of an older generation (R103). Its access is held back, as a stream's later elements are (R230). -/
def State.heldBack (s : State) (r : Req) : Bool :=
  r.stage == .home && (match r.kind with
    | .publ => (s.homePubl r).isNone
    | .late sh => sh && s.shWaits r.vdr [r.va]
    | .gath => s.orderBehind r.br r.cx r.cy r.id false false (s.gathAddrs r) []
    | _ => s.behind r || s.streamOrder r.br r.cx r.cy r.id r.kind.isWrite r.loc (fun a => r.va ≤ a && a < r.va + r.size))

/-- Whether an access that a raising has issued is settled: performed, deferred, parked, on its way back, held back, or an installation that only its
acknowledgements hold. A posted store is not waited for (R214). -/
def State.settledReq (s : State) (r : Req) : Bool :=
  r.kind == .rstp || r.kind == .agrp || r.stage == .deferred || r.stage == .parked || r.stage == .toIssuer || r.stage == .reply || r.stage == .frozen ||
  s.heldBack r

/-- Whether a member of an MCRED or MCST is settled: performed, absent, parked, or held back by readers of an older generation (R103, R211, R369). -/
def State.settledMember (s : State) (m : McOp) (rank : Nat) : Bool :=
  match m.members.getD rank .absent with
  | .waiting => false
  | .arrived => s.parked.any (fun k => k.req == m.id && k.rank == some rank) ||
      (m.data.isSome && (s.mcOps m).x.getLsbD 8 && ((s.opGroup m).bind (fun g => g.members[rank]?)).elim false (fun x =>
        s.shWaits (s.vdOf m.br.rid) [(x.va + m.off) % 2 ^ 55]))
  | _ => true

/-- Whether every access that a raising has issued is settled (R230, R353): its requests, the members of its MCREDs and MCSTs, and the units of its copies
between dies. -/
def State.settledAll (s : State) (rid : Nat) : Bool :=
  s.reqs.all (fun r => r.br.rid != rid || s.settledReq r) &&
  s.mcops.all (fun m => m.br.rid != rid || m.frozen || (List.range m.members.length).all (s.settledMember m)) &&
  s.bulks.all (fun b => b.done || b.lost || (match b.owner with
    | .copy br _ _ _ => br.rid != rid
    | .qcopy _ _ _ => true))

/-- Whether a Jointer and the Truss of a sealed cluster have come to rest: no lane is held, and no row of TFN is in progress, unless an error withholds it
or a fault stops the firing (R147, R186, R436). A fast path in progress ends (R145). -/
def State.clusRests (s : State) (rid : Nat) (k : Cluster) : Bool :=
  k.jointer.all (fun j => j.frozen || (j.heldTo.isEmpty && j.fastEnd ≤ s.now && (!j.tile || j.queued == 0))) &&
  (!s.midRow rid k || k.firing.elim true (·.stopped))

/-- Whether a raising has come to rest, so that its bents can be saved (R147, R230): its accesses are settled, no token of it is on its way through the
fabric or stands in a link, unless its bent is frozen for want of spill space (R38), and its shared units rest. -/
def State.atRest (s : State) (rid : Nat) : Bool :=
  s.settledAll rid && s.allMsgs.all (fun m => !m.forRaising rid) &&
  (s.raising? rid).elim true (fun r => r.bents.all (fun b =>
    (b.frozen || (b.elems.all (·.link.isEmpty) && b.clus.all (·.link.isEmpty))) && b.clus.all (s.clusRests rid)))

/-! ## The end of a phase (R385) -/

/-- Whether the Truss and the rings of a cluster have nothing under way: no firing, none that its operands and credits let begin, and no
ring slot or credit notice on its way (log 31). -/
def State.clusQuiet (s : State) (rid : Nat) (k : Cluster) : Bool :=
  k.firing.isNone && k.rings.all (fun g => g.written == 0 && g.notices == 0) && k.nodes.all (fun n => !s.nodeReady rid k n)

/-- Whether a request that outlives its firing holds the completion of a phase still: the late write of a member of an MCST, homed in one of the phase's
packages; a posted remote store does not (R96). -/
def Raising.holdsLate (r : Raising) (q : Req) : Bool :=
  match q.kind with
  | .late _ => r.bents.any (·.pkg == q.target)
  | _ => false

/-- Whether nothing of a raising is in progress, but for what R385 lets stand. -/
def State.quiet (s : State) (r : Raising) : Bool :=
  r.brks.isEmpty && r.halts.isEmpty &&
  r.bents.all (fun b => b.tags.isEmpty && b.clus.all (s.clusQuiet r.rid) && b.elems.all (fun e => e.scat.all (·.batch.isEmpty)) &&
    b.timelines.all (fun t => t.win.isEmpty && t.waiting.isEmpty && t.redeliver.isNone)) &&
  s.reqs.all (fun q => q.br.rid != r.rid || (q.kind.detached && !r.holdsLate q) || (q.stage == .deferred && q.kind != .trap)) &&
  s.fences.all (·.br.rid != r.rid) && s.mcops.all (·.br.rid != r.rid) && s.groupSets.all (fun g => g.br.rid != r.rid || g.installed) &&
  s.allMsgs.all (fun m => !m.forRaising r.rid) && s.parts.all (fun p => p.catch_.all (·.rid != r.rid))

/-- The STAD slots of a raising that hold a remainder. -/
def Raising.remainders (r : Raising) : List (BentRef × Nat × Nat × StatRow) :=
  (List.range r.bents.length).flatMap (fun i => match r.bents[i]? with
    | some b => b.elems.flatMap (fun e => (e.stats.filter (fun x => 0 < x.count &&
        slotOpc (((r.blocks[x.blk]?).bind (·.slots[x.slot]?)).elim 0 (·.word)) == 0xAC)).map (fun x => ({ rid := r.rid, bent := i }, e.cx, e.cy, x)))
    | none => [])

/-- The OR of a raising's FLAGS words (R131). -/
def Raising.allFlags (r : Raising) : BitVec 8 :=
  r.bents.foldl (fun f b => b.elems.foldl (fun f e => f ||| e.flags) (f ||| b.engFlags)) 0

/-- Forwards the remainder of every STAD of a raising (R422). -/
def State.flushStads (s : State) (r : Raising) : State :=
  (List.range r.bents.length).foldl (fun s i => s.stadFlush { rid := r.rid, bent := i }) s

/-- A forced drain: remainders are forwarded, and every bent is sealed and stops (R230, R422). -/
def State.drainRaising (s : State) (r : Raising) : State := (s.flushStads r).sealRaising r.rid

/-- A waiting token with its destination. -/
def WaitTok.left (w : WaitTok) (br : BentRef) : CatchEntry :=
  { rid := br.rid, dest := { bent := br.bent, blk := w.blk, slot := w.slot, port := w.port }, tok := w.tok }

/-- The tokens of a bent that stand in its region: in rows, stations, ready buffers and links (R235). -/
def Bent.tokensLeft (b : Bent) : List WaitTok :=
  b.elems.flatMap (fun e => e.rows ++ e.link.map (·.2) ++ e.ready.flatMap Ready.toks) ++
  b.clus.flatMap (fun k => k.rows ++ k.link.map (·.2) ++ k.ready.flatMap Ready.toks)

/-- Notes what a raising leaves in its regions when it is lost with tokens there or on their way: the loader sweeps them when it takes a region again,
and reports them then (R235). -/
def State.noteStrays (s : State) (rid : Nat) : State :=
  match s.raising? rid with
  | some r =>
    (List.range r.bents.length).foldl (fun s i => match r.bents[i]? with
      | some b =>
        let br : BentRef := { rid := rid, bent := i }
        if r.state == .held || (b.tokensLeft.isEmpty && !s.allMsgs.any (·.forBent rid i)) then s
        else s.updPart r.vdr.part (fun p =>
          { p with strays := p.strays ++ [{ vdr := r.vdr, br := br, clusters := b.clusters, toks := b.tokensLeft.map (·.left br) }] })
      | none => s) s
  | none => s

/-- Whether a message is of a token that a region expects still, whose bent has been lost (R235). -/
def State.expected (s : State) (m : Msg) : Bool := s.parts.any (fun p => p.strays.any (fun x => m.forBent x.br.rid x.br.bent))

/-- Takes a raising out of the state: what it held is discarded, its Auger ranges and its tokens in the fabric with it (R353, R385), but for those that a
region it is lost from still expects (R235); its posted stores and its fault records stand (R214). -/
def State.dropRaising (s : State) (rid : Nat) : State :=
  let mine := fun (r : Req) => r.br.rid == rid && !r.kind.detached
  let gone := (s.reqs.filter mine).map (·.id)
  let ofCopy := fun (b : Bulk) => match b.owner with
    | .copy br _ _ _ => br.rid == rid
    | .qcopy _ _ _ => false
  { s with
    fqueues := s.fqueues.map (fun q => { q with msgs := q.msgs.filter (fun m => !m.forRaising rid || s.expected m) })
    bulks := s.bulks.filter (fun b => !ofCopy b)
    raisings := s.raisings.filter (·.rid != rid)
    reqs := s.reqs.filter (fun r => !mine r)
    deferred := s.deferred.filter (fun d => !gone.contains d.req)
    fences := s.fences.filter (·.br.rid != rid)
    mcops := s.mcops.filter (·.br.rid != rid)
    groupSets := s.groupSets.filter (·.br.rid != rid)
    groups := s.groups.filter (·.owner.rid != rid)
    posts := s.posts.filter (·.br.rid != rid)
    parked := s.parked.filter (fun k => !gone.contains k.req)
    parts := s.parts.map (fun p => { p with catch_ := p.catch_.filter (·.rid != rid) })
    vdevs := s.vdevs.map (fun d => { d with
      ranges := d.ranges.filter (·.rid != rid)
      ingress := { d.ingress with binding := d.ingress.binding.map (fun b => if b.rid = some rid then { b with ended := true } else b) } }) }

/-- The energy of a phase at its end (R238): the unused part of its reservation goes back, the excess to its queue's next one. -/
def State.settleEnergy (s : State) (x : Queue) (resv used : Nat) : State :=
  let u := used / 2 ^ 20
  (s.updVdev x.vdr (fun d => { d with energy := d.energy + Int.ofNat (resv - u) })).updQueue x.vdr x.q
    (fun y => { y with excess := u - resv })

/-- A raising's phase ends: its report, its energy, its queue (R385, R386). -/
def State.endRaising (s : State) (r : Raising) (rep : PhaseReport) (stop : Bool) : State :=
  let s := s.dropRaising r.rid
  match s.queue? r.vdr r.queue with
  | some x =>
    let s := s.settleEnergy x r.resv r.used
    match s.queue? r.vdr r.queue with
    | some x => s.endPhase { x with report := some rep, endCode := rep.code.getD x.endCode } stop
    | none => s
  | none => s

/-- PHASE_COMPLETE: a quiet raising's phase completes (R96, R385); a STAD with a remainder forwards it first (R422). -/
def execPhaseComplete (s : State) : Host.Outcome State Fault Refusal :=
  match s.cur with
  | .event (.num rid) =>
    match s.raising? rid with
    | some r =>
      if r.state != .running || r.brkStop || r.bents.any (·.isSealed) || !s.quiet r then .next s
      else if !r.remainders.isEmpty then .next (s.flushStads r)
      else .next (s.endRaising r { flags := r.allFlags, code := none, bent := 0, blk := 0, slot := 0 } false)
    | none => .next s
  | _ => .next s

/-! ## HALT (R353, R354) -/

/-- Whether one HALT was received before another. -/
def HaltReq.before (a b : HaltReq) : Bool :=
  a.at_ < b.at_ || (a.at_ == b.at_ && (a.bent < b.bent || (a.bent == b.bent && (a.blk < b.blk || (a.blk == b.blk && a.slot < b.slot)))))

/-- The HALT that decides. -/
def firstHalt : List HaltReq → Option HaltReq
  | [] => none
  | h :: hs => match firstHalt hs with
    | some g => if g.before h then some g else some h
    | none => some h

/-- A HALT ends its raising once the accesses it has issued are performed; until then the raising is sealed. -/
def State.applyHalt (s : State) (rid : Nat) : State :=
  match s.raising? rid with
  | some r =>
    match firstHalt r.halts with
    | some h =>
      let s := s.sealRaising rid
      if s.settledAll rid then s.endRaising r { flags := r.allFlags, code := some h.code, bent := h.bent, blk := h.blk, slot := h.slot } h.stop
      else s
    | none => s
  | none => s

/-- HUB_HALT: the hub applies the HALT of a running raising. -/
def execHubHalt (s : State) : Host.Outcome State Fault Refusal :=
  match s.cur with
  | .event (.num rid) =>
    match s.raising? rid with
    | some r => .next (if r.state == .running then s.applyHalt rid else s)
    | none => .next s
  | _ => .next s

/-- KILN_END_RAISING: Kiln ends a raising as a HALT with STOP = 1 and CODE 0xFFFF (R385). -/
def execKilnEndRaising (s : State) : Host.Outcome State Fault Refusal :=
  match s.cur with
  | .event (.num rid) =>
    let h : HaltReq := { code := 0xFFFF, stop := true, bent := 0, blk := 0, slot := 0, at_ := s.now }
    let s := s.updRaising rid (fun r => { r with halts := r.halts ++ [h] })
    match s.raising? rid with
    | some r => .next (if r.state == .running then s.applyHalt rid else s)
    | none => .next s
  | _ => .next s

/-! ## Admission (R219, R237, R238, R386, R387, R393, R394) -/

/-- Whether a queue in ADMIT stands before another (R219). -/
def Queue.before (a b : Queue) : Bool :=
  b.prio < a.prio || (a.prio == b.prio && (a.admitAt < b.admitAt || (a.admitAt == b.admitAt && a.q < b.q)))

/-- The first of a list of queues in the order of R219. -/
def firstQueue : List Queue → Option Queue
  | [] => none
  | x :: xs => match firstQueue xs with
    | some y => if y.before x then some y else some x
    | none => some x

/-- Whether another phase of the virtual device runs: a raising that is not held, or a copy (R238, R394). -/
def State.otherRuns (s : State) (v : VdRef) : Bool :=
  (s.raisingsOf v).any (·.state != .held) ||
  s.queues.any (fun x => x.vdr == v && x.state == .run && (match x.work with
    | some (.copy _ _ _ _ _ _ _ _) => true
    | _ => false))

/-- What a partition's envelope allows one slot, in µJ: watts times Q + G cycles of 4 GHz (R16, R237). -/
def Partition.envelopeEnergy (p : Partition) : Nat := p.lay.envelope * (p.q + p.g) / 4000

/-- The allotment of a virtual device: EALLOT, and no more than the envelope allows, which the management processor lowers with heat (R237, R270;
log 94). -/
def State.allotment (s : State) (d : Vdev) : Nat := (s.part? d.vdr.part).elim 0 (fun p => Nat.min d.ealot p.envelopeEnergy)

/-- Whether a reservation can be admitted (R237, R238, R270): it fits the counter, and the allotment too where an envelope has been lowered below
EALLOT. -/
def State.energyOk (s : State) (d : Vdev) (e : Nat) (atStart : Bool) : Bool :=
  let allot := s.allotment d
  (Int.ofNat e ≤ d.energy && (allot == d.ealot || e ≤ allot)) || (e == 0 && allot == 0) || (allot < e && atStart && !s.otherRuns d.vdr)

/-- Takes a reservation from the counter and puts the queue into RUN. -/
def State.admitted (s : State) (x : Queue) (e : Nat) : State :=
  (s.updVdev x.vdr (fun d => { d with energy := d.energy - Int.ofNat e })).putQueue
    { x with state := .run, pendResv := none, excess := 0, resv := e, used := 0 }

/-- The raising of a queue's phase. -/
def State.queueRaising (s : State) (v : VdRef) (q : Nat) : Option Raising := s.raisings.find? (fun r => r.vdr == v && r.queue == q)

/-- QSAVE: saves the phase of a queue in RUN, which is drained, and frees its clusters (R394). -/
def State.holdPhase (s : State) (d : Vdev) (q : Nat) : State :=
  match s.queueRaising d.vdr q with
  | some r =>
    if r.state != .running then s
    else
      let s := r.clusters.foldl (fun s c => s.saveCluster d c (s.heldIdx d.vdr.part q c) (q + 1)) s
      s.updRaising r.rid (fun r => { r with state := .held })
  | none => s

/-- Places the bents of a held phase again, each within its package (R221, R232, R394). -/
def State.rePlace (s : State) (img : Image) : Nat → List Bent → List Clu → Option (List Origin)
  | _, [], _ => some []
  | n, b :: bs, free =>
    let d : BentDecl := { w := b.w, h := b.h, pool := b.pool.length, claims := b.claims, roles := b.roles }
    match (originsOf [b.pkg]).find? (s.qualifies img n d free) with
    | some o => (s.rePlace img (n + 1) bs (free.filter (fun c => !(clusOf o b.w b.h).contains c))).map (o :: ·)
    | none => none

/-- An image whose blocks are those of a raising, each slot pinned where it stands. -/
def Raising.asImage (r : Raising) : Image :=
  { id := r.image, bents := [], rings := [], datas := [], queues := [], stats := r.stats, rowreq := 0, spillsz := spillDefault,
    blocks := r.blocks.map (fun b =>
      { ordered := b.ordered, timeline := b.timeline, entry := b.entry, bent := b.bent, stmask := b.stmask, wrmask := b.wrmask,
        nexit := b.nexit, nread := b.nread, words := b.slots.map (·.word), places := b.slots.map (fun p => some (p.cx, p.cy)),
        fans := b.fans, descs := b.descs, consts := b.consts }) }

/-- Each cluster of a raising's bents with the one it becomes at the bents' new origins. -/
def Raising.moves (r : Raising) (os : List Origin) : List (Clu × Clu) :=
  (List.range r.bents.length).flatMap (fun i => match r.bents[i]?, os[i]? with
    | some b, some o => b.clusters.map (fun c => (c, b.movedClu o c))
    | _, _ => [])

/-- Restores a raising's images to its bents' new origins; the addresses it holds move with them, all at once (R113, R232). -/
def State.bringBack (s : State) (d : Vdev) (r : Raising) (os : List Origin) (idx : Clu → Nat) (held : Nat) : State :=
  let pairs := r.moves os
  let s := pairs.foldl (fun s p => s.restoreCluster d p.1 p.2 (idx p.1) held) s
  let s := s.remapRaising r.rid (movedGa pairs)
  (List.range r.bents.length).foldl (fun s i => match os[i]? with
    | some o => s.moveBent { rid := r.rid, bent := i } o
    | none => s) s

/-- QREST: places a held phase, restores it and lets it run, unless a BRK has stopped it (R316, R394); a HALT saved with it takes effect at once (R354). None
while it cannot be placed. -/
def State.unholdPhase (s : State) (d : Vdev) (q : Nat) : Option State :=
  match s.queueRaising d.vdr q, s.part? d.vdr.part with
  | some r, some p =>
    if r.state != .held then some s
    else
      let free := p.lay.clusters.filter (fun c => !(s.occupied d.vdr).contains c)
      match s.rePlace r.asImage 0 r.bents free with
      | some os =>
        let s := s.bringBack d r os (fun c => s.heldIdx d.vdr.part q c) (q + 1)
        let s := s.updRaising r.rid (fun r => { r with state := .running })
        some (if !r.halts.isEmpty then s.applyHalt r.rid else if r.brkStop then s else s.unsealRaising r.rid)
      | none => none
  | _, _ => some s

/-- Asks for the images of every launch in ADMIT that are not resident (R245). -/
def State.askAll (s : State) (v : VdRef) : State :=
  s.queues.foldl (fun s x => match x.state, x.work with
    | .admitting, some (.launch id va _) => if x.vdr = v then s.askImage v id va (some x.q) none false else s
    | _, _ => s) s

/-- Admits one queue's phase, where that can be done now. A QSAVE first drains the phase it names, and holds it once the accesses of that phase
are settled (R230, R394). -/
def State.admitQueue (s : State) (d : Vdev) (x : Queue) (atStart : Bool) : Option State :=
  let e := x.pendResv.getD x.defResv + x.excess
  match x.work with
  | some (.launch id _ arg) =>
    match d.images.find? (·.id == id) with
    | some img =>
      if s.energyOk d e atStart then
        match s.findPlace d img with
        | some (os, cs) =>
          let s := s.admitted { x with rid := some s.nextRid } e
          some (s.placeRaising d x.q img os cs ((BitVec.ofNat 55 arg).signExtend 64) e)
        | none => none
      else none
    | none => none
  | some (.copy src dst len sh _ _ _ _) =>
    if s.energyOk d e atStart then
      let (id, s) := s.newId
      let s := s.admitted { x with work := some (.copy src dst len sh 0 false id (s.gensOfRange x.vdr src len)) } e
      some (if len = 0 then (match s.queue? x.vdr x.q with
        | some y => (s.settleEnergy y e 0).endPhase { y with excess := 0 } false
        | none => s) else s)
    else none
  | some (.load id va rep) =>
    if d.images.any (·.id == id) && !s.reportable x rep then none
    else
    let s := s.putQueue { x with state := .run }
    if d.images.any (·.id == id) then
      some (s.endLoad { x with state := .run } rep { vdr := d.vdr, id := id, code := 0, section_ := 0, blk := 0, slot := 0, opc := 0, off := 0 })
    else some (s.askImage d.vdr id va (some x.q) (some rep) false)
  | some (.save q) =>
    match (if q = x.q then none else (s.queueRaising d.vdr q).filter (·.state == .running)) with
    | some r =>
      if !(r.bents.all (·.isSealed)) || !r.remainders.isEmpty then some (s.drainRaising r)
      else if s.atRest r.rid then some ((s.holdPhase d q).endPhase { x with state := .run } false)
      else none
    | none => some (s.endPhase { x with state := .run } false)
  | some (.rest q) => (s.unholdPhase d q).map (fun s => s.endPhase { x with state := .run } false)
  | _ => none

/-- Whether every package of a partition admits phases: none is too hot, or without power (R270). -/
def State.admits (s : State) (part : Nat) : Bool :=
  (s.part? part).elim false (fun p => p.lay.pkgs.all (fun q => (s.plat? q).elim false (fun x => x.power && !x.admitStop)))

/-- Admits the launch that stands first among a virtual device's (R219). -/
def State.admitOne (s : State) (v : VdRef) (atStart : Bool) : Option State :=
  match s.vdev? v with
  | some d =>
    if !(s.admits v.part) then none
    else match firstQueue (s.queues.filter (fun x => x.vdr == v && x.state == .admitting)) with
      | some x => s.admitQueue d x atStart
      | none => none
  | none => none

/-- LAUNCH_ADMIT: in the quantum of its slot, a virtual device's first launch in ADMIT is admitted when it can be (R219, R227, R238). -/
def execLaunchAdmit (s : State) : Host.Outcome State Fault Refusal :=
  match s.cur with
  | .event (.vdev v) =>
    if s.inSlot v then
      let s := s.askAll v
      .next ((s.admitOne v false).getD s)
    else .next s
  | _ => .next s

/-! ## Rounds (R226 to R229) -/

/-- The virtual device of a partition's slot, in ascending VDID. -/
def State.slotVd (s : State) (p : Partition) : Option Vdev := (s.vdevs.filter (·.vdr.part == p.lay.part))[p.slot]?

/-- The event's partition. -/
def State.eventPart (s : State) : Option Partition :=
  match s.cur with
  | .event (.num n) => s.part? n
  | _ => none

/-- QUANTUM_END: the sequencers stop admitting; running phases have the grace window (R227). -/
def execQuantumEnd (s : State) : Host.Outcome State Fault Refusal :=
  match s.eventPart with
  | some p =>
    .next (if p.phase == .quantum && p.slotStart + p.q ≤ s.now then s.updPart p.lay.part (fun p => { p with phase := .grace }) else s)
  | none => .next s

/-- GRACE_WINDOW_END: every phase still running is drained: its bents are sealed and stop (R227, R230). -/
def execGraceWindowEnd (s : State) : Host.Outcome State Fault Refusal :=
  match s.eventPart with
  | some p =>
    if p.phase == .grace && p.slotStart + p.q + p.w ≤ s.now then
      match s.slotVd p with
      | some d =>
        let s := ((s.raisingsOf d.vdr).filter (·.state == .running)).foldl (fun s r =>
          (s.drainRaising r).updRaising r.rid (fun r => { r with state := .drained })) s
        .next ((s.updPart p.lay.part (fun p => { p with phase := .guard })).updVdev d.vdr (fun d => { d with savedClus := [] }))
      | none => .next (s.updPart p.lay.part (fun p => { p with phase := .guard }))
    else .next s
  | none => .next s

/-- CLUSTER_IMAGE_SAVE_DONE: the image of one cluster that the drained virtual device holds is saved, once the accesses its raising has
issued are settled (R230, R231). -/
def execClusterImageSaveDone (part : Nat) (c : Clu) (s : State) : Host.Outcome State Fault Refusal :=
  match s.part? part with
  | some p =>
    match s.slotVd p with
    | some d =>
      if p.phase == .guard && (s.occupied d.vdr).contains c && !d.savedClus.any (·.1 == c) &&
          (s.raisingsOf d.vdr).all (fun r => !r.clusters.contains c || s.atRest r.rid) then
        let i := s.cluIdx part c
        .next ((s.saveCluster d c i 0).updVdev d.vdr (fun d => { d with savedClus := d.savedClus ++ [(c, i)] }))
      else .next s
    | none => .next s
  | none => .next s

/-- Whether every image that the virtual device of a partition's slot leaves is saved (R227). -/
def State.slotSaved (s : State) (p : Partition) : Bool :=
  match s.slotVd p with
  | some d => (s.occupied d.vdr).all (fun c => d.savedClus.any (·.1 == c))
  | none => true

/-- Whether Kiln may move a bent to an origin: the region qualifies for it, and a bent goes to another package only when none of its remote requests is
outstanding (R22, R191, R232). -/
def State.mayMove (s : State) (p : Partition) (r : Raising) (i : Nat) (b : Bent) (o : Origin) : Bool :=
  let bd : BentDecl := { w := b.w, h := b.h, pool := b.pool.length, claims := b.claims, roles := b.roles }
  s.qualifies r.asImage i bd p.lay.clusters o &&
  (o.pkg == b.pkg || (s.reqs.all (fun q => q.br != { rid := r.rid, bent := i } || !q.kind.remote || q.stage == .frozen) &&
    s.mcops.all (fun m => m.br != { rid := r.rid, bent := i })))

/-- Where a raising's bents are restored: where Kiln moves those it may move, and else where they last were. -/
def State.origins (s : State) (p : Partition) (moves : List (BentRef × Origin)) (r : Raising) : List Origin :=
  (List.range r.bents.length).filterMap (fun i => (r.bents[i]?).map (fun b =>
    match moves.find? (fun m => m.1 == ({ rid := r.rid, bent := i } : BentRef)) with
    | some m => if s.mayMove p r i b m.2 then m.2 else b.origin
    | none => b.origin))

/-- The origins of raisings that are restored together: with Kiln's moves when the regions of all their bents are disjoint then, and else without (R220,
R232). -/
def State.restoreTo (s : State) (p : Partition) (moves : List (BentRef × Origin)) (rs : List Raising) : List (Raising × List Origin) :=
  let plan := rs.map (fun r => (r, s.origins p moves r))
  let cs := plan.flatMap (fun x => (x.1.moves x.2).map (·.2))
  if cs.eraseDups.length == cs.length then plan else rs.map (fun r => (r, r.bents.map Bent.origin))

/-- CLUSTER_RESTORE: when every image of the outgoing virtual device is saved, the next slot's images are written back, its bents moved where
Kiln says, and clusters it does not hold are cleared (R227, R232). -/
def execClusterRestore (part : Nat) (moves : List (BentRef × Origin)) (s : State) : Host.Outcome State Fault Refusal :=
  match s.part? part with
  | some p =>
    let n := Nat.max 1 (s.vdevs.filter (·.vdr.part == part)).length
    if p.phase == .guard && s.slotSaved p && !p.suspended then
      let next := (p.slot + 1) % n
      let p2 := { p with slot := next, slotStart := p.slotStart + p.q + p.g, round := p.round + (if next = 0 then 1 else 0), phase := .saved }
      let s := s.updPart part (fun _ => p2)
      let s := p.lay.clusters.foldl (fun s c => s.clearCluster c) s
      match s.slotVd p2 with
      | some d =>
        .next ((s.restoreTo p moves ((s.raisingsOf d.vdr).filter (·.state == .drained))).foldl
          (fun s x => s.bringBack d x.1 x.2 (fun c => s.cluIdx part c) 0) s)
      | none => .next s
    else .next s
  | none => .next s

/-- Admits launches one after another while the first of them can be (R227). -/
def State.admitMany (s : State) (v : VdRef) : Nat → State
  | 0 => s
  | n + 1 => match s.admitOne v true with
    | some t => t.admitMany v n
    | none => s

/-- SLOT_START: the energy counter is updated, the restored phases resume with their pending HALTs applied, and launches are admitted, in
this order (R227, R237, R354). -/
def execSlotStart (s : State) : Host.Outcome State Fault Refusal :=
  match s.eventPart with
  | some p =>
    if p.phase == .saved && p.slotStart ≤ s.now && !p.suspended then
      let s := s.updPart p.lay.part (fun p => { p with phase := .quantum, qtOff := 0 })
      match s.slotVd p with
      | some d =>
        let s := s.updVdev d.vdr (fun d => { d with energy := min (d.energy + Int.ofNat (s.allotment d)) (Int.ofNat (s.allotment d)) })
        let mine := (s.raisingsOf d.vdr).filter (·.state == .drained)
        let s := mine.foldl (fun s r =>
          let s := s.updRaising r.rid (fun r => { r with state := .running })
          if !r.halts.isEmpty then s.applyHalt r.rid
          else if r.brkStop then s
          else s.unsealRaising r.rid) s
        .next ((s.askAll d.vdr).admitMany d.vdr 64)
      | none => .next s
    else .next s
  | none => .next s

/-! ## Checkpoints and teardown (R108, R214, R241, R268) -/

/-- The rounds of a suspended partition resume, every slot from the next one on shifted by the same amount (R268). -/
def Partition.resumed (p : Partition) (now : Nat) : Partition :=
  if p.suspended then
    { p with suspended := false, slotStart := if p.phase == .guard then Nat.max p.slotStart (now - (p.q + p.g)) else Nat.max p.slotStart now }
  else p

/-- The bytes that a checkpoint takes on a package: a header of 64 bytes, then 64 KiB for each frame, then its tables. -/
def checkpointSize (frames tails : List (Pkg × Nat)) (p : Pkg) : Nat :=
  64 + 0x10000 * (frames.filter (·.1 == p)).length + ((tails.find? (·.1 == p)).map (·.2)).getD 0

/-- The frames of a package. -/
def framesOf (frames : List (Pkg × Nat)) (p : Pkg) : List Nat := (frames.filter (·.1 == p)).map (·.2)

/-- Whether a range of a package's Sinter store can take a checkpoint: it lies in the store and in the partition's quota of it, and meets no checkpoint that
stands there, since one is overwritten only after a newer has committed elsewhere, or after it has been drained to host storage (R222, R268). -/
def State.checkpointFits (s : State) (p : Partition) (frames tails : List (Pkg × Nat)) (base : Nat) (pkg : Pkg) : Bool :=
  let n := checkpointSize frames tails pkg
  n ≤ (p.share pkg).sinter && base % 32 == 0 && s.physOk pkg base && regionOf base == .sinter && s.physOk pkg (base + n - 1) &&
  regionOf (base + n - 1) == .sinter &&
  s.checkpoints.all (fun c => c.drained || !c.pkgs.contains pkg || base + n ≤ c.base || c.base + checkpointSize c.frames c.tails pkg ≤ base)

/-- The home address in a package's checkpoint of a byte of one of its frames. -/
def checkpointGa (frames : List (Pkg × Nat)) (base : Nat) (ga : Nat) : Option Nat :=
  let p := gaPkg ga
  let fs := framesOf frames p
  let f := gaPhys ga / 0x10000
  if fs.contains f then some (gaOf p (base + 64 + fs.idxOf f * 0x10000 + gaPhys ga % 0x10000)) else none

/-- A queue in a checkpoint: where its program stands, its pointer, state, reservations and timers (log 98). -/
def Queue.table (x : Queue) : List Nat :=
  [x.vdr.vd, x.q, x.sequencer, x.qbase, x.qptr, (match x.state with
    | .ready => 0
    | .exec => 1
    | .wait => 2
    | .admitting => 3
    | .run => 4
    | .stopped => 5), x.prio, x.admitAt, x.defResv, x.excess, x.resv, x.used] ++ optOf (fun n => [n]) x.pendResv ++ optOf pairOf x.sig ++
  seqOf (fun t => [t.tid, t.due, t.sem]) x.timers

/-- What a package copies into its Sinter store behind the frames: the semaphores, queue tables and Auger ranges of the virtual devices that its hub
serves, the catch buffer's tokens for its bents, and their spill areas (R268; log 98). -/
def State.checkpointTail (s : State) (p : Partition) (pkg : Pkg) : List Byte :=
  let vs := s.vdevs.filter (fun d => d.vdr.part == p.lay.part && d.home == pkg)
  let bs := (s.raisings.filter (·.vdr.part == p.lay.part)).flatMap (fun r => (List.range r.bents.length).filterMap (fun i => (r.bents[i]?).bind (fun b =>
    if b.pkg = pkg then some (({ rid := r.rid, bent := i } : BentRef), b) else none)))
  (seqOf (fun (d : Vdev) => d.vdr.vd ::
      seqOf (fun c => [c.n - d.semBase, c.val.toNat]) (s.sems.filter (fun c => c.pkg == pkg && d.semBase ≤ c.n && c.n < d.semBase + d.semCount)) ++
      seqOf Queue.table (s.queues.filter (·.vdr == d.vdr)) ++ seqOf (fun r => [r.rng, r.rid, r.n, r.wid, r.next]) d.ranges) vs ++
    seqOf (fun e => e.rid :: e.dest.image ++ e.tok.image) (p.catch_.filter (fun e => bs.any (fun b => b.1.rid == e.rid && b.1.bent == e.dest.bent))) ++
    seqOf (fun (b : BentRef × Bent) => [b.1.rid, b.1.bent] ++ seqOf WaitTok.image b.2.spill) bs).flatMap (bytesOf 8)

/-- A package copies the partition's frames into its Sinter store, each unit under the key it was last written under, and its tables behind them (R266,
R268). -/
def State.copyFrames (s : State) (part : Partition) (frames tails : List (Pkg × Nat)) (base : Nat) (pkg : Pkg) : State :=
  let lo := gaOf pkg base
  let hi := lo + checkpointSize frames tails pkg
  let mine := fun (ga : Nat) => if gaPkg ga == pkg then checkpointGa frames base ga else none
  let cells := s.mem.filterMap (fun c => (mine c.1).map (fun a => (a, c.2)))
  let keys := s.enc.filterMap (fun e => (mine (32 * e.unit)).map (fun a => ({ unit := a / 32, key := e.key } : EncUnit)))
  let t : State := { s with
    mem := memCanon (cells ++ s.mem.filter (fun c => c.1 < lo || hi ≤ c.1))
    enc := keys ++ s.enc.filter (fun e => 32 * e.unit < lo || hi ≤ 32 * e.unit)
    ecc := s.ecc.filter (fun u => 32 * u < lo || hi ≤ 32 * u) }
  t.writeBytes (lo + 64 + 0x10000 * (framesOf frames pkg).length) (s.checkpointTail part pkg)

/-- The header of a checkpoint (log 98). -/
def checkpointHeader (part now frames : Nat) : List Byte := bytesOf 8 part ++ bytesOf 8 now ++ bytesOf 8 frames ++ List.replicate 40 0

/-- Whether a partition can be checkpointed: its rounds not started, or suspended at the end of a slot; every virtual device of it drained and saved, and its
posted counters at zero (R268). -/
def State.canCheckpoint (s : State) (p : Partition) : Bool :=
  (p.phase == .idle || (p.suspended && (p.phase == .guard || p.phase == .saved))) && (p.phase != .guard || s.slotSaved p) &&
  (s.raisings.filter (·.vdr.part == p.lay.part)).all (·.state != .running) &&
  (s.vdevs.filter (·.vdr.part == p.lay.part)).all (·.posted == 0)

/-- What a partition's checkpoint holds beside its bytes. -/
def State.checkpointOf (s : State) (p : Partition) (k : CheckpointPlan) : Checkpoint :=
  let vs := s.vdevs.filter (·.vdr.part == p.lay.part)
  { part := p.lay.part, at_ := s.now, pkgs := p.lay.pkgs, base := k.base, frames := k.frames, tails := k.tails, drained := false,
    presence := s.presence.filter (fun w => (checkpointGa k.frames k.base (8 * w)).isSome),
    sems := s.sems.filter (fun c => p.lay.pkgs.contains c.pkg && vs.any (fun d => d.home == c.pkg && d.semBase ≤ c.n && c.n < d.semBase + d.semCount)),
    queues := s.queues.filter (·.vdr.part == p.lay.part), ranges := vs.map (fun d => (d.vdr, d.ranges)),
    raisings := s.raisings.filter (·.vdr.part == p.lay.part), faults := p.faults, catch_ := p.catch_, dirty := p.dirty }

/-- CHECKPOINT: of a suspended partition that Kiln has a plan for, each package first copies the frames into its Sinter store; the next CHECKPOINT writes the
headers, which commits the checkpoint in place of an older one, and the rounds resume (R268). -/
def execCheckpoint (s : State) : Host.Outcome State Fault Refusal :=
  match s.eventPart with
  | some p =>
    match p.ckpt with
    | none => .next s
    | some k =>
      if !s.canCheckpoint p then .next s
      else if !k.copied then
        let tails := p.lay.pkgs.map (fun q => (q, (s.checkpointTail p q).length))
        if p.lay.pkgs.all (s.checkpointFits p k.frames tails k.base) then
          .next ((p.lay.pkgs.foldl (fun s q => s.copyFrames p k.frames tails k.base q) s).updPart p.lay.part (fun p =>
            { p with ckpt := some { k with tails := tails, copied := true } }))
        else .next s
      else
        let t := p.lay.pkgs.foldl (fun s q => s.writeBytes (gaOf q k.base) (checkpointHeader p.lay.part s.now (framesOf k.frames q).length)) s
        .next (({ t with checkpoints := s.checkpoints.filter (·.part != p.lay.part) ++ [s.checkpointOf p k] } : State).updPart p.lay.part
          (fun p => { p.resumed s.now with ckpt := none }))
  | none => .next s

/-- Whether a partition stands between rounds, where Q, G and its membership may change (R226): its rounds have not started, or the last slot of a round has
ended and its images are saved, and no image of the next round's first slot is restored yet. -/
def State.betweenRounds (s : State) (p : Partition) : Bool :=
  p.phase == .idle || (p.phase == .guard && decide ((s.vdevs.filter (·.vdr.part == p.lay.part)).length ≤ p.slot + 1) && s.slotSaved p)

/-- The place of a partition in its round as a virtual device leaves it: the slot of any other one goes on; without the one whose slot it is, the round
goes on after that slot (R226). -/
def State.reSlot (s : State) (v : VdRef) : State :=
  match s.part? v.part with
  | none => s
  | some p =>
    let rest := ((s.vdevs.filter (fun d => d.vdr.part == v.part && d.vdr != v)).map (·.vdr))
    let last := ((rest.filter (fun w => w.vd < v.vd)).length + rest.length - 1) % Nat.max 1 rest.length
    match s.slotVd p with
    | some d => s.updPart v.part (fun p => if d.vdr = v then { p with slot := last, phase := if p.phase == .idle then .idle else .guard }
        else { p with slot := rest.idxOf d.vdr })
    | none => s

/-- Discards a virtual device: its raisings, queues with their timers, ranges and loads. -/
def State.dropVdev (s : State) (v : VdRef) : State :=
  let s := (s.raisingsOf v).foldl (fun s r => (s.noteStrays r.rid).dropRaising r.rid) s
  let s := s.reSlot v
  { s with
    vdevs := s.vdevs.filter (·.vdr != v)
    queues := s.queues.filter (·.vdr != v)
    loads := s.loads.filter (·.vdr != v)
    semReqs := s.semReqs.filter (·.vdr != v)
    syncs := s.syncs.filter (·.vdr != v)
    ventWins := s.ventWins.filter (·.vdr != v) }

/-- VIRTUAL_DEVICE_TEARDOWN: between rounds, when the membership of the round may change (R226, R241, R391). -/
def execVirtualDeviceTeardown (s : State) : Host.Outcome State Fault Refusal :=
  match s.cur with
  | .event (.vdev v) => .next (if (s.part? v.part).elim true s.betweenRounds then s.dropVdev v else s)
  | _ => .next s

/-- The partition of a sequence space. -/
def Space.part : Space → Nat
  | .vc part _ _ _ _ _ => part
  | .group part _ _ _ => part
  | .leaf part _ _ _ _ => part

/-- PARTITION_TEARDOWN: waits until the posted counters of its virtual devices read zero, then discards them, releases its tables and
erases its keys (R108, R206, R214, R266). -/
def execPartitionTeardown (s : State) : Host.Outcome State Fault Refusal :=
  match s.eventPart with
  | some p =>
    let vs := s.vdevs.filter (·.vdr.part == p.lay.part)
    if vs.all (·.posted == 0) then
      let s := vs.foldl (fun s d => s.dropVdev d.vdr) s
      .next { s with
        parts := s.parts.filter (·.lay.part != p.lay.part)
        copies := s.copies.filter (·.part != p.lay.part)
        reqs := s.reqs.filter (·.vdr.part != p.lay.part)
        dedups := s.dedups.filter (·.part != p.lay.part)
        seqs := s.seqs.filter (·.space.part != p.lay.part)
        reorders := s.reorders.filter (·.space.part != p.lay.part)
        trims := s.trims.filter (·.msg.part != p.lay.part)
        inbox := s.inbox.filter (·.part != p.lay.part)
        platforms := s.platforms.map (fun q => { q with keys := q.keys.filter (·.2.1 != p.lay.part) }) }
    else .next s
  | none => .next s

end Sys2Proof.Machine
end

