-- ==== Sys2Proof/Machine/HomeOps.lean ====
section
/-! DEFINITION. What happens at the homes and with what comes back: MEMORY_ACCESS_AT_HOME (R83, R88 to R91, R211, R387) and MEMORY_REPLY (R93). -/

namespace Sys2Proof.Machine

open Sys2Proof

/-! ## QCOPY (R387) -/

/-- The Sinter channel of a physical address: 4 KiB units follow one another across the fitted channels (R2). -/
def State.channelOf (s : State) (p : Pkg) (pa : Nat) : Nat :=
  let fitted := (s.plat? p).elim [] (fun q => (List.range q.sinter.length).filter (fun i => q.sinter.getD i 0 != 0))
  fitted.getD ((pa - 0x10000000000) / 4096 % Nat.max 1 fitted.length) 0

/-- Where the port of an address at its home stands in a record of R387: the die in bits 9 to 8, the stack, or the Sinter channel plus 8. -/
def State.portAux (s : State) (ga : Nat) : Nat :=
  match regionOf (gaPhys ga) with
  | .hbm k => k / 2 * 256 + k
  | .sinter => s.channelOf (gaPkg ga) (gaPhys ga) + 8
  | _ => 0

/-- A fault of a QCOPY: it stops at the unit, and its record names the memory port (R387). -/
def State.qcopyFault (s : State) (x : Queue) (w : QWork) (u aux : Nat) (i : FaultInfo) : State :=
  let s := s.putQueue { x with work := some w }
  match s.vdev? x.vdr with
  | some d => s.pushRecord d.home x.vdr.part (fun seq =>
      { cause := i.cause.code, part := x.vdr.part, vdid := x.vdr.vd, bent := 0, raiseid := 0xFFFFFFFF, ecx := 0, ecy := 0, eng := true,
        unit := 4, blk := 0, slot := 0, port := 0, tag := 0, addr := i.addr, level := i.level, wr := i.wr, park := false, j := u, refc := 0,
        fire := 0, sub := 0, grp := 0, kstep := 0, acc := 0, seq := seq, aux := aux, cycle := 0 })
  | none => s

/-- Finds an address of a QCOPY: its home and key, or the fault of its walk, and the state after the walk. -/
def State.qcopyAt (s : State) (p : Pkg) (v : VdRef) (va : Nat) (need : Need) : Found × State :=
  match s.engineAccess p v [] va need with
  | (.ok w, _, s) => (.at_ (w.ga p va) (s.keyOf p v.part w.leaf), s)
  | (.bad i, _, s) => (.bad i, s)

/-- Charges a queue's copy for one unit, and its partition's sum with it (R236). -/
def State.chargeCopy (s : State) (x : Queue) (w : QWork) : State :=
  (s.putQueue { x with work := some w, used := x.used + Config.charge 0x1001 }).updPart x.vdr.part
    (fun p => { p with charged := p.charged + Config.charge 0x1001 })

/-- Ends the phase of a QCOPY: every unit of it is performed, and what went as bulk is acknowledged (R385, R387). -/
def State.qcopyEnd (s : State) (v : VdRef) (q : Nat) : State :=
  match s.queue? v q with
  | none => s
  | some y =>
    let s := s.settleEnergy y y.resv y.used
    match s.queue? v q with
    | some y => s.endPhase { y with report := some { flags := 0, code := none, bent := 0, blk := 0, slot := 0 } } false
    | none => s

/-- The next unit of a QCOPY as bulk, between two dies (R197, R387). None while its space is full. -/
def State.qcopySend (s : State) (x : Queue) (w : QWork) (id pos b : Nat) (sh : Bool) (ga k gb kb : Nat) : Option State :=
  let h := homeOf gb
  let (n, s) := s.newId
  let tag := Tag.mk ((s.vdev? x.vdr).elim 0 (·.ctxBase)) 0
  ((s.chargeCopy x w).sendBulk x.vdr tag h.2
    { id := n, owner := .qcopy x.vdr x.q id, at_ := pos, places := [], dst := (List.range 32).map (fun i => (gb + i, kb)),
      vas := (List.range 32).map (fun i => b + i), sh := sh, gens := s.gensNow x.vdr [b], bytes := s.readKey ga 32 k,
      kind := .bulk, src := (homeOf ga).1, hubSrc := (homeOf ga).2.hubNum, goal := h.1, space := .vc 0 h.1.pkg 0 h.1.pkg 0 3, seq := 0, done := false, lost := false })

/-- Moves a 32-byte unit of a QCOPY whose addresses are found: read at its home and written at its home, or sent there as bulk when that is on another die;
it waits for earlier units on their way, but for those that it follows in one sequence space (R204, R387). None where it must wait. -/
def State.qcopyMove (s : State) (bad : State → Nat → FaultInfo → State) (x : Queue) (w : QWork) (id pos a b : Nat) (sh : Bool) (ga k gb kb : Nat)
    (last : Bool) : Option State :=
  let fly := s.bulksOf (.qcopy x.vdr x.q id)
  let apart := homesApart (homeOf ga) (homeOf gb)
  let together := fun (f : Bulk) => apart && !crossesDie f.src (homeOf ga).1 && f.hubSrc == (homeOf ga).2.hubNum && !crossesDie f.goal (homeOf gb).1
  if fly.any (fun f => !f.done && !together f) then none
  else
  match s.portReady ga 32 with
  | .waits => none
  | .ecc s => some (bad s (s.portAux ga) { cause := .eccUncorr, addr := canon64 a })
  | .ready s =>
    if s.eccIn ga 32 then some (bad s (s.portAux ga) { cause := .eccUncorr, addr := canon64 a })
    else if apart then s.qcopySend x w id pos b sh ga k gb kb
    else match s.portReady gb 32 with
    | .waits => none
    | .ecc s => some (bad s (s.portAux gb) { cause := .eccUncorr, addr := canon64 b, wr := true })
    | .ready s =>
      let s := (s.writeKey gb kb (s.readKey ga 32 k)).chargeCopy x w
      some (if last && fly.isEmpty then s.qcopyEnd x.vdr x.q else s)

/-- Moves the next 32-byte unit of a QCOPY, while its virtual device's slot runs; a unit that an error ended is moved again first, from its walks on
(R387). When all are performed the phase ends (R101, R103). None where it must wait. -/
def State.qcopyUnit (s : State) (v : VdRef) (q : Nat) : Option State :=
  match s.queue? v q, s.vdev? v, s.part? v.part with
  | some x, some d, some p =>
    match x.state, x.work with
    | .run, some (.copy src dst len sh pos false id gens) =>
      let mine := (s.slotVd p).map (·.vdr) == some v && (p.phase == .quantum || p.phase == .grace)
      let fly := s.bulksOf (.qcopy v q id)
      let lost := fly.find? (·.lost)
      let u := lost.elim pos (·.at_)
      let next := if lost.isSome then pos else pos + 1
      let s := { s with bulks := s.bulks.filter (fun f => lost != some f) }
      let a := (src + 32 * u) % 2 ^ 55
      let b := (dst + 32 * u) % 2 ^ 55
      if !mine then none
      else if len ≤ 32 * u then (if fly.isEmpty then some (s.qcopyEnd v q) else none)
      else if sh && s.shWaits v [b] then none
      else
        let walkPort := u % 8 / 2 * 256 + u % 8
        let bad := fun (s : State) (aux : Nat) (i : FaultInfo) =>
          ({ s with bulks := s.bulks ++ lost.toList } : State).qcopyFault x (.copy src dst len sh pos true id gens) u aux i
        match s.qcopyAt d.home v (s.visibleVa v a gens) needRd with
        | (.bad i, s) => some (bad s walkPort { i with addr := canon64 a })
        | (.at_ ga k, s) =>
          match if sh then s.shadowVa v b else some (s.visibleVa v b []) with
          | none => some (bad s walkPort { cause := .shadowNone, addr := canon64 b, wr := true })
          | some b2 =>
            match s.qcopyAt d.home v b2 needWr with
            | (.bad i, s) => some (bad s walkPort { i with addr := canon64 b, wr := true })
            | (.at_ gb kb, s) =>
              s.qcopyMove bad x (.copy src dst len sh next false id gens) id u a b sh ga k gb kb (len ≤ 32 * next)
    | _, _ => none
  | _, _, _ => none

/-! ## MEMORY_ACCESS_AT_HOME -/

/-- A request at its home (R88). None where it must wait. -/
def State.homeReq (s : State) (r : Req) : Option State :=
  if r.stage ≠ .home then none
  else match r.kind with
    | .mfsHub n => some (s.answer r (.val (((s.hubReg r.br r.vdr n).getD 0).setWidth 256)))
    | .enrg => some (s.answer r (.val (s.accounts r.br.rid)))
    | .publ => s.homePubl r
    | .gath => s.homeGath r
    | .rld | .rst | .rstp | .ratm _ | .late _ => s.homeRemote r
    | .ld | .st | .ldi | .sti | .stiClr | .atom _ => s.homeAccess r
    | .xlate _ | .agrp | .wqini | .wqnx | .trap => none

/-- MEMORY_ACCESS_AT_HOME: a request, a unit of a QCOPY, or a member of a group is performed at its home; or a sync point finds every older
access performed (R88, R173, R211, R369, R387). -/
def execMemoryAccessAtHome (w : HomeRef) (s : State) : Host.Outcome State Fault Refusal :=
  match w with
  | .req id => match s.req? id with
    | some r => .next ((s.homeReq r).getD s)
    | none => .next s
  | .qcopy v q => .next ((s.qcopyUnit v q).getD s)
  | .member op rank => .next ((s.memberAccess op rank).getD s)
  | .sync i =>
    match s.syncs[i]? with
    | some y =>
      if y.waits.any (fun id => (s.req? id).elim false (·.underWay) || s.bulks.any (fun b => b.id == id && !b.done && !b.lost)) then .next s
      else .next { s with syncs := s.syncs.eraseIdx i }
    | none => .next s

/-! ## MEMORY_REPLY (R93) -/

/-- The token that an answer becomes (R360, R362, R381, R396 and the entries of the others). -/
def State.replyToken (s : State) (r : Req) (v : W256) : Token :=
  match r.kind with
  | .ld | .rld => if r.size = 32 then vectorTok r.tag v else scalarTok r.tag v.toNat
  | .gath => if r.ctx.atok.isScalar then scalarTok r.tag v.toNat else vectorTok r.tag v
  | .enrg | .trap => vectorTok r.tag v
  | _ => scalarTok r.tag v.toNat

/-- The answer of a request at its issuer. -/
def State.replied (s : State) (r : Req) (a : Reply) : State :=
  let opc := slotOpc ((s.slot? r.br.rid r.blk r.slot).elim 0 (·.word))
  if r.lingers then s.dropReq r.id
  else match a with
  | .err i =>
    if i.cause = .eccUncorr then (s.reqFault r i).eccFreeze r.br r.cx r.cy i
    else if i.cause = .remoteTimeout ∨ i.cause = .remoteFault ∨ i.cause = .remoteBusy ∨ i.cause = .trimExhausted ∨ i.cause = .staleReplay then
      s.reqError r i
    else s.reqFault r i
  | .ack =>
    let s := (s.dropReq r.id).updBent r.br (fun b => b.clearFrozen r.ctx.u r.blk r.slot r.tag)
    let s := if opc = 0xE3 then s.deprecate r.br.rid else s
    if r.posted then s else s.emitReq r r.ctx.atok.plain
  | .val v =>
    let s := (s.dropReq r.id).updBent r.br (fun b => b.clearFrozen r.ctx.u r.blk r.slot r.tag)
    let s := if opc = 0xE0 then s.deprecate r.br.rid else s
    match r.kind with
    | .wqnx => s.wqnxReply r v
    | .gath => (if r.data2 = 0 then s else s.updBent r.br (fun b => { b with engWarn := b.engWarn ||| warnBit 23 })).emitReq r (s.replyToken r v)
    | .atom _ | .ratm _ => (s.raiseFlags r.br r.ctx.u (BitVec.ofNat 8 (v.toNat / 2 ^ 64))).emitReq r (scalarTok r.tag v.toNat)
    | _ => s.emitReq r (s.replyToken r v)

/-- MEMORY_REPLY: an answer reaches its AG, which emits; a FENCE or a group operation whose conditions hold emits (R93, R95, R211, R347). A
bent that is sealed takes its answers after the restore (R230). -/
def execMemoryReply (s : State) : Host.Outcome State Fault Refusal :=
  match s.cur with
  | .event (.num n) =>
    match s.req? n with
    | some r =>
      match r.stage, r.reply with
      | .reply, some a =>
        if (s.bent? r.br).isNone then .next (s.dropReq n)
        else if !s.bentLive r.br then .next s
        else if s.ctxAborted r.ctx then .next (s.dropReq n)
        else .next (s.replied r a)
      | _, _ => .next s
    | none =>
      match s.fences.find? (·.id == n) with
      | some f => .next (if s.bentLive f.br && s.fenceDone f then s.fenceEmit f else s)
      | none =>
        match s.mcops.find? (·.id == n) with
        | some m => .next (if s.bentLive m.br && m.complete then s.mcEmit m else s)
        | none => .next s
  | _ => .next s

end Sys2Proof.Machine
end

