-- ==== Sys2Proof/Machine/KilnOps.lean ====
section
/-! DEFINITION. What Kiln does (R254 and the rules each register names): KILN_REGISTER_WRITE, sync points (R173), migration (R182), replay
(R180), the growth of a spill area (R38); and errors that ECC reports (R186). -/

namespace Sys2Proof.Machine

open Sys2Proof

/-! ## Registers -/

/-- Inserts a virtual device in ascending VDID (R226). -/
def insertVdev (d : Vdev) : List Vdev → List Vdev
  | [] => [d]
  | e :: es => if d.vdr.part < e.vdr.part ∨ (d.vdr.part = e.vdr.part ∧ d.vdr.vd < e.vdr.vd) then d :: e :: es else e :: insertVdev d es

/-- The shortest guard that a grace window allows; on one package SKEW needs no allowance (R228, R229). -/
def guardMin (pkgs w : Nat) : Nat := w + 16384 + 2 * 524288 + (if 1 < pkgs then 8000 else 0)

/-- Whether Q, G and W are values that Kiln sets (R226, R227, R228). -/
def roundOk (pkgs q g w : Nat) : Bool := 2000000 ≤ q && q ≤ 80000000 && w ≤ 4000000 && guardMin pkgs w ≤ g

/-- Whether a sequencer of a package is one of a partition's (R215, R222). -/
def State.ownsSequencer (s : State) (pkg : Pkg) (part n : Nat) : Bool :=
  n < 64 && (s.part? part).elim false (fun p => (p.share pkg).sequencers.contains n)

/-- The words that a queue program holds at most (R383). -/
def queueLimit : Nat := 65536

/-- Binds a queue to a sequencer of its virtual device's package: the loader loads its program from QBASE in the virtual device's memory, and checks it;
a word past the limit of R383 is beyond it (R215, R217, R383; log 47). -/
def State.bindQueue (s : State) (v : VdRef) (q sequencer qbase len : Nat) : State :=
  match s.vdev? v with
  | some d =>
    let len := Nat.min len queueLimit
    match s.vdRead d.home v [] (addrsFrom qbase (8 * len)) with
    | (some bs, s) =>
      let ws := (List.range len).map (fun i => BitVec.ofNat 64 (le bs (8 * i) 8))
      if semBeyond d.semCount ws.length ws then { s with reports := s.reports ++ [LoadErr.report { code := loadOperand } v 0] }
      else if !s.ownsSequencer d.home v.part sequencer then s
      else match s.queue? v q with
        | some x =>
          if x.state == .stopped then s.putQueue { x with sequencer := sequencer, qbase := qbase, prog := ws, qptr := 0, work := none } else s
        | none => if q < 64 then { s with queues := s.queues ++ [Queue.fresh v q sequencer qbase ws] } else s
    | (none, s) => s
  | none => s

/-- Whether a range of a hub's semaphores lies in the partition's, and meets no other virtual device's of that hub (R217, R222). -/
def State.semFree (s : State) (v : VdRef) (base count : Nat) : Bool :=
  match s.vdev? v, s.part? v.part with
  | some d, some p =>
    let l := p.share d.home
    l.semBase ≤ base && base + count ≤ l.semBase + l.semCount && base + count ≤ 1024 &&
      s.vdevs.all (fun e => e.vdr == v || e.home != d.home || e.semBase + e.semCount ≤ base || base + count ≤ e.semBase)
  | _, _ => false

/-- Whether an allotment keeps the sum of a partition's within its envelope times Q + G (R237). -/
def State.allotFits (s : State) (v : VdRef) (e : Nat) : Bool :=
  (s.part? v.part).elim false (fun p =>
    ((s.vdevs.filter (fun d => d.vdr.part == v.part && d.vdr != v)).map (·.ealot)).foldl (· + ·) e ≤ p.envelopeEnergy)

/-- What a partition owns on each of its packages. -/
def Partition.rows (p : Partition) : List PartLayout := if p.shares.isEmpty then [p.lay] else p.shares.map (·.2)

/-- Whether a range of contexts lies in the partition's on every package, and meets that of no other virtual device of it (R222, R223). -/
def State.tagsFree (s : State) (v : VdRef) (lo hi : Nat) : Bool :=
  (s.part? v.part).elim false (fun p => lo ≤ hi && p.rows.all (fun l => l.ctxBase ≤ lo && hi ≤ l.ctxLim) &&
    s.vdevs.all (fun d => d.vdr.part != v.part || d.vdr == v || hi < d.ctxBase || d.ctxLim < lo))

/-- Kiln maps an IST page: its presence bits become empty and its data zero, under the key of its entry (R82). -/
def State.istMap (s : State) (p : Pkg) (pa len enc : Nat) : State :=
  let ga := gaOf p pa
  let key := if enc = 0 then 0 else ((s.plat? p).bind (fun q => q.keys.find? (·.1 == enc))).elim (erasedKey enc) (fun k => k.2.2 * 16 + enc)
  { s with presence := s.presence.filter (fun w => !(ga / 8 ≤ w && w < (ga + len + 7) / 8)) }.writeKey ga key (List.replicate len 0)

/-- Sets TRIMTH of an output and VC (R199). -/
def State.setTrimth (s : State) (n out : Node) (vc th : Nat) : State :=
  if 8 ≤ th ∧ th ≤ vcSlots vc ∧ 1 ≤ vc ∧ vc ≤ 5 then
    { s with trimths := { node := n, out := out, vc := vc, th := th } ::
        s.trimths.filter (fun t => !(t.node == n && t.out == out && t.vc == vc)) }
  else s

/-- The state after Kiln writes a register; a value outside the range its rule gives changes nothing. -/
def State.kilnWrite (s : State) (r : KilnReg) : State :=
  match r with
  | .quota part n => if 16 ≤ n ∧ n ≤ 512 then s.updPart part (fun p =>
      { p with quota := n, shares := p.shares.map (fun x => (x.1, { x.2 with quota := n })) }) else s
  | .round part q g w =>
    s.updPart part (fun p => if roundOk p.lay.pkgs.length q g w && s.betweenRounds p then { p with q := q, g := g, w := w } else p)
  | .roundStart part =>
    s.updPart part (fun p => if p.phase == .idle then { p with slot := 0, slotStart := s.now, phase := .saved } else { p.resumed s.now with ckpt := none })
  | .roundSuspend part =>
    s.updPart part (fun p => if p.phase == .guard || p.phase == .saved then { p with suspended := true } else p)
  | .vdCreate v home lo hi =>
    match s.part? v.part with
    | some p =>
      if v.vd < 64 ∧ s.betweenRounds p ∧ (s.vdev? v).isNone ∧ s.tagsFree v lo hi ∧ p.lay.pkgs.contains home then
        ({ s with vdevs := insertVdev (Vdev.fresh v home lo hi) s.vdevs } : State).updPart v.part (fun p =>
          if p.phase == .idle then p else { p with slot := (s.vdevs.filter (·.vdr.part == v.part)).length })
      else s
    | none => s
  | .semRange v base count => if s.semFree v base count then s.updVdev v (fun d => { d with semBase := base, semCount := count }) else s
  | .semReset p n => s.setSem p n 0
  | .queueBind v q sequencer qbase len => s.bindQueue v q sequencer qbase len
  | .queuePrio v q prio => if prio ≤ 3 then s.updQueue v q (fun x => { x with prio := prio }) else s
  | .queueResv v q e => s.updQueue v q (fun x => { x with defResv := e })
  | .ealot v e => if s.allotFits v e then s.updVdev v (fun d => { d with ealot := e }) else s
  | .energy v e => s.updVdev v (fun d => { d with energy := e })
  | .depcount v n => s.updVdev v (fun d => { d with depcount := n, depArmed := true })
  | .depctl v n => s.updVdev v (fun d => { d with depctl := n, depArmed := true })
  | .dbgen v on => s.updVdev v (fun d => { d with dbgen := on })
  | .pinq v n => if n ≤ 1024 then s.updVdev v (fun d => { d with pinq := n }) else s
  | .troot v p pa => if pa % 2 ^ 16 = 0 then s.updVdev v (fun d => { d with troot := (p, pa) :: d.troot.filter (·.1 != p) }) else s
  | .saveBase v pa => s.updVdev v (fun d => { d with saveBase := pa })
  | .watchdog br n => if 2 ^ 16 ≤ n ∧ n ≤ 2 ^ 32 then s.updBent br (fun b => { b with wdInterval := n }) else s
  | .trimth n out vc th => s.setTrimth n out vc th
  | .txSize part n => if 2 ^ 24 ≤ n ∧ n ≤ 2 ^ 30 then s.updPart part (fun p => { p with txSize := n }) else s
  | .dirtyLog part base size =>
    if 4096 ≤ size ∧ size ≤ 2 ^ 20 then
      s.updPart part (fun p => { p with dirty := { base := base, size := size, wr := 0, rd := 0, ovf := false } })
    else s
  | .dirtyRead part rd => s.updPart part (fun p => { p with dirty := { p.dirty with rd := rd } })
  | .migActive p new_ =>
    { s with migs := updIf s.migs (fun m => m.new_ == gaOf p new_ && m.state == .pending) (fun m => { m with state := .active }) }
  | .migForget p new_ => { s with migs := s.migs.filter (fun m => !(m.new_ == gaOf p new_ && m.state == .done)) }
  | .istClear p pa len enc => s.istMap p pa len enc
  | .faultRing part base cap => s.updPart part (fun p => { p with ring := { base := base, cap := cap, wr := 0 } })
  | .checkpointPlan part base frames => s.updPart part (fun p => { p with ckpt := some { base := base, frames := frames, tails := [], copied := false } })
  | .library v at_ => s.updVdev v (fun d => { d with libAt := at_ })
  | .tagRange v lo hi =>
    if (s.raisingsOf v).isEmpty && s.tagsFree v lo hi then s.updVdev v (fun d => { d with ctxBase := lo, ctxLim := hi }) else s
  | .spillcnt br n => s.updBent br (fun b => { b with spillCnt := n })
  | .trimcnt br n => s.updBent br (fun b => { b with trimCnt := n })
  | .refaultcnt br n => s.updBent br (fun b => { b with refaultCnt := n })
  | .cycle br n => s.updBent br (fun b => { b with cycAcc := n, runFrom := b.runFrom.map (fun _ => s.now) })
  | .bentid br n => s.updBent br (fun b => { b with bentId := n })
  | .raiseid rid n => s.updRaising rid (fun r => { r with raiseId := n })
  | .vdid v n => s.updVdev v (fun d => { d with vdId := n })
  | .partid part n => s.updPart part (fun p => { p with partId := n })
  | .qtime part n => s.updPart part (fun p => { p with qtOff := n - BitVec.ofNat 64 (s.now - p.slotStart) })
  | .checkpointDrained part => { s with checkpoints := updIf s.checkpoints (·.part == part) (fun c => { c with drained := true }) }
  | .store p pa bytes => s.writeBytes (gaOf p pa) bytes

/-- The first address of a store of Kiln that no memory of the package answers. -/
def State.storeGap (s : State) (r : KilnReg) : Option (Pkg × Nat) :=
  match r with
  | .store p pa bytes => ((addrsFrom pa bytes.length).find? (fun a => !(a < 2 ^ 52 && s.physOk p a))).map (fun a => (p, a))
  | _ => none

/-- KILN_REGISTER_WRITE: Kiln writes one register, or its own store to memory. -/
def execKilnRegisterWrite (r : KilnReg) (s : State) : Host.Outcome State Fault Refusal :=
  match s.storeGap r with
  | some (p, a) => .fault (.noSuchAddress p a)
  | none => .next (s.kilnWrite r)

/-! ## Sync points and migration (R173, R182) -/

/-- PAGE_TABLE_SYNC_POINT: TGEN rises, then every older access is waited for. -/
def execPageTableSyncPoint (p : Pkg) (v : VdRef) (s : State) : Host.Outcome State Fault Refusal :=
  let t := s.raiseTgen v p
  .next { t with syncs := t.syncs ++ [{ pkg := p, vdr := v, waits := s.syncWaits p v }] }

/-- MIGRATION_START: a memory port takes a record, PENDING with no line valid, while it holds fewer than 256. -/
def execMigrationStart (p : Pkg) (new_ old : Nat) (s : State) : Host.Outcome State Fault Refusal :=
  let ga := gaOf p new_ / 2 ^ 16 * 2 ^ 16
  let port := s.migs.filter (fun m => m.pkg == p && s.portAux m.new_ == s.portAux ga)
  if port.length < 256 && !(s.migs.any (fun m => m.new_ == ga)) then
    .next { s with migs := s.migs ++ [{ pkg := p, new_ := ga, old := old / 2 ^ 16 * 2 ^ 16, state := .pending, bits := List.replicate 256 false }] }
  else .next s

/-- MIGRATION_LINE_PULL: the port of an ACTIVE record pulls an absent line, unless the old home answers with an error. -/
def execMigrationLinePull (p : Pkg) (new_ line : Nat) (s : State) : Host.Outcome State Fault Refusal :=
  match s.migOf (gaOf p new_) with
  | some m =>
    if m.state == .active && !(m.bits.getD line true) && !(s.eccIn (m.old + 256 * line) 256) then
      .next (s.pullLine m line)
    else .next s
  | none => .next s

/-! ## Replay (R180) and the growth of a spill area (R38) -/

/-- KILN_REPLAY: frozen work is fired or issued again; of one stream the parked element of least j. -/
def execKilnReplay (w : WorkRef) (s : State) : Host.Outcome State Fault Refusal :=
  match w with
  | .instr br u blk slot tag =>
    let s := (s.replayTag br u blk slot tag).updBent br (fun b => { b with timelines := b.timelines.map (fun t => { t with
      win := updIf t.win (fun e => e.ts % 4096 == tag.iter && e.blk == blk && b.tlCtx.contains tag.ctx) (fun e => { e with
        stores := updIf e.stores (·.slot == slot) (fun x => { x with frozen := false }) }) }) })
    .next (match u with
      | .elem cx cy => s.updElem br cx cy (fun e =>
          { e with stats := updIf e.stats (fun r => r.blk == blk && r.slot == slot && r.tag == tag) (fun r => { r with frozen := false }) })
      | .station _ _ => s)
  | .stream br cx cy id j =>
    .next (s.updElem br cx cy (fun e => { e with streams := updIf e.streams (fun x => x.id == id && x.parked.head? == some j) (fun x =>
      ({ x with parked := setDel x.parked j, stalled := false } : Stream).settle) }))
  | .copy br cX cY id =>
    .next (s.updClus br cX cY (fun k => { k with copies := updIf k.copies (·.id == id) (fun x => { x with frozen := false }) }))
  | .batch br cx cy id =>
    .next (s.updElem br cx cy (fun e => { e with batches := updIf e.batches (·.id == id) (fun x => { x with frozen := false }) }))
  | .qcopy v q => .next (s.updQueue v q (fun x => { x with work := match x.work with
      | some (.copy src dst len sh pos _ id gens) => some (.copy src dst len sh pos false id gens)
      | o => o }))
  | .truss br cX cY => .next (s.updClus br cX cY (fun k => { k with
      firing := k.firing.map (fun f => { f with stopped := false })
      jointer := k.jointer.map (fun j => { j with frozen := false }) }))
  | .elem br cx cy => .next (s.updElem br cx cy (fun e => { e with eccFrozen := false }))

/-- KILN_RESUME_SPILL: Kiln grows a bent's spill area; the bent fires again (R38). -/
def execKilnResumeSpill (br : BentRef) (size : Nat) (s : State) : Host.Outcome State Fault Refusal :=
  .next (s.updBent br (fun b =>
    let c := { b with spillSize := size, frozen := false }
    if b.isSealed then c else c.startClock s.now))

/-! ## ECC (R186, R269) -/

/-- The RAS index of a home address: HBM4 stack k, Sinter channel plus 8, or the SRAM class of the vaults. -/
def State.eccIdx (s : State) (ga : Nat) : Nat :=
  match regionOf (gaPhys ga) with
  | .hbm k => k
  | .sinter => 8 + s.channelOf (gaPkg ga) (gaPhys ga)
  | .spad => 65
  | _ => 64

/-- An uncorrectable error that a shared unit would consume: its token is withheld (R186). Unit 0 is the Truss, 1 the Lahar, 2 a vent
port, 3 the Jointer. -/
def State.eccShared (s : State) (br : BentRef) (cX cY unit : Nat) : State :=
  let i : FaultInfo := { cause := .eccUncorr }
  match s.clus? br cX cY with
  | none => s
  | some k =>
    match unit with
    | 0 => match k.firing with
      | some f =>
        if f.stopped then s else
        match k.nodes.find? (fun n => n.blk == f.blk && n.slot == f.slot) with
        | some n => s.trussEcc br cX cY n f 0
        | none => s
      | none => s
    | 1 => match k.copies.find? (fun x => !x.frozen) with
      | some x => s.copyFault br cX cY x (s.copyPlan br.rid x.blk x.slot x.atok) i
      | none => s
    | 2 => match (s.bent? br).bind (fun b => b.elems.find? (fun e => e.cx / 4 == cX && e.cy / 4 == cY && e.batches.any (fun x => !x.frozen))) with
      | some e => match e.batches.find? (fun x => !x.frozen) with
        | some x => (s.updElem br e.cx e.cy (fun e => { e with batches := updIf e.batches (·.id == x.id) (fun x => { x with frozen := true }) })).workFault br
            (.elem e.cx e.cy) (ventPlace e.cx e.cy) x.blk x.slot x.tag x.id i
        | none => s
      | none => s
    | _ => match k.jointer.find? (fun j => !j.frozen) with
      | some j => (s.updClus br cX cY (fun k => { k with jointer := updIf k.jointer (·.id == j.id) (fun j => { j with frozen := true }) })).workFault br
          (.elem j.cx j.cy) { ecx := 4 * cX, ecy := 4 * cY, eng := true, unit := 3 } j.blk j.slot j.out.tag j.id i
      | none => s

/-- ECC_UNCORRECTABLE: an error stands at a memory unit, to meet whatever reads it; or an element or shared unit would consume it, and is
frozen or withholds its token (R186). -/
def execEccUncorrectable (t : EccTarget) (s : State) : Host.Outcome State Fault Refusal :=
  match t with
  | .unit ga => .next ({ s with ecc := setIns s.ecc (ga / 32) }.count .eccu (gaPkg ga) (s.eccIdx ga))
  | .elem br cx cy =>
    match s.bent? br, s.elem? br cx cy with
    | some b, some e =>
      let s := s.count .eccu b.pkg 66
      if e.eccFrozen then .next s
      else
        let s := s.updElem br cx cy (fun e => { e with eccFrozen := true })
        (match s.candidates br (.elem cx cy) with
        | r :: _ =>
          let c : Ctx := { br := br, u := .elem cx cy, blk := r.blk, slot := r.slot, tag := r.tag, a := r.a, b := r.b, p := r.p }
          .next ((s.takeReady br (.elem cx cy) r).fault c { cause := .eccUncorr })
        | [] => .next (s.record br (.elem cx cy) 0 0 0 { cause := .eccUncorr } 0))
    | _, _ => .next s
  | .shared br cX cY unit =>
    match s.bent? br with
    | some b => .next ((s.count .eccu b.pkg 67).eccShared br cX cY unit)
    | none => .next s

/-- ECC_CORRECTED: a corrected error counts (R186). -/
def execEccCorrected (p : Pkg) (idx : Nat) (s : State) : Host.Outcome State Fault Refusal := .next (s.count .eccc p idx)

end Sys2Proof.Machine
end

