-- ==== Sys2Proof/Machine/HostOps.lean ====
section
/-! DEFINITION. Host, management and platform: resets and recovery (R21, R262 to R264), layouts (R222, R267), power, keys and heat (R266,
R270), the host's accesses (R258, R259), ingress windows (R260, R261), attestation (R265) and RAS counters (R269). -/

namespace Sys2Proof.Machine

open Sys2Proof

/-! ## What a package loses -/

/-- The package of a router. -/
def Node.pkg : Node → Pkg
  | .cell c => c.pkg
  | .edge p _ _ => p
  | .hub p _ _ => p

/-- The package whose dies send in a sequence space. -/
def Space.srcPkg : Space → Pkg
  | .vc _ sp _ _ _ _ => sp
  | .group _ sp _ _ => sp
  | .leaf _ mp _ _ _ => mp

/-- The messages and slots in a package's routers are lost. -/
def State.dropTransit (s : State) (p : Pkg) : State :=
  { s with
    fqueues := s.fqueues.filter (fun q => q.node.pkg != p)
    mccopies := s.mccopies.filter (fun c => c.node.pkg != p)
    redslots := s.redslots.filter (fun r => r.node.pkg != p) }

/-- The raisings with a bent on a package are lost; what their bents leave on other packages stands in its region until the loader sweeps it (R235). -/
def State.loseRaisings (s : State) (p : Pkg) : State :=
  let s := (s.raisings.filter (fun r => r.bents.any (·.pkg == p))).foldl (fun s r => (s.noteStrays r.rid).dropRaising r.rid) s
  { s with parts := s.parts.map (fun q => { q with strays := q.strays.filter (fun x => x.clusters.all (·.pkg != p)) }) }

/-- A partition as its shares of its packages make it: their clusters, and the sum of their envelopes (R222, R237). -/
def Partition.merged (q : Partition) (shares : List (Pkg × PartLayout)) : Partition :=
  match shares with
  | [] => { q with shares := [], lay := { q.lay with clusters := [] } }
  | x :: _ => { q with
      shares := shares
      lay := { x.2 with clusters := shares.flatMap (·.2.clusters), envelope := (shares.map (·.2.envelope)).foldl (· + ·) 0 } }

/-- A partition without its share of a package. -/
def Partition.without (q : Partition) (p : Pkg) : Partition := q.merged (q.shares.filter (·.1 != p))

/-- Everything that the compute dies and the hub of a package hold, memory apart, is lost. -/
def State.emptied (s : State) (p : Pkg) : State :=
  let s := s.loseRaisings p
  let s := (s.vdevs.filter (·.home == p)).foldl (fun s d => s.dropVdev d.vdr) s
  let s := s.dropTransit p
  { s with
    parts := (s.parts.map (fun q => q.without p)).filter
      (fun q => !q.lay.clusters.isEmpty || s.vdevs.any (·.vdr.part == q.lay.part))
    sems := s.sems.filter (·.pkg != p)
    semReqs := s.semReqs.filter (·.pkg != p)
    inbox := s.inbox.filter (·.dst.pkg != p)
    trimths := s.trimths.filter (·.node.pkg != p)
    seqs := s.seqs.filter (·.space.srcPkg != p)
    copies := s.copies.filter (·.pkg != p)
    trims := s.trims.filter (·.pkg != p)
    reorders := s.reorders.filter (·.space.home.pkg != p)
    dedups := s.dedups.filter (·.pkg != p)
    parked := s.parked.filter (·.pkg != p)
    groups := s.groups.filter (·.node.pkg != p)
    migs := s.migs.filter (·.pkg != p)
    syncs := s.syncs.filter (·.pkg != p)
    ventWins := s.ventWins.filter (·.pkg != p)
    ras := s.ras.filter (·.pkg != p) }

/-! ## Built-in test and enumeration (R2, R21) -/

/-- The largest power of two that is at most n and 32; 0 for 0. -/
def pow2Below (n : Nat) : Nat := [32, 16, 8, 4, 2, 1].find? (· ≤ n) |>.getD 0

/-- Keeps the first n channels of a size. -/
def takeSized (size : Nat) : Nat → List Nat → List Nat
  | _, [] => []
  | 0, _ :: cs => 0 :: takeSized size 0 cs
  | n + 1, c :: cs => if c = size then c :: takeSized size n cs else 0 :: takeSized size (n + 1) cs

/-- The largest conforming subset of a fitting, by capacity: 1, 2, 4, 8, 16 or 32 channels of one size, in ascending number. Where two sizes give one
capacity, the model takes the larger size (DESIGN CHOICE, log 63). -/
def enumerate (fit : List Nat) : List Nat :=
  let fit := (fit ++ List.replicate 32 0).take 32
  let best := [24, 16, 12, 8].foldl (fun (b : Nat × Nat) size =>
    let n := pow2Below (fit.filter (· == size)).length
    if b.1 * b.2 < size * n then (size, n) else b) (0, 0)
  if best.2 = 0 then List.replicate 32 0 else takeSized best.1 best.2 fit

/-- The die of a cell or of a cluster, for the counter of R269. -/
def dieOf (x y : Nat) : Nat := 2 * (y / 64) + x / 64

/-- Built-in test fences what failed, and counts it (R21, R269). -/
def State.fence (s : State) (p : Pkg) (b : BistReport) : State :=
  let s := s.updPlat p (fun q => { q with fenced := b.cells, fencedClus := b.clusters, failedStacks := b.lostStacks })
  let s := { s with ras := s.ras.filter (fun c => !(c.name == .fenced && c.pkg == p)) }
  let s := b.cells.foldl (fun s c => s.count .fenced p (dieOf c.1 c.2)) s
  b.clusters.foldl (fun s c => s.count .fenced p (dieOf (4 * c.1) (4 * c.2))) s

/-! ## Layouts (R222, R266, R267) -/

/-- Whether no two of a list of ranges, each a first number and a count, meet. -/
def disjoint (l : List (Nat × Nat)) : Bool :=
  (List.range l.length).all (fun i => (List.range i).all (fun j =>
    let a := l.getD i (0, 0)
    let b := l.getD j (0, 0)
    a.2 == 0 || b.2 == 0 || a.1 + a.2 ≤ b.1 || b.1 + b.2 ≤ a.1))

/-- The power limit of a package in watts (R1). -/
def packagePower : Nat := 2600

/-- The sum of a layout's envelopes (R237). -/
def Layout.power (l : Layout) : Nat := (l.parts.map (·.envelope)).foldl (· + ·) 0

/-- Whether a layout keeps the bounds of R13, R35, R222, R223 and R237 on a package: at most 16 partitions, with row quotas of 16 to 512, and no cluster, context,
sequencer, semaphore or key in two of them. -/
def Layout.ok (l : Layout) (p : Pkg) : Bool :=
  l.parts.all (fun q => 16 ≤ q.quota && q.quota ≤ 512 && q.ctxBase ≤ q.ctxLim && q.ctxLim < 2 ^ 20 && q.semBase + q.semCount ≤ 1024) &&
  disjoint (l.parts.map (fun q => (q.ctxBase, q.ctxLim + 1 - q.ctxBase))) && disjoint (l.parts.map (fun q => (q.semBase, q.semCount))) &&
  (let ns := l.parts.flatMap (·.sequencers); ns.eraseDups.length == ns.length && ns.all (· < 64)) &&
  l.parts.length ≤ 16 && l.parts.all (fun q => q.part < 16) &&
  (l.parts.map (·.part)).eraseDups.length == l.parts.length &&
  (let cs := (l.parts.flatMap (·.clusters)).filter (·.pkg == p); cs.eraseDups.length == cs.length && cs.all (fun c => c.X < 32 && c.Y < 32)) &&
  l.power ≤ packagePower &&
  (let ks := l.parts.flatMap (·.keys); ks.eraseDups.length == ks.length && ks.all (fun k => 1 ≤ k && k ≤ 15))

/-- The keys of a layout: those already assigned to the same partition stand, and the others are generated anew. -/
def newKeys (old : List (Nat × Nat × Nat)) : Nat → List (Nat × Nat) → List (Nat × Nat × Nat) × Nat
  | n, [] => ([], n)
  | n, k :: ks =>
    match old.find? (fun o => o.1 == k.1 && o.2.1 == k.2) with
    | some o => let r := newKeys old n ks; (o :: r.1, r.2)
    | none => let r := newKeys old (n + 1) ks; ((k.1, k.2, n + 1) :: r.1, r.2)

/-- One partition's part of a layout on a package takes effect: its share of that package (R222). -/
def State.applyPart (s : State) (p : Pkg) (l : PartLayout) : State :=
  let mine := { l with clusters := l.clusters.filter (·.pkg == p) }
  match s.part? l.part with
  | some _ => s.updPart l.part (fun q => q.merged (q.shares.filter (·.1 != p) ++ [(p, mine)]))
  | none => { s with parts := s.parts ++ [(Partition.fresh mine).merged [(p, mine)]] }

/-- A layout takes effect on a package at one quiescent point: partitions, and the keys of the security block. -/
def State.applyLayout (s : State) (p : Pkg) (l : Layout) : State :=
  let gone := fun (q : Partition) => !(l.parts.any (·.part == q.lay.part))
  let s := { s with parts := s.parts.map (fun q => if gone q then q.without p else q) }
  let s := { s with parts := s.parts.filter (fun q => !(gone q && q.lay.clusters.isEmpty)) }
  let s := l.parts.foldl (fun s e => s.applyPart p e) s
  s.updPlat p (fun q =>
    let ks := newKeys q.keys q.keyEpoch (l.parts.flatMap (fun e => e.keys.map (fun k => (k, e.part))))
    { q with applied := l, keys := ks.1, keyEpoch := ks.2 })

/-- The bytes of a layout as its digest takes them (log 14). -/
def Layout.bytes (l : Layout) : List Byte :=
  l.parts.flatMap (fun q => bytesOf 8 q.part ++ bytesOf 8 q.clusters.length ++ q.clusters.flatMap (fun c => bytesOf 8 (c.Y * 32 + c.X)) ++
    bytesOf 8 q.ctxBase ++ bytesOf 8 q.ctxLim ++ bytesOf 8 q.quota ++ bytesOf 8 q.envelope ++ bytesOf 8 q.keys.length ++ q.keys.flatMap (bytesOf 8) ++
    bytesOf 8 q.hbm ++ bytesOf 8 q.vault ++ bytesOf 8 q.sinter ++ bytesOf 8 q.sequencers.length ++ q.sequencers.flatMap (bytesOf 8) ++
    bytesOf 8 q.semBase ++ bytesOf 8 q.semCount)

/-- Whether a layout alters the clusters, ranges, quotas, sequencers or keys that a partition which Kiln has not torn down owns on a package (R267). A share of
a package that it does not own yet is no such change (R222). -/
def State.layoutAlters (s : State) (p : Pkg) (l : Layout) : Bool :=
  let own := (s.plat? p).elim [] (·.applied.parts)
  s.parts.any (fun q => match own.find? (·.part == q.lay.part) with
    | some o => (l.parts.find? (·.part == q.lay.part)).elim true (fun e => { e with envelope := 0 } != { o with envelope := 0 })
    | none => false)

/-- Phase one of a commit: the inactive bank, then BANK and DIGEST, and VALID last where it is reached. -/
def Platform.phaseOne (q : Platform) (l : Layout) (valid : Bool) : Platform :=
  let q := if q.activeB then { q with bankA := l } else { q with bankB := l }
  if valid then { q with intent := { seq := q.intent.seq + 1, bankB := !q.activeB, digest := Config.sm3 l.bytes, valid := true } } else q

/-- The layout of a bank. -/
def Platform.bank (q : Platform) (b : Bool) : Layout := if b then q.bankB else q.bankA

/-- Phase two of a commit: ACTIVE, the layout at every unit, and VALID cleared; it may be done again. -/
def State.phaseTwo (s : State) (p : Pkg) : State :=
  match s.plat? p with
  | some q =>
    let s := s.updPlat p (fun q => { q with activeB := q.intent.bankB })
    (s.applyLayout p (q.bank q.intent.bankB)).updPlat p (fun q => { q with intent := { q.intent with valid := false } })
  | none => s

/-- LAYOUT_COMMIT: a commit in two phases, refused with LAYOUT_BUSY when it alters a partition that stands. `cut` is the stage that a watchdog
reset of the management processor falls in: 0 before VALID, 1 between VALID and ACTIVE, 2 while the layout is applied, 3 after VALID is cleared. -/
def execLayoutCommit (p : Pkg) (lay : Layout) (cut : Option Nat) (s : State) : Host.Outcome State Fault Refusal :=
  match s.plat? p with
  | some q =>
    if !q.ready || q.intent.valid || !lay.ok p then .next s
    else if s.layoutAlters p lay then .next (s.updPlat p (fun q => { q with layoutBusy := true }))
    else
      let s := s.updPlat p (fun q => { q.phaseOne lay (cut != some 0) with layoutBusy := false })
      match cut with
      | some 0 => .next s
      | some 1 => .next s
      | some 2 => .next (s.updPlat p (fun q => { q with activeB := q.intent.bankB }))
      | _ => .next (s.phaseTwo p)
  | none => .next s

/-- The package that an event is about. -/
def State.eventPkg (s : State) : Option Platform :=
  match s.cur with
  | .event (.pkg p) => s.plat? p
  | _ => none

/-- MP_WATCHDOG_RESET: the management processor reads its intent record, and rolls a valid change forward or discards it. -/
def execMpWatchdogReset (s : State) : Host.Outcome State Fault Refusal :=
  match s.eventPkg with
  | some q =>
    if q.intent.valid && Config.sm3 (q.bank q.intent.bankB).bytes == q.intent.digest then .next (s.phaseTwo q.pkg)
    else .next (s.updPlat q.pkg (fun q => { q with intent := { q.intent with valid := false } }))
  | none => .next s

/-! ## Resets and recovery (R21, R262 to R264) -/

/-- A package joins the domain when it is first reset (R20). -/
def State.joined (s : State) (p : Pkg) : State :=
  if (s.plat? p).isSome then s
  else { s with platforms := s.platforms ++ [{ Platform.reset with pkg := p }], domW := Nat.max s.domW (p.px + 1), domH := Nat.max s.domH (p.py + 1) }

/-- Whether the security block accepts a firmware image (R262). -/
def firmwareOk (fused : Nat) (image : List Byte) : Bool := Config.sm2Valid image && fused ≤ Config.securityVersion image

/-- The two ends of a link (R208). -/
def State.linkEnds (s : State) (p : Pkg) (e : Edge) (half : Nat) : List DownLink :=
  [{ pkg := p, edge := e, half := half }, { pkg := s.neighbour p e, edge := e.opposite, half := half }]

/-- The Scarf links of a package are trained: all of them work again but those that training finds lost (R262). -/
def State.trainLinks (s : State) (p : Pkg) (lost : List (Edge × Nat)) : State :=
  let ends := fun (l : List (Edge × Nat)) => l.flatMap (fun x => s.linkEnds p x.1 x.2)
  let mine := ends ([Edge.north, .south, .west, .east].flatMap (fun e => [(e, 0), (e, 1)]))
  { s with down := s.down.filter (fun d => !mine.contains d) ++ (ends lost).eraseDups }

/-- A layout change that is committed and not yet active is taken as the firmware starts, as after a watchdog reset (R267). -/
def Platform.rolled (q : Platform) : Platform :=
  if q.intent.valid && Config.sm3 (q.bank q.intent.bankB).bytes == q.intent.digest then { q with activeB := q.intent.bankB } else q

/-- The firmware boots: built-in test, training, enumeration, the active layout, Kiln, BAR2 and READY (R262). -/
def State.boot (s : State) (p : Pkg) (b : BistReport) : State :=
  let s := s.updPlat p Platform.rolled
  let l := ((s.plat? p).map (fun q => q.bank q.activeB)).getD Layout.empty
  let s := s.updPlat p (fun q => { q with
    ready := true, recovery := false, recfail := false, recstack := 0, reclen := 0, apbase := 0, bar2 := true, kiln := true,
    running := q.flash, library := Config.libraryOf q.flash, session := none,
    intent := { q.intent with valid := false }, applied := Layout.empty, sinter := enumerate b.sinter, thermal := .cool, admitStop := false,
    power := true, held := false, cxl := false, msix := [], keys := [], boots := q.boots + 1, faultSeq := 0, gens := [], cycles0 := s.now,
    layoutBusy := false })
  ((s.fence p b).trainLinks p b.links).applyLayout p l

/-- The device enters recovery: the compute dies are held in reset, and one HBM4 stack is trained for the image (R264). -/
def State.enterRecovery (s : State) (p : Pkg) (b : BistReport) : State :=
  let k := (List.range 8).find? (fun k => !b.lostStacks.contains k)
  s.updPlat p (fun q => { q with
    ready := false, recovery := true, recfail := k.isNone, recstack := k.getD 8, reclen := 0, apbase := 0, bar2 := false, kiln := false,
    held := true, power := true, session := none, keys := [], applied := Layout.empty, thermal := .cool })

/-- The firmware image is read from flash, if it can be, and checked, and booted or not (R262). -/
def State.tryBoot (s : State) (p : Pkg) (b : BistReport) (flashOk : Bool) : State :=
  match s.plat? p with
  | some q => if flashOk && firmwareOk q.fusedMin q.flash then s.boot p b else s.enterRecovery p b
  | none => s

/-- COLD_RESET: everything a package holds but its memory is lost, and it boots from flash with the layout of its active
bank, or enters recovery. `flashOk` says whether the boot ROM can read the flash. -/
def execColdReset (p : Pkg) (bist : BistReport) (flashOk : Bool) (s : State) : Host.Outcome State Fault Refusal :=
  if p.px < 64 ∧ p.py < 64 then .next (((s.joined p).emptied p).tryBoot p bist flashOk) else .next s

/-- COMPUTE_DIE_RESET: built-in test runs again; the raisings and what is in transit are lost, the keys and the Sinter store stand. -/
def execComputeDieReset (p : Pkg) (bist : BistReport) (s : State) : Host.Outcome State Fault Refusal :=
  match s.plat? p with
  | some q => if q.held || !q.power then .next s else .next (((s.loseRaisings p).dropTransit p).fence p bist)
  | none => .next s

/-- RECDOOR: the image at the start of the stack in use is checked; it goes to flash and boots, or RECFAIL is set (R264). `flashOk` says whether the boot ROM
can read the flash as it boots. -/
def execRecdoor (p : Pkg) (bist : BistReport) (flashOk : Bool) (s : State) : Host.Outcome State Fault Refusal :=
  match s.plat? p with
  | some q =>
    if !q.recovery then .next s
    else
      let image := if q.reclen ≤ 0x10000000 then s.readBytes (gaOf p (q.recstack * 0xC00000000)) q.reclen else []
      if q.reclen ≤ 0x10000000 ∧ q.recstack < 8 ∧ firmwareOk q.fusedMin image then
        .next ((s.updPlat p (fun q => { q with flash := image })).tryBoot p bist flashOk)
      else .next (s.updPlat p (fun q => { q with recfail := true }))
  | none => .next s

/-- FIRMWARE_UPDATE: a new image goes to flash, for the next cold reset (R263). -/
def execFirmwareUpdate (p : Pkg) (image : List Byte) (s : State) : Host.Outcome State Fault Refusal :=
  .next (s.updPlat p (fun q => if q.ready then { q with flash := image } else q))

/-- BOOT_CONFIRM: Kiln confirms the running image, and the fused minimum security version rises to its (R263). -/
def execBootConfirm (s : State) : Host.Outcome State Fault Refusal :=
  match s.eventPkg with
  | some q => .next (s.updPlat q.pkg (fun q => if q.kiln then { q with fusedMin := Nat.max q.fusedMin (Config.securityVersion q.running) } else q))
  | none => .next s

/-- FABRIC_RESET: what is in transit in the package's routers is lost; the Sinter store's contents, checkpoints and keys survive (R266, R268). -/
def execFabricReset (s : State) : Host.Outcome State Fault Refusal :=
  match s.eventPkg with
  | some q => .next (s.dropTransit q.pkg)
  | none => .next s

/-- HUB_RESET: the memory encryption keys are erased (R266). -/
def execHubReset (s : State) : Host.Outcome State Fault Refusal :=
  match s.eventPkg with
  | some q => .next (s.updPlat q.pkg (fun q => { q with keys := [] }))
  | none => .next s

/-- POWER_LOSS: a package loses its state, its keys and the contents of its memories; the Sinter store's too, with the checkpoints in it, when
its rail loses power (R2, R266, R268). -/
def execPowerLoss (p : Pkg) (rail : Bool) (s : State) : Host.Outcome State Fault Refusal :=
  let s := s.emptied p
  let lost := fun (ga : Nat) => gaPkg ga == p && (rail || regionOf (gaPhys ga) != .sinter)
  let s := { s with
    mem := s.mem.filter (fun c => !lost c.1)
    enc := s.enc.filter (fun u => !lost (u.unit * 32))
    ecc := s.ecc.filter (fun u => !lost (u * 32))
    presence := s.presence.filter (fun w => gaPkg (8 * w) != p)
    checkpoints := s.checkpoints.filter (fun c => !(rail && c.pkgs.contains p)) }
  .next (s.updPlat p (fun q => { q with ready := false, power := false, kiln := false, bar2 := false, held := true, keys := [], running := [] }))

/-! ## Heat (R270) -/

/-- The envelope of a partition on a package. -/
def Partition.envelopeOn (q : Partition) (p : Pkg) : Nat :=
  if q.shares.isEmpty then q.lay.envelope else ((q.shares.filter (·.1 == p)).map (·.2.envelope)).foldl (· + ·) 0

/-- Sets a partition's envelope on a package. -/
def Partition.setEnvelope (q : Partition) (p : Pkg) (f : Nat → Nat) : Partition :=
  if q.shares.isEmpty then { q with lay := { q.lay with envelope := f q.lay.envelope } }
  else q.merged (q.shares.map (fun x => if x.1 == p then (x.1, { x.2 with envelope := f x.2.envelope }) else x))

/-- Sets the envelopes of a package that a list names, while their sum stays within the package's power limit (R1, R237). -/
def State.setEnvelopes (s : State) (p : Pkg) (es : List (Nat × Nat)) (f : Nat → Nat → Nat) : State :=
  let t := es.foldl (fun s e => s.updPart e.1 (fun q => q.setEnvelope p (fun n => f n e.2))) s
  if (t.parts.map (·.envelopeOn p)).foldl (· + ·) 0 ≤ packagePower then t else s

/-- THERMAL_95C: the management processor lowers envelopes for admissions from then on. -/
def execThermal95c (p : Pkg) (envelopes : List (Nat × Nat)) (s : State) : Host.Outcome State Fault Refusal :=
  .next ((s.setEnvelopes p envelopes Nat.min).updPlat p (fun q => { q with thermal := if q.thermal == .cool then .warm else q.thermal }))

/-- THERMAL_105C: all admission stops. -/
def execThermal105c (s : State) : Host.Outcome State Fault Refusal :=
  match s.eventPkg with
  | some q => .next (s.updPlat q.pkg (fun q => { q with thermal := if q.thermal == .off then .off else .hot, admitStop := true }))
  | none => .next s

/-- THERMAL_115C: the compute dies lose power, and the raisings are lost. -/
def execThermal115c (s : State) : Host.Outcome State Fault Refusal :=
  match s.eventPkg with
  | some q => .next (((s.loseRaisings q.pkg).dropTransit q.pkg).updPlat q.pkg (fun q => { q with thermal := .off, power := false, admitStop := true }))
  | none => .next s

/-- TEMPERATURE_FALL: below 105 °C admission starts again; below 95 °C the management processor sets the envelopes anew. -/
def execTemperatureFall (p : Pkg) (envelopes : List (Nat × Nat)) (s : State) : Host.Outcome State Fault Refusal :=
  match s.plat? p with
  | some q =>
    match q.thermal with
    | .hot => .next (s.updPlat p (fun q => { q with thermal := .warm, admitStop := false }))
    | .warm => .next ((s.setEnvelopes p envelopes (fun _ n => n)).updPlat p (fun q => { q with thermal := .cool }))
    | _ => .next s
  | none => .next s

/-! ## The host's accesses (R258, R259, R264) -/

/-- Whether the host reaches a physical address: of the map through BAR4, and of HBM4 and the Sinter store alone over CXL.mem. -/
def State.hostSees (s : State) (p : Pkg) (cxl : Bool) (pa : Nat) : Bool :=
  s.physOk p pa &&
  (match regionOf pa with
    | .hbm _ => true
    | .sinter => true
    | .vault _ => !cxl
    | _ => false)

/-- The address of each byte of a host access: none where it is reserved. -/
def State.hostAddrs (s : State) (p : Pkg) (cxl : Bool) (pa n : Nat) : List (Option Nat) :=
  (addrsFrom pa n).map (fun a => if s.hostSees p cxl a then some (gaOf p a) else none)

/-- The address of each byte of a BAR4 access in recovery: the first 256 MiB map the start of the stack in use (R264). -/
def recoveryAddrs (p : Pkg) (stack off n : Nat) : List (Option Nat) :=
  (addrsFrom off n).map (fun a => if a < 0x10000000 ∧ stack < 8 then some (gaOf p (stack * 0xC00000000 + a)) else none)

/-- A host read: raw bytes, and all ones where the range is reserved (R259); none where an error stands at its unit (R186). -/
def State.hostGet (s : State) : List (Option Nat) → Option (List Byte × State)
  | [] => some ([], s)
  | none :: as => (s.hostGet as).map (fun r => (0xFF :: r.1, r.2))
  | some ga :: as =>
    match s.portReady ga 1 with
    | .ready s => if s.eccIn ga 1 then none else (s.hostGet as).map (fun r => ((s.readBytes ga 1).headD 0 :: r.1, r.2))
    | _ => none

/-- A host write: raw bytes; those of a reserved range are discarded. -/
def State.hostPut (s : State) : List (Option Nat) → List Byte → Option State
  | some ga :: as, b :: bs =>
    match s.portReady ga 1 with
    | .ready s => (s.writeBytes ga [b]).hostPut as bs
    | _ => none
  | none :: as, _ :: bs => s.hostPut as bs
  | _, _ => some s

/-- One host access at the addresses of its bytes, counted in HOSTBAD when a part of its range is reserved. -/
def State.hostDo (s : State) (p : Pkg) (as : List (Option Nat)) (bytes : Option (List Byte)) (bad : Bool) : State :=
  let t := match bytes with
    | some bs => (s.hostPut as bs).getD s
    | none => match s.hostGet as with
      | some r => r.2.updPlat p (fun q => { q with hostRead := r.1 })
      | none => s.updPlat p (fun q => { q with hostRead := [] })
  if bad && as.any Option.isNone then t.count .hostbad p 0 else t

/-- BAR0 STATUS (R262, R264, R267; log 97). -/
def Platform.status (q : Platform) : Nat :=
  q.ready.toNat + 2 * q.recfail.toNat + 4 * q.recovery.toNat + 8 * q.layoutBusy.toNat + 256 * q.recstack

/-- What a BAR0 register reads as (R259, R260, R269). -/
def State.hostReg (s : State) (q : Platform) : HostReg → Nat
  | .inghead v => ((s.vdev? v).filter (·.home == q.pkg)).elim 0 (·.ingress.head)
  | .apbase => q.apbase
  | .status => q.status
  | .ras name idx => (s.ras.find? (fun c => c.name == name && c.pkg == q.pkg && c.idx == idx)).elim 0 (·.count.toNat)

/-- Whether a host access waits for a line of a migrating page whose record is pending (R182). -/
def State.hostBlocked (s : State) (as : List (Option Nat)) : Bool :=
  as.any (fun a => a.elim false (fun ga => match s.portReady ga 1 with
    | .waits => true
    | _ => false))

/-- The addresses of the bytes that a host access to memory names, with what it writes; none for a register. -/
def State.hostRange (s : State) (q : Platform) (acc : HostAccess) : Option (List (Option Nat) × Option (List Byte)) :=
  let bar := fun (off n : Nat) => if q.recovery then recoveryAddrs q.pkg q.recstack off n else s.hostAddrs q.pkg false (q.apbase + off) n
  match acc with
  | .barRead off n => if off + n ≤ 2 ^ 36 then some (bar off n, none) else none
  | .barWrite off bs => if off + bs.length ≤ 2 ^ 36 then some (bar off bs.length, some bs) else none
  | .memRead pa n => if q.cxl && !q.recovery then some (s.hostAddrs q.pkg true pa n, none) else none
  | .memWrite pa bs => if q.cxl && !q.recovery then some (s.hostAddrs q.pkg true pa bs.length, some bs) else none
  | _ => none

/-- Performs the accesses of the host that wait at a package, in order, to the first that still waits (R182). -/
def State.hostResume (s : State) (q : Platform) : List (Pkg × HostAccess) → State
  | [] => { s with hostWaits := s.hostWaits.filter (·.1 != q.pkg) }
  | x :: xs => match s.hostRange q x.2 with
    | some (as, bytes) => if s.hostBlocked as then { s with hostWaits := s.hostWaits.filter (·.1 != q.pkg) ++ x :: xs }
        else (s.hostDo q.pkg as bytes (!q.recovery)).hostResume q xs
    | none => s.hostResume q xs

/-- HOST_MEMORY_ACCESS: a BAR4 or CXL.mem access, performed at the home without decryption, which waits for a migrating line behind those that wait before
it (R182, R259); a read of a BAR0 register, or a write of APBASE or RECLEN; or what waits is performed. -/
def execHostMemoryAccess (p : Pkg) (acc : HostAccess) (s : State) : Host.Outcome State Fault Refusal :=
  match s.plat? p with
  | none => .next s
  | some q =>
    match acc with
    | .regRead r => .next (s.updPlat p (fun q => { q with hostRead := bytesOf 8 (s.hostReg q r) }))
    | .setApbase v =>
      if v % 2 ^ 36 = 0 ∧ v < 0x8000000000000 ∧ !q.recovery then .next (s.updPlat p (fun q => { q with apbase := v })) else .next s
    | .setReclen v =>
      if q.recovery then .next (s.updPlat p (fun q => { q with reclen := v, recfail := q.recfail || 0x10000000 < v })) else .next s
    | .resume => .next (s.hostResume q (s.hostWaits.filter (·.1 == p)))
    | _ =>
      match s.hostRange q acc with
      | none => .next s
      | some (as, bytes) =>
        if s.hostWaits.any (·.1 == p) || s.hostBlocked as then .next { s with hostWaits := s.hostWaits ++ [(p, acc)] }
        else .next (s.hostDo p as bytes (!q.recovery))

/-- MSIX_VECTOR_ENABLE: the host enables or disables a vector (R258). -/
def execMsixVectorEnable (p : Pkg) (vec : Nat) (on : Bool) (s : State) : Host.Outcome State Fault Refusal :=
  .next (s.updPlat p (fun q => if vec < 2048 then { q with msix := if on then setIns q.msix vec else setDel q.msix vec } else q))

/-- CXL_ENABLE: the port operates as a CXL type 2 device (R258). -/
def execCxlEnable (s : State) : Host.Outcome State Fault Refusal :=
  match s.eventPkg with
  | some q => .next (s.updPlat q.pkg (fun q => { q with cxl := true }))
  | none => .next s

/-- The data of a measurement block (R265). -/
def Platform.measured (q : Platform) (block : Nat) : List Byte :=
  match block with
  | 0 => bytesOf 32 (Config.sm3 q.running).toNat
  | 1 => bytesOf 8 (Config.securityVersion q.running)
  | 2 => bytesOf 32 (Config.sm3 (q.bank q.activeB).bytes).toNat
  | 3 => q.fenced.flatMap (fun c => bytesOf 2 (c.2 * 128 + c.1)) ++ q.fencedClus.flatMap (fun c => bytesOf 2 (c.2 * 32 + c.1))
  | _ => []

/-- The number of a device, which its identity key and certificate go by. -/
def Platform.device (q : Platform) : Nat := 64 * q.pkg.py + q.pkg.px

/-- What the responder answers to a request, with the session it leaves: 0 to 3 for a measurement block, 0x80 for the certificate, 0x81 for a key exchange
(R265; log 14). -/
def Platform.respond (q : Platform) : SpdmAsk → Option (Nat × List Byte × Option (BitVec 128))
  | .certificate => some (0x80, Config.certificate q.device, q.session)
  | .measurement block nonce =>
    if block < 4 then
      let m := q.measured block
      some (block, m ++ Config.sm2Sign (Config.identityKey q.device) (bytesOf 1 block ++ bytesOf 32 nonce ++ m), q.session)
    else none
  | .exchange peer =>
    let x := Config.sm2Exchange (Config.identityKey q.device) peer
    some (0x81, x.2 ++ Config.sm2Sign (Config.identityKey q.device) (peer ++ x.2), some x.1)

/-- SPDM_REQUEST: the security block answers, in an SM4-GCM session where the request comes in one (R265). -/
def execSpdmRequest (p : Pkg) (r : SpdmReq) (s : State) : Host.Outcome State Fault Refusal :=
  .next (s.updPlat p (fun q => match q.respond r.ask with
    | some (code, bs, session) =>
      if r.secured then (match q.session with
        | some k => { q with spdm := q.spdm ++ [(code, Config.sm4Gcm k bs)], session := session }
        | none => q)
      else { q with spdm := q.spdm ++ [(code, bs)], session := session }
    | none => q))

/-- RAS_COUNTER_CLEAR: a write clears a counter; an increment in the same cycle survives (R269). -/
def execRasCounterClear (p : Pkg) (name : RasName) (idx : Nat) (racing : Bool) (s : State) : Host.Outcome State Fault Refusal :=
  let t := { s with ras := s.ras.filter (fun c => !(c.name == name && c.pkg == p && c.idx == idx)) }
  .next (if racing then t.count name p idx else t)

/-! ## Ingress windows (R260, R261) -/

/-- Counts a drop of a window (R260, R261). -/
def State.ingDrop (s : State) (d : Vdev) : State := s.count .ingdrop d.home (64 * d.vdr.part + d.vdr.vd)

/-- The virtual device and the slot that a BAR2 offset names: the window of partition p and virtual device v starts at (64 × p + v) × 64 KiB (R259). -/
def windowAt (off : Nat) : VdRef × Nat := ({ part := off / 0x10000 / 64, vd := off / 0x10000 % 64 }, off % 0x10000 / 64)

/-- INGRESS_RECORD_WRITE: the host writes a record at a BAR2 offset; a slot that INGHEAD has not passed keeps its record (R259, R260). BAR2 of
the home package alone serves a virtual device of a partition that spans packages; a write at another is ignored (log 110). -/
def execIngressRecordWrite (p : Pkg) (off : Nat) (record : BitVec 512) (s : State) : Host.Outcome State Fault Refusal :=
  let v := (windowAt off).1
  let slot := (windowAt off).2
  match s.vdev? v with
  | some d =>
    if d.home != p || off % 64 ≠ 0 || 2 ^ 26 ≤ off || !((s.plat? d.home).elim false (·.bar2)) then .next s
    else if d.ingress.slots.any (·.1 == slot) then .next (s.ingDrop d)
    else .next (s.updVdev v (fun d => { d with ingress := { d.ingress with slots := d.ingress.slots ++ [(slot, record)] } }))
  | none => .next s

/-- A field of a record, by bytes. -/
def recF (r : BitVec 512) (byte n : Nat) : Nat := r.toNat / 2 ^ (8 * byte) % 2 ^ (8 * n)

/-- The record at INGHEAD of the window of the event's virtual device. -/
def State.headRecord (s : State) : Option (Vdev × BitVec 512) :=
  match s.cur with
  | .event (.vdev v) =>
    match s.vdev? v with
    | some d => (d.ingress.slots.find? (·.1 == d.ingress.head)).map (fun r => (d, r.2))
    | none => none
  | _ => none

/-- Consumes the record at INGHEAD. -/
def State.consume (s : State) (v : VdRef) : State :=
  s.updVdev v (fun d => { d with ingress := { d.ingress with
    head := (d.ingress.head + 1) % 1024, slots := d.ingress.slots.filter (·.1 != d.ingress.head) } })

/-- The raising that an OPEN binds at once: of its image, and launched by QSEL's queue or admitted first (R261). -/
def State.boundNow (s : State) (v : VdRef) (id : W64) (qsel : Option Nat) : Option Nat :=
  let mine := (s.raisingsOf v).filter (fun r => r.image == id && (qsel.isNone || qsel == some r.queue))
  match mine with
  | [] => none
  | r :: rs => some (rs.foldl (fun (b : Raising) x => if x.admitted < b.admitted || (x.admitted == b.admitted && x.rid < b.rid) then x else b) r).rid

/-- INGRESS_OPEN: the hub consumes an OPEN record and binds its window; the image's load starts if it is not resident. An OPEN that follows
tokens still waiting for an earlier binding waits for them. -/
def execIngressOpen (s : State) : Host.Outcome State Fault Refusal :=
  match s.headRecord with
  | some (d, r) =>
    if recF r 0 2 ≠ 1 ∨ !d.ingress.waiting.isEmpty then .next s
    else
      let id := BitVec.ofNat 64 (recF r 32 8)
      let va := recF r 40 8
      let q := recF r 48 1
      let qsel := if 128 ≤ q then some (q % 64) else none
      let b : Binding := { image := id, qsel := qsel, rid := s.boundNow d.vdr id qsel, ended := false, rejected := false, since := s.now }
      let s := (s.consume d.vdr).updVdev d.vdr (fun d => { d with ingress := { d.ingress with binding := some b } })
      .next (s.askImage d.vdr id va none none true)
  | none => .next s

/-- INGRESS_TOKEN: the hub consumes any other record: a TOKEN waits for its raising; a reserved RTYPE, a TOKEN with no binding that holds, and
PORT 11 are dropped (R261). -/
def execIngressToken (s : State) : Host.Outcome State Fault Refusal :=
  match s.headRecord with
  | some (d, r) =>
    if recF r 0 2 = 1 then .next s
    else
      let s := s.consume d.vdr
      let holds := match d.ingress.binding with
        | some b => !b.ended && !b.rejected
        | none => false
      if recF r 0 2 ≠ 2 ∨ !holds ∨ recF r 10 1 % 4 = 3 then .next (s.ingDrop d)
      else .next (s.updVdev d.vdr (fun d => { d with ingress := { d.ingress with waiting := d.ingress.waiting ++ [r] } }))
  | none => .next s

/-- The token of a record (R25, R260). -/
def recToken (r : BitVec 512) : Token :=
  { pay := r.extractLsb' 256 256, tag := BitVec.ofNat 32 (recF r 4 4),
    shape := (match recF r 10 1 / 4 % 4 with
      | 0 => .scalar
      | 1 => .vector
      | 2 => .null
      | _ => .tileHead), seq := 0, body := [] }

/-- The port of a record. -/
def recPort (r : BitVec 512) : Port :=
  match recF r 10 1 % 4 with
  | 0 => .a
  | 1 => .b
  | _ => .p

/-- INGRESS_TOKEN_INJECT: once the bound raising is placed, the first waiting token enters the fabric at the hub, as a fan-list entry with
RMT = 1 would send it (R191, R261). -/
def execIngressTokenInject (s : State) : Host.Outcome State Fault Refusal :=
  match s.cur with
  | .event (.vdev v) =>
    match s.vdev? v with
    | some d =>
      match d.ingress.waiting, d.ingress.binding with
      | r :: rest, some b =>
        let t := s.updVdev v (fun d => { d with ingress := { d.ingress with waiting := rest } })
        if b.ended || b.rejected then .next (t.ingDrop d)
        else match b.rid with
          | none => .next s
          | some rid =>
            match s.raising? rid with
            | none => .next (t.ingDrop d)
            | some x =>
              let dst : Dest := { bent := recF r 8 1, blk := recF r 2 2, slot := recF r 9 1, port := recPort r }
              let k := recToken r
              match x.bents[dst.bent]?, x.blocks[dst.blk]? with
              | some n, some b =>
                match if b.bent = dst.bent then b.slots[dst.slot]? else none with
                | none => .next (t.count .misroute d.home (portVc (Node.hub d.home 3 0).port.2 0))
                | some p =>
                  let cell := n.cell (t.slotCell n p).1 (t.slotCell n p).2
                  let (id, t) := t.newId
                  .next (t.inject (.hub d.home 3 (if cell.pkg = d.home then cell.die else 0))
                    { mid := id, kind := .token, src := dieCell d.home 0, dst := cell, unit := .slot rid dst, hubDst := false, tag := k.tag,
                      len := 0, trim := false, gen := t.genOf cell, seq := 0, space := none, part := v.part, sub := 0, body := .tok rid dst k })
              | _, _ => .next (t.ingDrop d)
      | _, _ => .next s
    | none => .next s
  | _ => .next s

end Sys2Proof.Machine
end

