-- ==== Sys2Proof/Machine/Fabric.lean ====
section
/-! DEFINITION. The scale-up fabric: hops, credits and trimming (R194 to R199), re-requests and exhaustion (R201, R202, R110), reorder windows
and SACKs (R204), deduplication (R205), errors (R207, R208), and links that go down. -/

namespace Sys2Proof.Machine

open Sys2Proof

/-! ## The bits of a message (R189, R190, R192, R193, R207, R212) -/

/-- The 28 bits that name a cell in a header: package column and row, die, and the cell's column and row on its die. -/
def CellId.code (c : CellId) : Nat :=
  c.pkg.px % 128 * 2 ^ 21 + c.pkg.py % 128 * 2 ^ 14 + c.die * 2 ^ 12 + c.x % 64 * 2 ^ 6 + c.y % 64

/-- The 28 bits of SRC: the sender, or, of an MCUP, its group, first rank, K, mode, OP and TY (R212). -/
def Msg.srcCode (m : Msg) : Nat :=
  match m.body with
  | .mcu n g => g % 256 * 2 ^ 20 + n.first % 64 * 2 ^ 14 + n.k % 8 * 2 ^ 11 + n.rnd.toNat * 2 ^ 8 + n.op % 16 * 2 ^ 4 + n.ty % 16
  | _ => m.src.code

/-- PORT of a header: a slot's port, and 11 for a unit (R190, R192). A continuation is named by port A of its slot. -/
def FUnit.portCode (u : FUnit) : Nat :=
  match u with
  | .slot _ d => (match d.port with
    | .a => 0
    | .b => 1
    | .p => 2)
  | .cont _ => 0
  | _ => 3

/-- SLOT of a header: a slot, the slot of the continuation's instruction, or a unit's code (R190, R192). -/
def State.slotCode (s : State) (u : FUnit) : Nat :=
  match u with
  | .cont id => (match s.req? id with
    | some r => r.slot
    | none => (s.mcops.find? (·.id == id)).elim 0 (·.slot))
  | u => u.code

/-- SEQ of a header: the flags of a combined sub-sum, or the message's own (R190, R212). -/
def Msg.seqCode (m : Msg) : Nat :=
  match m.body with
  | .mcu n _ => if m.space.isNone then n.flags.toNat % 32 else m.seq % 512
  | _ => m.seq % 512

/-- The 128-bit header of a message, which each of its flits repeats (R189, R190). -/
def State.header (s : State) (m : Msg) : BitVec 128 :=
  BitVec.ofNat 128 (m.dst.code * 2 ^ 100 + m.srcCode * 2 ^ 72 + m.unit.portCode * 2 ^ 70 + s.slotCode m.unit % 128 * 2 ^ 63 +
    m.tag.toNat * 2 ^ 31 + m.vc % 8 * 2 ^ 28 + m.kind.code % 32 * 2 ^ 23 + m.len % 16 * 2 ^ 19 + (if m.trim then 2 ^ 18 else 0) +
    (if m.vrel then 2 ^ 17 else 0) + m.shape.code * 2 ^ 15 + m.gen % 64 * 2 ^ 9 + m.seqCode)

/-- The payload of an ERROR: its CODE, CAUSE and ADDR (R207). -/
def errorPay (code cause addr : Nat) : W256 := BitVec.ofNat 256 (code % 2 ^ 16 + cause % 2 ^ 16 * 2 ^ 16 + addr % 2 ^ 64 * 2 ^ 32)

/-- The 256-bit payloads of a message, one for each flit, where the spec lays them out: a token's, an ERROR's, a contribution's lanes, the bytes of a
unit of bulk, and the data of a request or its answer. -/
def State.payloads (s : State) (m : Msg) : List W256 :=
  match m.body with
  | .tok _ _ t => (t.pay :: t.body).drop (t.body.length - m.len)
  | .burst _ _ l => l
  | .err _ _ code cause addr => [errorPay code cause addr]
  | .mcu n _ => [n.lanes]
  | .bulk id => [BitVec.ofNat 256 (natOfBytes ((s.bulks.find? (·.id == id)).elim [] (·.bytes)))]
  | .req id => [(s.req? id).elim 0 (·.data)]
  | .rep _ (.val v) => [v]
  | .mcq id _ => [((s.mcops.find? (·.id == id)).bind (·.data)).getD 0]
  | _ => [0]

/-- Whether a message is a single beat with no payload: a trimmed header, or a kind marked header-only (R189, R193, R199). -/
def Msg.headerOnly (m : Msg) : Bool :=
  m.trim || (match m.kind with
    | .sack | .rereq | .keepwait | .busy => true
    | _ => false)

/-- The flits of a message: its header, with 256 bits of payload above it in each (R189). A header-only message has none, and travels as one beat. -/
def State.flits (s : State) (m : Msg) : List (BitVec 384) :=
  if m.headerOnly then []
  else (s.payloads m).map (fun p => BitVec.ofNat 384 ((s.header m).toNat * 2 ^ 256 + p.toNat))

/-- The beats of 128 bits in which a message crosses a Scarf link: of each flit its header, then the low and the high half of its payload (R189). -/
def State.beats (s : State) (m : Msg) : List (BitVec 128) :=
  if m.headerOnly then [s.header m]
  else (s.flits m).flatMap (fun f => [f.extractLsb' 256 128, f.extractLsb' 0 128, f.extractLsb' 128 128])

/-! ## Bulk (R202, R325, R387) -/

/-- A unit of bulk that an error ended: it waits to be sent again, and its copy or QCOPY is withheld at that unit (R159, R202, R387). -/
def State.bulkError (s : State) (id : Nat) (i : FaultInfo) : State :=
  match s.bulks.find? (·.id == id) with
  | none => s
  | some b =>
    let s := { s with bulks := updIf s.bulks (·.id == id) (fun b => { b with lost := true }) }
    match b.owner with
    | .copy br cX cY cid =>
      match (s.clus? br cX cY).bind (fun k => k.copies.find? (·.id == cid)) with
      | some x => if x.frozen then s else s.copyFault br cX cY x (s.copyPlan br.rid x.blk x.slot x.atok) { i with j := b.at_ }
      | none => s
    | .qcopy v q qid =>
      match s.queue? v q with
      | some x => (match x.work with
        | some (.copy a d len sh pos false wid gens) =>
          if wid = qid then s.qcopyFault x (.copy a d len sh pos true wid gens) b.at_ (s.portAux ((b.dst.headD (0, 0)).1)) i else s
        | _ => s)
      | none => s

/-- The virtual device whose addresses a unit of bulk names, and the package whose Lahar or memory port found its homes. -/
def State.bulkFor (s : State) (b : Bulk) : VdRef × Pkg :=
  match b.owner with
  | .copy br _ _ _ => (s.vdOf br.rid, ((s.bent? br).map (·.pkg)).getD b.src.pkg)
  | .qcopy v _ _ => (v, ((s.vdev? v).map (·.home)).getD b.src.pkg)

/-- The homes of a unit of bulk as it is performed: as they were found, or, where a buffer has changed its generation since, in the set that is visible
now (R100). -/
def State.bulkHomes (s : State) (b : Bulk) : Except FaultInfo (List (Nat × Nat)) × State :=
  let f := s.bulkFor b
  match b.vas with
  | [] => (.ok b.dst, s)
  | a :: _ =>
    if b.sh || s.gensNow f.1 b.vas == b.gens then (.ok b.dst, s)
    else match s.engineAccess f.2 f.1 [] (s.visibleVa f.1 (a % 2 ^ 55) []) needWr with
      | (.ok w, _, s) => (.ok (b.vas.map (fun a => (w.ga f.2 (s.visibleVa f.1 (a % 2 ^ 55) []), s.keyOf f.2 f.1.part w.leaf))), s)
      | (.bad i, _, s) => (.error { i with addr := a }, s)

/-- A unit of bulk is performed where it was sent: into the Lahar's buffer, or at its homes once their ports are ready, and, in a shadow, once no reader
of an older generation is left (R103). None while it waits. -/
def State.bulkPerform (s : State) (b : Bulk) : Option State :=
  let done := fun (s : State) => { s with bulks := updIf s.bulks (·.id == b.id) (fun b => { b with done := true }) }
  match b.owner, b.dst with
  | .copy br cX cY cid, [] =>
    some (({ s with bulks := s.bulks.filter (·.id != b.id) } : State).updCopy br cX cY cid (fun x => { x with buf := x.buf ++ List.zip b.places b.bytes }))
  | _, _ =>
    if b.sh && s.shWaits (s.bulkFor b).1 b.vas then none
    else match s.bulkHomes b with
    | (.error i, s) => some (s.bulkError b.id { i with wr := true })
    | (.ok l, s) =>
      match s.portsReady l with
      | none => none
      | some (.ok s) => some (done (s.putBytes l b.bytes))
      | some (.error i) => some (s.bulkError b.id { i with wr := true })

/-! ## Hops (R191, R194 to R196) -/

/-- The dateline subchannel of a message after a hop (R196): 1 past the link between the last coordinate and 0, 0 on entering a package or
turning into Y. -/
def State.subAfter (s : State) (n out : Node) (sub : Nat) : Nat :=
  match n, out with
  | .edge p e _, .edge q f _ =>
    if p ≠ q then
      let wraps := match e with
        | .east => p.px + 1 == s.domW
        | .west => p.px == 0
        | .south => p.py + 1 == s.domH
        | .north => p.py == 0
      if wraps then 1 else sub
    else if f.isX = e.isX then sub else 0
  | _, _ => 0

/-- The incoming link of a cell's element by which a token comes (R449): from its own router, or from a neighbour. -/
def linkOf (n out : Node) : Nat :=
  match n, out with
  | .cell a, .cell b => if a.y < b.y then 1 else if b.y < a.y then 2 else if a.x < b.x then 3 else if b.x < a.x then 4 else 0
  | .edge _ .north _, _ => 1
  | .edge _ .south _, _ => 2
  | .edge _ .west _, _ => 3
  | .edge _ .east _, _ => 4
  | _, _ => 0

/-- Whether every package link on the route from a router to a cell is up, and its package in the domain (R20, R208). -/
def State.routable (s : State) (n : Node) (dst : CellId) : Bool :=
  s.inDomain dst.pkg &&
  (n.pkg == dst.pkg || (let path := n :: s.pathTo dst 4096 n
    (List.zip path (path.drop 1)).all (fun x => !s.hopDown x.1 x.2)))

/-- A message that cannot be delivered: a request's continuation is told REMOTE_FAULT with CAUSE 0, a member is absent, and anything else is
dropped and counted (R208, R213). A trimmed header has the continuation of its message. -/
def State.bounce (s : State) (n : Node) (m : Msg) : State :=
  let lost := s.count .misroute n.port.1 (portVc n.port.2 m.vc)
  match m.kind, m.body with
  | .mcdata, .mcq id rank => s.updOp id (fun o => { o with members := o.members.set rank .absent })
  | .mcrq, .mcq id rank => s.updOp id (fun o => { o with members := o.members.set rank .absent })
  | .error, _ => lost
  | _, .req id =>
    let (mid, s) := s.newId
    s.inject n { mid := mid, kind := .error, src := m.dst, dst := m.src, unit := .cont id, hubDst := false, tag := m.tag, len := 0, trim := false,
                   gen := 0, seq := m.seq, space := m.space, part := m.part, sub := 0, body := .err (some id) none Cause.remoteFault.code 0 0 }
  | _, .bulk id => s.bulkError id { cause := .remoteFault }
  | _, _ => lost

/-! ## Delivery -/

/-- A message with its own payload takes the place of the trimmed headers recorded for it (R201). -/
def State.arrivedWhole (s : State) (m : Msg) : State :=
  { s with trims := s.trims.filter (fun e => !(e.pkg == m.dst.pkg && e.die == m.dst.die && e.space == m.space && e.seq == m.seq && e.msg.body == m.body)) }

/-- The reorder window of a space. -/
def State.window (s : State) (sp : Space) : Reorder :=
  (s.reorders.find? (·.space == sp)).getD { space := sp, next := 0, held := [], unsacked := 0, oldest := 0, ended := [] }

/-- Whether a window has delivered or ended a SEQ, or holds it. -/
def Reorder.knows (w : Reorder) (seq : Nat) : Bool :=
  (1 ≤ (w.next + 512 - seq) % 512 && (w.next + 512 - seq) % 512 ≤ 256) || w.ended.contains seq || w.held.any (·.seq == seq)

/-- A VC 3 or VC 4 message at its die ingress waits in its window for its turn; a duplicate is dropped (R202, R204). -/
def State.intoWindow (s : State) (m : Msg) : State :=
  match m.space with
  | none => s
  | some sp =>
    let w := s.window sp
    if w.knows m.seq then s.count .dupdrop m.dst.pkg (portVc m.dst.die m.vc)
    else s.putWindow { w with held := w.held ++ [m] }

/-- A reply at its requester: the request has its answer and its copy is released; a second one, or one after a timeout, is dropped and counted
(R185, R198). -/
def State.replyArrives (s : State) (m : Msg) (id : Nat) (a : Reply) : State :=
  let s := match m.space with
    | some sp => s.release sp m.seq
    | none => s
  match s.req? id with
  | some r =>
    if r.stage = .reply ∨ r.stage = .frozen then s.count .dupdrop m.dst.pkg (portVc m.dst.die 2)
    else if r.lingers then (s.dropReq id).count .dupdrop m.dst.pkg (portVc m.dst.die 2)
    else s.updReq id (fun r => { r with stage := .reply, reply := some a })
  | none => s.count .dupdrop m.dst.pkg (portVc m.dst.die 2)

/-- A token of a bent that has been lost arrives in the region it left, and is swept there (R235). -/
def State.sweepToken (s : State) (rid : Nat) (d : Dest) (t : Token) : State :=
  let put := fun (x : Stray) => { x with toks := x.toks ++ [{ rid := rid, dest := d, tok := t }] }
  { s with parts := s.parts.map (fun p => { p with strays := updIf p.strays (fun x => x.br == { rid := rid, bent := d.bent }) put }) }

/-- A token at its cell: a generation that differs drops it (R234), as does a slot that is not placed (R203). None while the link has no slot. -/
def State.tokenArrives (s : State) (n out : Node) (m : Msg) (rid : Nat) (d : Dest) (t : Token) : Option State :=
  if m.gen ≠ s.genOf m.dst then some (s.count .gendrop m.dst.pkg (m.dst.y * 128 + m.dst.x))
  else if s.parts.any (fun p => p.strays.any (fun x => x.br == { rid := rid, bent := d.bent })) then some (s.sweepToken rid d t)
  else
  match s.raising? rid, s.slot? rid d.blk d.slot with
  | some r, some p =>
      let k := linkOf n out
      let br : BentRef := { rid := rid, bent := d.bent }
      let used : Nat := match p.loc with
        | .elem cx cy => (s.elem? br cx cy).elim 0 (fun e => (e.link.filter (·.1 == k)).length)
        | .station cX cY => (s.clus? br cX cY).elim 0 (fun c => (c.link.filter (·.1 == k)).length)
      let caught := (s.bent? br).elim false (·.isSealed) || r.state != .running
      if 16 ≤ used && !caught then none else some (s.intoLink rid k d t)
  | _, _ => some (s.count .misroute m.dst.pkg (portVc (m.dst.y * 128 + m.dst.x) 0))

/-- A pinned request at its destination: one that an ingress forwarded is at its home; a sequenced one waits for its table (R197, R205). -/
def State.atForward (s : State) (m : Msg) (id : Nat) : State :=
  if m.space.isNone then s.updReq id (fun r => { r with stage := .home }) else { s with inbox := s.inbox ++ [m] }

/-- A contribution at the root: one whose member is done or absent already is a duplicate, or late, and is dropped (R202, R213). -/
def State.atRoot (s : State) (m : Msg) (x : McNode) : State :=
  let known := match s.mcops.find? (·.id == x.req) with
    | some o => o.members.getD x.first .absent == .done || o.nodes.any (·.first == x.first)
    | none => true
  (if known && x.k = 0 then s.count .dupdrop m.dst.pkg (portVc m.dst.die 5) else s.rootNode x).releaseLeaf x

/-- Whether a die ingress drops a message of VC 2 or VC 5 for its tag (R208, R224). Those of VC 1, 3 and 4 are tested where they are taken. -/
def State.tagLost (s : State) (m : Msg) : Bool :=
  (m.vc == 2 || m.vc == 5) && m.kind != .sack && (m.space.isSome || m.kind == .mcup) && !s.tagInPart m.dst.pkg m.part m.tag

/-- A message that a die ingress drops for its tag: logged, and a multicast request's continuation told REMOTE_FAULT with CAUSE TAG_RANGE (R208). -/
def State.tagDrop (s : State) (m : Msg) : State :=
  let s := s.ingressRange m.dst.pkg m.dst.die m.part m.tag
  match m.body with
  | .mcq id _ => s.sendError (dieCell m.dst.pkg m.dst.die) m.src m.part (.cont id) m.space m.seq m.tag (some id) Cause.remoteFault.code Cause.tagRange.code 0
  | _ => s

/-- A message reaches the router of its destination. What an event of its own performs waits at the ingress. None while it cannot enter. -/
def State.arrivesAt (s : State) (n out : Node) (m : Msg) : Option State :=
  if m.trim then some { s with inbox := s.inbox ++ [m] }
  else if s.tagLost m then some (s.tagDrop m)
  else
    let t := if m.space.isSome then s.arrivedWhole m else s
    match m.kind, m.body with
    | .token, .tok rid d k => s.tokenArrives n out m rid d k
    | .token, .burst _ _ _ => some (if m.gen ≠ s.genOf m.dst then s.count .gendrop m.dst.pkg (m.dst.y * 128 + m.dst.x) else s)
    | .wrack, .mcd id rank =>
      some ((t.updOp id (fun o => if o.members.getD rank .absent = .absent then o else { o with members := o.members.set rank .done })).settleCopy id)
    | .mcdata, .mcq id rank => some (t.arrive id rank)
    | .mcrq, .mcq id rank => some (t.arrive id rank)
    | .mcup, .mcu x _ => some (t.atRoot m x)
    | .post, _ => some (t.intoWindow m)
    | _, .bulk _ => some (t.intoWindow m)
    | .rdreqP, .req id => some (t.atForward m id)
    | .wrreqP, .req id => some (t.atForward m id)
    | .atreqP, .req id => some (t.atForward m id)
    | .rdrep, .rep id a => some (t.replyArrives m id a)
    | .wrack, .rep id a => some (t.replyArrives m id a)
    | .atrep, .rep id a => some (t.replyArrives m id a)
    | .mgmt, _ => some s
    | .config, _ => some s
    | _, _ => some { t with inbox := t.inbox ++ [m] }

/-- A contribution that passes a die-edge or package-edge router takes one of its 64 reduction slots while one is free (R212). -/
def State.intoSlot (s : State) (at_ out : Node) (m : Msg) : Option State :=
  match m.body with
  | .mcu x g =>
    if m.kind == .mcup && !m.trim && edgeOut at_ out && (s.redslots.filter (·.node == at_)).length < 64 then
      some { s with redslots := s.redslots ++ [{ node := at_, sub := m.sub, group := g, root := m.dst, n := x, since := s.now }] }
    else none
  | _ => none

/-- The die ingress by which a hop between two routers enters a die (R224). -/
def entersDie (n at_ : Node) : Option CellId :=
  match n, at_ with
  | .cell a, .cell b => if a.die = b.die then none else some b
  | .edge _ _ _, .cell b => some b
  | .hub _ _ _, .cell b => some b
  | _, _ => none

/-- The die ingress at which a hop drops a token: its tag lies outside the range of the partition that owns its destination (R208, R224). -/
def State.ingressDrops (s : State) (n at_ : Node) (m : Msg) : Option CellId :=
  (entersDie n at_).filter (fun c => m.kind == .token && !s.tagInPart c.pkg m.part m.tag)

/-- A message stands at a router: dropped by the ingress it passes, or of a tree, at one of its routers; delivered there, combined, or on to its next
output (R195, R196, R209, R224); turned back where fenced routers leave it no way (log 19). None while there is no slot. -/
def State.standsAt (s : State) (n at_ : Node) (m : Msg) : Option State :=
  match s.ingressDrops n at_ m with
  | some c => some (s.ingressRange c.pkg c.die m.part m.tag)
  | none =>
  if m.isTree then some (s.treeAt m at_)
  else match s.nextNode at_ m.dst m.hubUnit with
  | none => if s.atGoal at_ m.dst m.hubUnit then s.arrivesAt n at_ m else some (s.bounce at_ m)
  | some out => match s.intoSlot at_ out m with
    | some t => some t
    | none => s.toOutput at_ out m

/-- Whether the first router drops a message: of a reserved KIND, or with a VC that is not its KIND's, a trimmed header apart (R193). -/
def Msg.misformed (m : Msg) : Bool :=
  match m.kind with
  | .reserved _ => true
  | k => if m.trim then m.vc != 7 else m.vc != k.vc

/-- Whether DEST names its unit as the table of R192 asks; a reserved unit has no DEST. -/
def Msg.unitOk (m : Msg) : Bool :=
  match m.unit with
  | .vent n => n < 8 && m.dst.x % 64 == 0 && m.dst.y % 64 == 0
  | .hbm n => n < 2 && m.dst.x % 64 == 0 && m.dst.y % 64 == 0
  | .egress => m.dst.x % 64 == 0 && m.dst.y % 64 == 0
  | .ingress => m.dst.x % 64 == 0 && m.dst.y % 64 == 0
  | .hubUnit n => n < 9 && m.dst.x == 0 && m.dst.y == 0
  | .reserved _ => false
  | _ => true

/-- The sending cell's router resolves a canonical destination: it adds the origin of the sender's bent and fills in its own package (R191). -/
def State.resolve (s : State) (m : Msg) : Msg :=
  let origin := fun (rid bent : Nat) => match s.bent? { rid := rid, bent := bent } with
    | some b => { m with vrel := false, dst := b.cell m.dst.x m.dst.y }
    | none => m
  match m.vrel, m.body with
  | true, .tok rid d _ => origin rid d.bent
  | true, .burst rid d _ => origin rid d.bent
  | _, _ => m

/-- A message leaves the injection queue of its own router: dropped when it is misformed, resolved, and turned back when its destination is none
(R191 to R193, R208). -/
def State.leaveUnit (s : State) (n : Node) (m : Msg) : Option State :=
  let m := s.resolve { m with sub := 0 }
  if m.misformed then some (s.count .misroute n.port.1 (portVc n.port.2 m.vc))
  else if m.isTree then s.standsAt n n m
  else if s.routable n m.dst && m.unitOk then s.standsAt n n m
  else some (s.bounce n m)

/-- The first message of a queue crosses its link, or leaves the injection queue of its own router. None while it cannot. -/
def State.moveHead (s : State) (q : FQueue) : Option State :=
  match q.msgs with
  | [] => none
  | m :: rest =>
    let t := { s with fqueues := (updIf s.fqueues (· == q) (fun q => { q with msgs := rest })).filter (fun q => !q.msgs.isEmpty) }
    if q.out = q.node then t.leaveUnit q.node m
    else if s.hopDown q.node q.out then some (t.bounce q.node m)
    else t.standsAt q.node q.out { m with sub := s.subAfter q.node q.out m.sub }

/-- The order in which an output serves its channels (R195): VC 7, VC 6, then 0 to 5 in rotation. -/
def vcOrder (now : Nat) : List Nat := [7, 6] ++ (List.range 6).map (fun i => (now + i) % 6)

/-- FLIT_HOP: an output sends its first message that holds a credit. -/
def execFlitHop (n out : Node) (s : State) : Host.Outcome State Fault Refusal :=
  let qs := s.fqueues.filter (fun q => q.node == n && q.out == out)
  .next (((vcOrder s.now).findSome? (fun v => (qs.filter (·.vc == v)).findSome? (fun q => s.moveHead q))).getD s)

/-! ## Trimmed headers and exhaustion (R110, R201, R202) -/

/-- The first message at the ingresses of a die that meets a condition. -/
def State.atIngress (s : State) (p : Pkg) (die : Nat) (f : Msg → Bool) : Option Msg :=
  s.inbox.find? (fun m => m.dst.pkg == p && m.dst.die == die && f m)

/-- Takes a message away from its ingress. -/
def State.takeIn (s : State) (m : Msg) : State := { s with inbox := s.inbox.erase m }

/-- The bent that a message was issued by, or that it answers (R203). -/
def State.bentOf (s : State) (m : Msg) : Option BentRef :=
  let op := fun (id : Nat) => (s.mcops.find? (·.id == id)).map (·.br)
  match m.body with
  | .req id => (s.req? id).map (·.br)
  | .rep id _ => (s.req? id).map (·.br)
  | .bulk id => (s.bulks.find? (·.id == id)).bind (fun b => match b.owner with
    | .copy br _ _ _ => some br
    | .qcopy _ _ _ => none)
  | .mcq id _ => op id
  | .mcd id _ => op id
  | .mcu x _ => op x.req
  | _ => none

/-- Moves a window past the SEQs that have ended. -/
def Reorder.skip (w : Reorder) : Nat → Reorder
  | 0 => w
  | k + 1 => if w.ended.contains w.next then Reorder.skip { w with next := (w.next + 1) % 512, ended := w.ended.filter (· != w.next) } k else w

/-- An exhausted ordered message ends, with every message held behind it; each is reported to the source, and the window reopens (R110). -/
def State.endWindow (s : State) (p : Pkg) (die : Nat) (m : Msg) (sp : Space) : State :=
  let w := s.window sp
  let behind := w.held.filter (fun (h : Msg) => (h.seq + 512 - m.seq) % 512 ≤ 256)
  let gone : List Msg := m :: behind
  let w := { w with held := w.held.filter (fun h => !behind.contains h), ended := w.ended ++ gone.map (fun (x : Msg) => x.seq), unsacked := w.unsacked + gone.length,
                    oldest := if w.unsacked = 0 then s.now else w.oldest }
  gone.foldl (fun s g =>
    let req := match g.body with
      | .req id => some id
      | _ => none
    let s := match req with
      | some id => s.updReq id (fun r => { r with stage := .toIssuer, reply := some (.err { cause := .trimExhausted }) })
      | none => s
    s.sendError (dieCell p die) g.src g.part .egress (some sp) g.seq g.tag req Cause.trimExhausted.code 0 0) (s.putWindow (w.skip 512))

/-- The ninth trimmed header of a message ends it, by its class (R202). -/
def State.exhaust (s : State) (p : Pkg) (die : Nat) (m : Msg) : State :=
  let here := dieCell p die
  let s := s.count .exhaust p (portVc die m.kind.vc)
  let tell := fun (s : State) (unit : FUnit) (req rank : Option Nat) =>
    s.sendError here m.src m.part unit m.space m.seq m.tag req Cause.trimExhausted.code 0 0 rank
  match m.kind, m.body, m.space with
  | .post, _, some sp => s.endWindow p die m sp
  | _, .bulk _, some sp => s.endWindow p die m sp
  | _, .req id, _ => tell (tell s (.cont id) (some id) none) .egress none none
  | _, .rep id _, sp =>
    let s := tell s .egress none none
    let s := match sp with
      | some sp => s.release sp m.seq
      | none => s
    (match s.req? id with
    | some r => if r.stage = .frozen ∨ r.stage = .reply then s else if r.lingers then s.dropReq id
        else s.reqError r { cause := .trimExhausted, addr := r.va }
    | none => s)
  | _, .mcd id _, _ =>
    let s := tell s .egress none none
    (match s.mcops.find? (·.id == id) with
    | some o => s.mcFreeze o { cause := .trimExhausted }
    | none => s)
  | .mcdata, .mcq id rank, _ => tell (tell s (.cont id) (some id) none) .egress none (some rank)
  | .mcrq, .mcq id rank, _ => tell s .egress (some id) (some rank)
  | _, .mcu x _, _ => tell (s.updOp x.req (fun o => { o with members := o.members.set x.first .absent })) .egress none (some x.first)
  | _, _, _ => s

/-- Whether a message for which a header came has been delivered or ended already. -/
def State.settledMsg (s : State) (m : Msg) : Bool :=
  match m.kind, m.body, m.space with
  | .post, _, some sp => (s.window sp).knows m.seq
  | _, .bulk _, some sp => (s.window sp).knows m.seq
  | _, .rep id _, _ => (match s.req? id with
    | some r => r.stage == .reply || r.stage == .frozen
    | none => true)
  | _, .mcq id rank, _ => (match s.mcops.find? (·.id == id) with
    | some o => o.members.getD rank .absent != .waiting
    | none => true)
  | _, .mcd id rank, _ => (match s.mcops.find? (·.id == id) with
    | some o => o.members.getD rank .absent != .answered
    | none => true)
  | _, .mcu x _, _ => (match s.mcops.find? (·.id == x.req) with
    | some o => o.members.getD x.first .absent == .done || o.members.getD x.first .absent == .absent
    | none => true)
  | _, .req id, some sp => (s.req? id).isNone || s.dedups.any (fun d => d.holds sp && d.entries.any (·.seq == m.seq))
  | _, _, _ => false

/-- TRIMMED_HEADER_ARRIVAL: the ingress records the header and paces its re-request, or ends the message at the ninth; a trimmed reply's header
restarts the requester's timer (R201, R208). -/
def execTrimmedHeaderArrival (p : Pkg) (die : Nat) (s : State) : Host.Outcome State Fault Refusal :=
  match s.atIngress p die (·.trim) with
  | none => .next s
  | some m =>
    let old := s.trims.find? (fun e => e.pkg == p && e.die == die && e.space == m.space && e.seq == m.seq && e.msg.body == m.body)
    if old.isNone && 1024 ≤ (s.trims.filter (fun e => e.pkg == p && e.die == die)).length then .next s
    else
      let t := s.takeIn m
      let t := match s.bentOf m with
        | some br => t.updBent br (fun b => { b with trimCnt := satInc b.trimCnt })
        | none => t
      let t := match m.body with
        | .rep id _ => t.updReq id (fun r => { r with deadline := s.now + 4000000 })
        | _ => t
      if s.settledMsg m then .next ((t.arrivedWhole m).count .dupdrop p (portVc die m.kind.vc))
      else
        let n := (old.elim 0 (·.n)) + 1
        let t := t.arrivedWhole m
        if 9 ≤ n then .next (t.exhaust p die { m with trim := false, vc := m.kind.vc })
        else .next { t with trims := t.trims ++
          [{ pkg := p, die := die, space := m.space, seq := m.seq, n := n, due := some (s.now + 64 * 2 ^ (n - 1)),
             msg := { m with trim := false, vc := m.kind.vc } }] }

/-- REREQ_TIMER: the ingress asks the source for a message whose time has come (R201, R202). -/
def execRereqTimer (p : Pkg) (die idx : Nat) (s : State) : Host.Outcome State Fault Refusal :=
  match (s.trims.filter (fun e => e.pkg == p && e.die == die))[idx]? with
  | none => .next s
  | some e =>
    match e.due with
    | none => .next s
    | some d =>
      if s.now < d then .next s
      else
        let t := { s with trims := updIf s.trims (· == e) (fun e => { e with due := none }) }
        let unit := match e.msg.body with
          | .rep _ _ => FUnit.ingress
          | .mcd _ _ => .ingress
          | _ => .egress
        .next ((t.count .rereq p (portVc die e.msg.vc)).sendHeader .rereq (dieCell p die) e.msg.src e.msg.part unit e.space e.seq e.msg.tag e.msg.body)

/-- REREQ_ARRIVAL: the egress sends its copy again, to the one member for a multicast; a home ingress sends the reply it keeps (R202). -/
def execRereqArrival (p : Pkg) (die : Nat) (s : State) : Host.Outcome State Fault Refusal :=
  match s.atIngress p die (fun m => m.kind == .rereq && !m.trim) with
  | none => .next s
  | some m =>
    let t := s.takeIn m
    match m.body, m.space with
    | .rep id _, some sp =>
      let cached := (s.dedups.find? (·.holds sp)).bind (fun (d : Dedup) => (d.entries.find? (fun (e : DedupEntry) => e.seq == m.seq)).bind (fun (e : DedupEntry) => e.reply))
      match s.req? id, cached with
      | some r, some a => .next ((t.count .resent p (portVc die 2)).sendReply { r with seq := m.seq } sp a)
      | _, _ => .next t
    | .mcd id rank, _ => .next (match s.mcops.find? (·.id == id) with
      | some o => (t.count .resent p (portVc die 2)).sendWrack o rank
      | none => t)
    | .mcq id rank, some sp =>
      match s.copies.find? (fun c => c.space == sp && c.seq == m.seq), s.mcops.find? (·.id == id) with
      | some c, some o =>
        match (s.opGroup o).bind (fun g => g.members[rank]?) with
        | some x => .next ((t.count .resent p (portVc die 5)).resend { c.msg with dst := x.cell, unit := .ingress, body := .mcq id rank })
        | none => .next t
      | _, _ => .next t
    | _, some sp =>
      match s.copies.find? (fun c => c.space == sp && c.seq == m.seq) with
      | some c => .next ((t.count .resent p (portVc die c.msg.vc)).resend c.msg)
      | none => .next t
    | _, none => .next t

/-! ## Reorder windows and SACKs (R204) -/

/-- ORDERED_MESSAGE_DELIVERY: the message next in its window goes to its home, one at a time; one whose tag lies outside its partition's range
takes its place as delivered and is reported to the source (R204, R208). -/
def execOrderedMessageDelivery (p : Pkg) (die idx : Nat) (s : State) : Host.Outcome State Fault Refusal :=
  match (s.reorders.filter (fun w => w.space.home.pkg == p && w.space.home.die == die))[idx]? with
  | none => .next s
  | some w =>
    match w.held.find? (·.seq == w.next) with
    | none => .next s
    | some m =>
      if s.performing w.space then .next s
      else
        let moved := ({ w with held := w.held.erase m, next := (w.next + 1) % 512 } : Reorder).skip 512
        let past := { moved with unsacked := moved.unsacked + 1, oldest := if moved.unsacked = 0 then s.now else moved.oldest }
        match m.body with
        | .req id =>
          match s.req? id with
          | some r =>
            if !s.tagInPart p m.part m.tag then
              .next ((((s.putWindow past).updReq id (fun r => { r with stage := .toIssuer, reply := some (.err { cause := .remoteFault, aux := Cause.tagRange.code }) })).ingressRange
                p die m.part m.tag).sendError (dieCell p die) m.src m.part .egress (some w.space) m.seq m.tag (some r.id) Cause.remoteFault.code Cause.tagRange.code 0)
            else .next ((s.putWindow moved).updReq id (fun r => { r with stage := .home, reply := none }))
          | none => .next (s.putWindow past)
        | .bulk id =>
          if !s.tagInPart p m.part m.tag then
            .next ((((s.putWindow past).ingressRange p die m.part m.tag)).sendError (dieCell p die) m.src m.part .egress (some w.space) m.seq m.tag none
              Cause.remoteFault.code Cause.tagRange.code 0)
          else
            match s.bulks.find? (·.id == id) with
            | some b => .next (((s.bulkPerform b).map (·.putWindow past)).getD s)
            | none => .next (s.putWindow past)
        | _ => .next (s.putWindow past)

/-- SACK_SEND: an ingress acknowledges what it has performed, cumulatively (R204). -/
def execSackSend (s : State) : Host.Outcome State Fault Refusal :=
  match s.cur with
  | .event (.num i) =>
    match s.reorders[i]? with
    | none => .next s
    | some w =>
      .next (if w.unsacked = 0 then s else s.sack w)
  | _ => .next s

/-- A message that a SACK covers: its copy is released, and its posted store leaves the counter, lost if it was dropped or discarded. -/
def State.sacked (s : State) (c : TxCopy) : State :=
  let t := s.release c.space c.seq
  match c.msg.body with
  | .req id =>
    match s.req? id with
    | some r =>
      match r.reply with
      | some (.err i) => s.losePosted r i
      | _ => (t.dropReq id).updVdev r.vdr (fun d => { d with posted := d.posted - 1 })
    | none => t
  | .bulk id => { t with bulks := t.bulks.filter (fun b => !(b.id == id && b.done)) }
  | _ => t

/-- SACK_ARRIVAL: the source egress releases every copy that the SACK covers (R198). -/
def execSackArrival (p : Pkg) (die : Nat) (s : State) : Host.Outcome State Fault Refusal :=
  match s.atIngress p die (fun m => m.kind == .sack && !m.trim) with
  | none => .next s
  | some m =>
    let t := s.takeIn m
    match m.space with
    | some sp => .next ((s.copies.filter (fun c => c.space == sp && (m.seq + 512 - c.seq) % 512 < 256)).foldl (fun t c => t.sacked c) t)
    | none => .next t

/-! ## Deduplication (R205, R206) -/

/-- A table after it accepts a SEQ: an entry is reused when HI has passed it by 255. -/
def Dedup.accept (d : Dedup) (hi seq req : Nat) : Dedup :=
  { d with hi := hi, entries := (d.entries.filter (fun e => e.seq != seq && (hi + 512 - e.seq) % 512 ≤ 255)) ++ [{ seq := seq, req := req, reply := none }] }

/-- Puts a table back. -/
def State.putDedup (s : State) (d : Dedup) : State :=
  let same := fun (x : Dedup) => x.pkg == d.pkg && x.die == d.die && x.part == d.part && x.spkg == d.spkg && x.sdie == d.sdie
  { s with dedups := if s.dedups.any same then updIf s.dedups same (fun _ => d) else s.dedups ++ [d] }

/-- REQUEST_DEDUP: a sequenced request is accepted, dropped as a duplicate, answered from the cache, refused as stale, or turned away while no
table is free (R205, R206, R208). -/
def execRequestDedup (p : Pkg) (die : Nat) (s : State) : Host.Outcome State Fault Refusal :=
  match s.atIngress p die (fun m => m.kind.vc == 1 && !m.trim) with
  | none => .next s
  | some m =>
    let t := s.takeIn m
    match m.body, m.space with
    | .req id, some sp =>
      match s.req? id with
      | none => .next (t.release sp m.seq)
      | some r =>
        let here := dieCell p die
        let tell := fun (t : State) (code cause : Nat) => t.sendError here m.src m.part (.cont id) (some sp) m.seq m.tag (some id) code cause r.va
        let atHome := fun (t : State) => t.updReq id (fun r => { r with stage := .home, reply := none })
        if !s.tagInPart p m.part m.tag then .next (tell (t.ingressRange p die m.part m.tag) Cause.remoteFault.code Cause.tagRange.code)
        else
          match s.dedups.find? (·.holds sp) with
          | none =>
            if 4096 ≤ (s.dedups.filter (·.pkg == p)).length then
              .next (((t.count .busyn p (portVc die 7)).updReq id (fun r => { r with stage := .turned })).sendHeader .busy here m.src m.part (.cont id) (some sp)
                m.seq m.tag (.notice id))
            else
              .next (atHome (t.putDedup (({ pkg := p, die := die, part := m.part, spkg := m.src.pkg, sdie := m.src.die, hi := 0, entries := [] } : Dedup).accept
                m.seq m.seq id)))
          | some d =>
            let k := (d.hi + 512 - m.seq) % 512
            if 384 ≤ k then .next (atHome (t.putDedup (d.accept m.seq m.seq id)))
            else if k ≤ 255 then
              match d.entries.find? (·.seq == m.seq) with
              | none => .next (atHome (t.putDedup (d.accept d.hi m.seq id)))
              | some e =>
                match e.reply with
                | none => .next (t.count .dupdrop p (portVc die 1))
                | some a => .next ((((t.count .cached p (portVc die 1)).count .resent p (portVc die 2)).updReq id (fun r => { r with stage := .toIssuer })).sendReply
                    { r with seq := m.seq } sp a)
            else .next (tell (t.count .stale p (portVc die 1)) Cause.staleReplay.code 0)
    | _, _ => .next t

/-! ## Errors (R202, R207) -/

/-- The fault of an ERROR's code. -/
def errorCause (code : Nat) : Cause :=
  if code = Cause.trimExhausted.code then .trimExhausted else if code = Cause.staleReplay.code then .staleReplay else .remoteFault

/-- ERROR_ARRIVAL: the continuation's instruction freezes with the code, or its posted store is lost; a source egress releases its copy, and a
member of a reduction that was exhausted is absent (R202, R207, R213). -/
def execErrorArrival (s : State) : Host.Outcome State Fault Refusal :=
  match s.cur with
  | .event (.num n) =>
    match s.inbox.find? (fun m => m.mid == n && m.kind == .error) with
    | none => .next s
    | some m =>
      let t := s.takeIn m
      match m.body, m.unit with
      | .err _ _ code cause addr, .cont id =>
        let i : FaultInfo := { cause := errorCause code, addr := addr, aux := cause }
        let t := match m.space with
          | some (.vc a b c d e v) => t.release (.vc a b c d e v) m.seq
          | _ => t
        match s.req? id with
        | some r =>
          if r.kind = .rstp && (cause != 0 || (t.bent? r.br).isNone) then .next (t.losePosted r i)
          else if r.stage = .frozen ∨ r.stage = .reply then .next t
          else if r.lingers then .next (t.dropReq id)
          else .next (t.reqError r i)
        | none =>
          match s.mcops.find? (·.id == id) with
          | some o => .next (t.mcFreeze o i)
          | none => .next t
      | .err req rank code cause _, .egress =>
        match m.space with
        | some (.group part sp sd g) =>
          match req, rank with
          | some id, some k => .next ((t.release (.group part sp sd g) m.seq).updOp id (fun o => { o with members := o.members.set k .absent }))
          | none, some _ => .next (t.release (.group part sp sd g) m.seq)
          | _, none => .next t
        | some sp =>
          match req, req.bind (fun id => s.req? id) with
          | _, some r => .next (if r.kind = .rstp then t.losePosted r { cause := errorCause code, aux := cause } else t.release sp m.seq)
          | some _, none => .next t
          | none, none =>
            let t := t.release sp m.seq
            .next (match t.bulks.find? (fun b => b.space == sp && b.seq == m.seq) with
              | some b => t.bulkError b.id { cause := errorCause code, aux := cause }
              | none => t)
        | none => .next t
      | _, _ => .next t
  | _ => .next s

/-! ## Links (R186, R208) -/

/-- The number of a link for its retry counter: half of a package edge, or the edges of a die after those (R269). -/
def retryIdx (n : Node) : Nat :=
  match n with
  | .edge _ e h => 2 * (match e with
    | .north => 0
    | .south => 1
    | .west => 2
    | .east => 3) + h
  | .cell c => 8 + c.die
  | .hub _ _ _ => 12

/-- LINK_CRC_RETRY: a link's CRC finds an error and the link sends the beat again; the retry counts (R186, R269). -/
def execLinkCrcRetry (n out : Node) (_beat : Nat) (s : State) : Host.Outcome State Fault Refusal :=
  .next (if edgeOut n out then s.count .linkretry n.pkg (retryIdx n) else s)

/-- LINK_DOWN: both directions of half of a package edge go down (R208). -/
def execLinkDown (p : Pkg) (e : Edge) (half : Nat) (s : State) : Host.Outcome State Fault Refusal :=
  let a : DownLink := { pkg := p, edge := e, half := half }
  let b : DownLink := { pkg := s.neighbour p e, edge := e.opposite, half := half }
  .next { s with down := [a, b].foldl (fun l x => if l.contains x then l else l ++ [x]) s.down }

end Sys2Proof.Machine
end

