-- ==== Sys2Proof/Machine/Arrival.lean ====
section
/-! DEFINITION. Tokens at the Mortise: TOKEN_ARRIVAL (R27, R30, R35 to R37, R449, R452), SPILL_REINJECT (R37), and the age watchdog (R58). -/

namespace Sys2Proof.Machine

open Sys2Proof

/-! ## What a port takes (R277) -/

/-- Whether a slot takes tokens at a port: one that its instruction does not read, and one bound to an immediate, drop them (R277). -/
def portOpen (i : Instr) (bNamed : Bool) (port : Port) : Bool := readsPort i port && !(port == .b && admitsImm i && !bNamed)

/-- Whether a port takes many tokens under one tag: those that R30 lists, and port P of KBND, REORD and CMB (R453). -/
def takesMany (i : Instr) (port : Port) : Bool :=
  match i, port with
  | .cmb _, .a | .join _, .a | .join _, .b | .gate _, .a | .kbndAdmit _, .b | .kbndRetire _, .b | .scrb _, .a | .mmam _, .b
  | .stad _, .a | .stsnk _, .a | .cmb _, .p | .kbndAdmit _, .p | .kbndRetire _, .p => true
  | .reord _, _ => true
  | _, _ => false

/-! ## The state of a unit -/

/-- The tokens that wait in a unit's rows and ready buffer. -/
def State.waitingToks (s : State) (br : BentRef) (u : UnitLoc) : List WaitTok :=
  (s.unitToks br u).1 ++ (s.unitToks br u).2.flatMap Ready.toks

/-- The canonical cell that keeps the counts of a unit: its own, or the first of its cluster. -/
def UnitLoc.countCell : UnitLoc → Nat × Nat
  | .elem cx cy => (cx, cy)
  | .station cX cY => (4 * cX, 4 * cY)

/-- An advisory that a unit writes at most once in 65,536 cycles, its AUX the drops since the last (R224, R454). -/
def State.dropAdvisory (s : State) (br : BentRef) (u : UnitLoc) (w : WaitTok) (c : Cause) : State :=
  let xy := u.countCell
  match s.elem? br xy.1 xy.2 with
  | none => s
  | some e =>
    if c = .strayToken then
      if s.now < e.strayNext then s.updElem br xy.1 xy.2 (fun e => { e with strayCount := e.strayCount + 1 })
      else (s.updElem br xy.1 xy.2 (fun e => { e with strayCount := 0, strayNext := s.now + 65536 })).recordAt br u.place w.blk w.slot w.port.code
        w.tok.tag { cause := c, aux := e.strayCount + 1 } 0 (0, 0, 0, 0, 0)
    else if s.now < e.rangeNext then s.updElem br xy.1 xy.2 (fun e => { e with rangeCount := e.rangeCount + 1 })
    else (s.updElem br xy.1 xy.2 (fun e => { e with rangeCount := 0, rangeNext := s.now + 65536 })).recordAt br u.place w.blk w.slot w.port.code
      w.tok.tag { cause := c, aux := e.rangeCount + 1 } 0 (0, 0, 0, 0, 0)

/-- Whether a token names no activation of the timeline of the ORDERED block it arrives at (R454). -/
def State.isStray (s : State) (br : BentRef) (w : WaitTok) : Bool :=
  match s.block? br.rid w.blk, s.bent? br with
  | some k, some b =>
    k.ordered && w.tok.tag.ctx == b.tlCtx.getD k.timeline 0 &&
    (match b.timelines[k.timeline]? with
      | some t => (t.entry? w.tok.tag).isNone
      | none => false)
  | _, _ => false

/-- Whether a tag lies in the contexts of the virtual device that owns a raising (R224). -/
def State.tagInVdev (s : State) (rid : Nat) (t : Tag) : Bool :=
  (s.vdev? (s.vdOf rid)).elim true (fun d => d.ctxBase ≤ t.ctx && t.ctx ≤ d.ctxLim)

/-! ## Admission -/

/-- Adds an entry to the ready buffer of a unit. -/
def State.pushReady (s : State) (br : BentRef) (u : UnitLoc) (r : Ready) : State :=
  match u with
  | .elem cx cy => s.updElem br cx cy (fun e => { e with ready := e.ready ++ [r] })
  | .station cX cY => s.updClus br cX cY (fun c => { c with ready := c.ready ++ [r] })

/-- Takes the partners of an arriving token out of the rows. -/
def State.takePartners (s : State) (br : BentRef) (u : UnitLoc) (r : Ready) : State :=
  match u with
  | .elem cx cy => s.updElem br cx cy (fun e => { e with rows := takeRows e.rows r })
  | .station cX cY => s.updClus br cX cY (fun c => { c with rows := takeRows c.rows r })

/-- Whether the row of a JOIN holds the P token of a tag. -/
def State.joinHasP (s : State) (br : BentRef) (u : UnitLoc) (w : WaitTok) : Bool :=
  match u with
  | .elem cx cy => w.port == .p && (s.elem? br cx cy).elim false (fun e =>
      e.join.any (fun j => j.blk == w.blk && j.slot == w.slot && j.tag == w.tok.tag && j.p.isSome))
  | .station _ _ => false

/-- A second token under one tag at a port that takes one sets bit 1 of NONDET, wherever the first waits: in a row, the ready buffer, the spill
ring or the row of a JOIN (R30, R33). -/
def State.noteTwin (s : State) (br : BentRef) (u : UnitLoc) (i : Instr) (w : WaitTok) : State :=
  let same := fun (x : WaitTok) => x.blk == w.blk && x.slot == w.slot && x.port == w.port && x.tok.tag == w.tok.tag
  let twin := (s.waitingToks br u).any same || ((s.bent? br).elim [] (·.spill)).any same || s.joinHasP br u w
  if twin && !takesMany i w.port then s.raiseNondet br u.countCell.1 u.countCell.2 2 else s

/-- Where an arriving token of a station goes. -/
inductive Takes where
  | ready (r : Ready)
  | row
  | held
  | link
deriving DecidableEq, Repr

/-- The firing that a ready entry of a unit would be. -/
def Ready.ctx (r : Ready) (br : BentRef) (u : UnitLoc) : Ctx :=
  { br := br, u := u, blk := r.blk, slot := r.slot, tag := r.tag, a := r.a, b := r.b, p := r.p }

/-- Whether a complete match waits in its rows for what its element cannot give it now: an admission of KBND, a free context, an entry of CTR or
GATE, or the row of its JOIN or CMB key (R33, R327, R349, R356, R358, R449). -/
def State.mustWait (s : State) (e : Elem) (i : Instr) (c : Ctx) (r : Ready) : Bool :=
  let mine := fun (blk slot : Nat) => blk == c.blk && slot == c.slot
  let runs := fun (o : SlotOps) => fireCase (prEff o).1 c == .run
  match i with
  | .kbndAdmit o => c.a.isSome && runs o && (match e.kbndOf c with
    | some k => o.xf 0 9 ≤ k.live
    | none => maxCtxs ≤ (e.kbnd.filter (fun k => mine k.blk k.slot)).length)
  | .tagiCtx o => runs o && ((s.bent? c.br).elim [] (·.pool)).isEmpty
  | .ctr o => runs o && o.xf 0 16 != 0 && !e.ctr.any (fun k => mine k.blk k.slot && k.ctx == c.tag.ctx) &&
      16 ≤ (e.ctr.filter (fun k => mine k.blk k.slot)).length
  | .gate _ => c.p.isSome && (e.gateOf c.blk c.slot c.tag.ctx).isNone && maxCtxs ≤ (e.gate.filter (fun g => mine g.blk g.slot)).length
  | .join o => match e.joinOf c with
    | some j => c.a.isNone && c.b.isNone && c.p.isSome && j.p.isSome
    | none => (joinMerge o { blk := c.blk, slot := c.slot, tag := c.tag, arcs := [], nulls := 0, counter := 0, p := none } c).elim false
        (fun j => !joinReady o j)
  | .cmb o => r.toks.length < 2 && o.xf 0 6 != 0 && (e.cmbOf c (cmbKey o c.tag)).isNone
  | _ => false

/-- Whether a token goes to the ready buffer, waits in a row, is held by a GATE, or stays in its link (R37, R55, R56, R427, R449, R452). -/
def State.takes (s : State) (br : BentRef) (u : UnitLoc) (i : Instr) (bNamed : Bool) (w : WaitTok) : Takes :=
  let rows := (s.unitToks br u).1
  let full := 32 ≤ (s.unitToks br u).2.length
  let e := match u with
    | .elem cx cy => s.elem? br cx cy
    | .station _ _ => none
  let ctx := w.tok.tag.ctx
  let matched : Takes := match matchTok (portRule i bNamed) rows w with
    | some r => if e.elim false (fun e => s.mustWait e i (r.ctx br u) r) then .row else if full then .link else .ready r
    | none => .row
  match i, w.port, e with
  | .gate _, .a, some e =>
    if (e.gateOf w.blk w.slot ctx).isSome then matched
    else if (rows.filter (fun x => x.blk == w.blk && x.slot == w.slot && x.port == .a)).length < 16 then .held else .link
  | .reord _, .a, some e =>
    let d := (w.tok.tag.iter + 4096 - (e.dueOf w.blk w.slot ctx).getD 0) % 4096
    if d = 0 && ((e.dueOf w.blk w.slot ctx).isSome || e.reordRoom w.blk w.slot) then matched else if d ≤ 255 then .row else .link
  | .reord _, .p, some e =>
    let due := (e.dueOf w.blk w.slot ctx).getD 0
    if w.tok.tag.iter = due then matched else .row
  | .swr _, .b, some e =>
    match e.swrOf w.blk w.slot ctx with
    | some x => if x.swrAt w.tok.tag.iter == .ahead then .link else matched
    | none => matched
  | _, _, _ => matched

/-- What the arrival of a token leaves: the mark of a twin, the due counter of a context that a REORD has not seen, and the age of an activation
whose root token it is (R30, R58, R406). -/
def State.noteArrival (s : State) (br : BentRef) (u : UnitLoc) (i : Instr) (w : WaitTok) : State :=
  let t := (s.noteTwin br u i w).noteReord br u i w
  if w.slot = 0 && w.port == .a && (s.block? br.rid w.blk).elim false (fun k => 1 ≤ k.nexit) &&
      !((s.bent? br).elim false (fun b => b.ages.any (fun a => a.blk == w.blk && a.tag == w.tok.tag))) then
    t.updBent br (fun b => { b with ages := b.ages ++ [{ blk := w.blk, tag := w.tok.tag, start := b.cycles s.now, told := false }] })
  else t

/-- A token enters the Mortise of its unit, or is dropped; none while it stays in its link (R449). -/
def State.admitTok (s : State) (br : BentRef) (u : UnitLoc) (w : WaitTok) : Option State :=
  let v := s.vdOf br.rid
  match s.slot? br.rid w.blk w.slot, s.bent? br with
  | some p, some b =>
    if !s.tagInVdev br.rid w.tok.tag then some (s.dropAdvisory br u w .tagRange)
    else if b.abortedTag w.tok.tag then some s
    else if s.isStray br w then some (s.dropAdvisory br u w .strayToken)
    else match stationInstr p.word w.port with
    | none => some s
    | some i =>
      if !portOpen i p.bNamed w.port then some (s.count .ingdrop ((s.vdev? v).elim b.pkg (·.home)) (64 * v.part + v.vd))
      else
        let w := { w with at_ := s.now }
        let t := s.noteArrival br u i w
        match s.takes br u i p.bNamed w with
        | .link => none
        | .ready r => some ((t.takePartners br u r).pushReady br u r)
        | .held => if s.rowFree br u && !s.hasSpill br u then some (t.pushRow br u w) else none
        | .row => if s.rowFree br u && s.hasSpill br u then none else some (t.keepTok br u w)
  | _, _ => some s

/-- The first tokens of a unit's links, one of each link. -/
def linkHeads : List Nat → List (Nat × WaitTok) → List (Nat × WaitTok)
  | _, [] => []
  | seen, x :: xs => if seen.contains x.1 then linkHeads seen xs else x :: linkHeads (x.1 :: seen) xs

/-- The incoming links of a unit. -/
def State.linksOf (s : State) (br : BentRef) (u : UnitLoc) : List (Nat × WaitTok) :=
  match u with
  | .elem cx cy => (s.elem? br cx cy).elim [] (·.link)
  | .station cX cY => (s.clus? br cX cY).elim [] (·.link)

/-- Takes a token out of its link. -/
def State.unlink (s : State) (br : BentRef) (u : UnitLoc) (x : Nat × WaitTok) : State :=
  match u with
  | .elem cx cy => s.updElem br cx cy (fun e => { e with link := e.link.erase x })
  | .station cX cY => s.updClus br cX cY (fun c => { c with link := c.link.erase x })

/-- TOKEN_ARRIVAL: the first token of a link that is not held there enters its unit (R37, R449). -/
def execTokenArrival (br : BentRef) (u : UnitLoc) (s : State) : Host.Outcome State Fault Refusal :=
  .next (((linkHeads [] (s.linksOf br u)).findSome? (fun x => (s.unlink br u x).admitTok br u x.2)).getD s)

/-- Whether a spilled token that completes a match needs no row as it returns: its partner leaves one, its JOIN or CMB has the row of its key, or
its iteration of a REORD is due (R36, R56, R319, R356). -/
def rowless (i : Instr) (r : Ready) : Bool :=
  1 < r.toks.length || (match i with
    | .join _ | .cmb _ | .reord _ => true
    | _ => false)

/-- SPILL_REINJECT: a spilled stream element returns to a free row (R179), or the oldest spilled token of a unit returns: to a free row, where it may
fire, or to the ready buffer when it needs none; it keeps its arrival time and its frozen mark (R30, R36, R37, R449; log 32). -/
def execSpillReinject (br : BentRef) (idx : Nat) (s : State) : Host.Outcome State Fault Refusal :=
  match s.bent? br with
  | none => .next s
  | some b =>
    match b.spill[idx]? with
    | none => match b.spilledParks[idx - b.spill.length]? with
      | some (cx, cy, id, j) =>
        if !s.rowFree br (.elem cx cy) then .next s
        else .next (s.updElem br cx cy (fun e => { e with streams := updIf e.streams (·.id == id) (fun x => { x with spilled := setDel x.spilled j }) }))
      | none => .next s
    | some w =>
      match s.slot? br.rid w.blk w.slot with
      | none => .next (s.updBent br (fun b => { b with spill := b.spill.eraseIdx idx }))
      | some p =>
        let u := p.loc
        let older := (b.spill.take idx).any (fun x => (s.slot? br.rid x.blk x.slot).elim false (fun q => q.loc == u))
        let waits := w.frozen || (match stationInstr p.word w.port with
          | some i => (match s.takes br u i p.bNamed w with
            | .ready r => !rowless i r
            | _ => true)
          | none => false)
        if older || (waits && !s.rowFree br u) then .next s
        else
          let t := s.updBent br (fun b => { b with spill := b.spill.eraseIdx idx })
          if b.abortedTag w.tok.tag then .next t
          else if s.isStray br w then .next (t.dropAdvisory br u w .strayToken)
          else if w.frozen then .next (t.pushRow br u w)
          else match stationInstr p.word w.port with
            | none => .next t
            | some i =>
              let t := t.noteReord br u i w
              match s.takes br u i p.bNamed w with
              | .ready r => .next (if rowless i r then (t.takePartners br u r).pushReady br u r else t.pushRow br u w)
              | _ => .next (t.pushRow br u w)

/-- BLOCK_STALL: an activation older than its bent's watchdog interval is told to Kiln, once (R58). -/
def execBlockStall (br : BentRef) (idx : Nat) (s : State) : Host.Outcome State Fault Refusal :=
  match s.bent? br with
  | none => .next s
  | some b =>
    match b.ages[idx]? with
    | none => .next s
    | some a =>
      if a.told || b.cycles s.now < a.start + b.wdInterval then .next s
      else
        let s := s.updBent br (fun b => { b with ages := b.ages.modify idx (fun a => { a with told := true }) })
        let u := (s.slot? br.rid a.blk 0).elim (UnitLoc.elem 0 0) (·.loc)
        .next (s.recordAt br u.place a.blk 0 0 a.tag { cause := .blockStall } 0 (0, 0, 0, 0, 0))

end Sys2Proof.Machine
end

