-- ==== Sys2Proof/Machine/FpOps.lean ====
section
/-! DEFINITION. The floating-point group (R339 to R345) and CVT (R328 to R330). -/

namespace Sys2Proof.Machine

open Sys2Proof

/-- The rounding mode of a firing's slot, with its warning (R124, R125). -/
def State.roundOf (s : State) (o : SlotOps) (c : Ctx) : Rnd × BitVec 30 := rndOf o.mod (s.rmodeOf c.br c.u)

/-- A two-operand floating-point instruction with an immediate form, from its lane function (R339). `md` says whether it rounds. -/
def State.fp2 (s : State) (o : SlotOps) (md : Bool) (f : Fmt → Rnd → Nat → Nat → Nat × BitVec 8) :
    Host.Outcome State Fault Refusal :=
  s.compute o (fun c =>
    let ty := (fpTy o.ty).1
    let bound := s.bBound c
    let r := s.roundOf o c
    laneResult c (c.scalar2 bound) (laneBits ty)
      (List.zipWith (f (fmtOf ty) r.1) (c.lanesA ty) (c.lanesB ty bound (immFp o.x ty)))
      ((fpTy o.ty).2 ||| rsvImm bound o ||| (if md then r.2 else 0)))

/-- A one-operand floating-point instruction from its lane function (R339). `rsv` is the reserved part of X. -/
def State.fp1 (s : State) (o : SlotOps) (md rsv : Bool) (f : Fmt → Rnd → Nat → Nat × BitVec 8) :
    Host.Outcome State Fault Refusal :=
  s.compute o (fun c =>
    let ty := (fpTy o.ty).1
    let r := s.roundOf o c
    laneResult c c.atok.isScalar (laneBits ty) ((c.lanesA ty).map (f (fmtOf ty) r.1))
      ((fpTy o.ty).2 ||| rsvx rsv ||| (if md then r.2 else 0)))

/-- FADD (R339). -/
def execFadd (o : SlotOps) (s : State) : Host.Outcome State Fault Refusal := s.fp2 o true (fpLane2 .add)
/-- FSUB (R339). -/
def execFsub (o : SlotOps) (s : State) : Host.Outcome State Fault Refusal := s.fp2 o true (fpLane2 .sub)
/-- FMUL (R339). -/
def execFmul (o : SlotOps) (s : State) : Host.Outcome State Fault Refusal := s.fp2 o true (fpLane2 .mul)
/-- FDIV (R339). -/
def execFdiv (o : SlotOps) (s : State) : Host.Outcome State Fault Refusal := s.fp2 o true (fpLane2 .div)
/-- FMIN (R339). -/
def execFmin (o : SlotOps) (s : State) : Host.Outcome State Fault Refusal := s.fp2 o false (fpLane2 .min)
/-- FMAX (R339). -/
def execFmax (o : SlotOps) (s : State) : Host.Outcome State Fault Refusal := s.fp2 o false (fpLane2 .max)
/-- FSCL (R344). -/
def execFscl (o : SlotOps) (s : State) : Host.Outcome State Fault Refusal := s.fp2 o true fsclLane
/-- FSQRT (R339). -/
def execFsqrt (o : SlotOps) (s : State) : Host.Outcome State Fault Refusal := s.fp1 o true (o.x != 0) sqrtLane
/-- FABS (R339). -/
def execFabs (o : SlotOps) (s : State) : Host.Outcome State Fault Refusal :=
  s.fp1 o false (o.x != 0) (fun f _ a => fsignLane f false a)
/-- FNEG (R339). -/
def execFneg (o : SlotOps) (s : State) : Host.Outcome State Fault Refusal :=
  s.fp1 o false (o.x != 0) (fun f _ a => fsignLane f true a)
/-- FCLAS (R342). -/
def execFclas (o : SlotOps) (s : State) : Host.Outcome State Fault Refusal :=
  s.fp1 o false (o.x != 0) (fun f _ a => fclasLane f a)
/-- FRND (R343). -/
def execFrnd (o : SlotOps) (s : State) : Host.Outcome State Fault Refusal :=
  s.fp1 o true (o.xf 1 28 != 0) (fun f m a => frndLane f m (o.x.getLsbD 0) a)

/-- FFMA: a b plus constant CIDX, rounded once (R340). -/
def execFfma (o : SlotOps) (s : State) : Host.Outcome State Fault Refusal :=
  s.compute o (fun c =>
    let ty := (fpTy o.ty).1
    let r := s.roundOf o c
    let k := (s.constAt c (o.xf 0 16)).toNat % 2 ^ laneBits ty
    laneResult c (c.scalar2 false) (laneBits ty)
      (List.zipWith (fun a b => fmaLane (fmtOf ty) r.1 a b k) (c.lanesA ty) (c.lanesB ty false 0))
      ((fpTy o.ty).2 ||| r.2 ||| rsvx (o.xf 16 13 != 0)))

/-- FCMP: a mask in each lane where the condition holds (R341). -/
def execFcmp (o : SlotOps) (s : State) : Host.Outcome State Fault Refusal :=
  s.compute o (fun c =>
    let ty := (fpTy o.ty).1
    laneResult c (c.scalar2 false) (laneBits ty)
      (List.zipWith (fcmpLane (fmtOf ty) (o.xf 0 4)) (c.lanesA ty) (c.lanesB ty false 0))
      ((fpTy o.ty).2 ||| rsvx (o.xf 4 25 != 0)))

/-! ## CVT -/

/-- The source values of a conversion in lane order, with the count of misplaced OX4 markers (R120, R329). -/
def cvtSource (src : Nat) (ls : List Nat) : List FVal × Nat :=
  if src = 0xF then
    let x := ox4Decode (ls.take 32) 127
    let y := ox4Decode (ls.drop 32) 127
    if ls.length ≤ 32 then (x.1, x.2.1) else (x.1 ++ y.1, x.2.1 + y.2.1)
  else (ls.map (laneVal src), 0)

/-- One converted lane (R123, R329). -/
def cvtLane (src dst : Nat) (mode : Rnd) (nov : Bool) (v : FVal) : Nat × BitVec 8 :=
  if dst < 8 then (if src < 8 then ratToIntLane dst mode v else toIntLane dst mode v)
  else
    let r := (fmtOf dst).write mode nov v
    (r.1, r.2 ||| flagIf (dst == 0xE && v.isNan) flNV)

/-- The converted lanes (R329, R330): to OX4, two blocks of R121. -/
def cvtLanes (src dst : Nat) (mode : Rnd) (nov : Bool) (vs : List FVal) : List (Nat × BitVec 8) :=
  if dst = 0xF then
    let full := vs ++ List.replicate (64 - vs.length) (.fin { neg := false, m := 0, e := 0 })
    let blk := fun l =>
      let r := ox4Encode mode l
      r.1.map (fun n => (n, r.2.1 ||| flagIf r.2.2.1 flNV))
    blk (full.take 32) ++ blk (full.drop 32)
  else vs.map (cvtLane src dst mode nov)

/-- CVT: each lane's exact quotient by the scale, converted once (R328, R329, R330). -/
def execCvt (o : SlotOps) (s : State) : Host.Outcome State Fault Refusal :=
  s.compute o (fun c =>
    let dst := o.ty.toNat
    let src := o.xf 0 4
    let r := s.roundOf o c
    let nov := o.x.getLsbD 4
    let sc := o.x.getLsbD 5
    let n := min (laneCount src) (laneCount dst)
    let vs0 := cvtSource src ((c.lanesA src).take (if src = 0xF && n ≤ 32 then 32 else if src = 0xF then 64 else n))
    let vs := (vs0.1.take n, vs0.2)
    let scale := if sc then scaleF32 ((c.lanesB 9 false 0).headD 0) else some { neg := false, m := 1, e := 0 }
    let qs := match scale with
      | some d => vs.1.map (FVal.scaled r.1 d)
      | none => vs.1.map (fun _ => .nan false)
    let res := laneResult c c.atok.isScalar (laneBits dst) (cvtLanes src dst r.1 (nov && dst == 0xC) qs)
      (r.2 ||| rsvx (o.xf 6 23 != 0 || (nov && dst != 0xC)) ||| (if vs.2 != 0 && 32 ≤ n then warnBit 26 else 0))
    { res with flags := res.flags ||| sigFlags vs.1 ||| flagIf scale.isNone flNV })

end Sys2Proof.Machine
end

