-- ==== Sys2Proof/Machine/IntOps.lean ====
section
/-! DEFINITION. The integer and address group (R303 to R306, R363 to R366, R404, R405, R447). -/

namespace Sys2Proof.Machine

open Sys2Proof

/-- A two-operand integer instruction with an immediate form (R303, R304, R364, R404, R447). -/
def State.int2 (s : State) (op : IntOp2) (o : SlotOps) : Host.Outcome State Fault Refusal :=
  s.compute o (fun c =>
    let ty := (intTy o.ty).1
    let bound := s.bBound c
    laneResult c (c.scalar2 bound) (laneBits ty)
      (List.zipWith (intLane2 op ty) (c.lanesA ty) (c.lanesB ty bound (immInt o.x (laneBits ty))))
      ((intTy o.ty).2 ||| rsvImm bound o))

/-- A one-operand integer instruction (R303, R304, R364). -/
def State.int1 (s : State) (op : IntOp1) (o : SlotOps) : Host.Outcome State Fault Refusal :=
  s.compute o (fun c =>
    let ty := (intTy o.ty).1
    laneResult c c.atok.isScalar (laneBits ty) ((c.lanesA ty).map (intLane1 op ty)) ((intTy o.ty).2 ||| rsvx (o.x != 0)))

/-- ADD (R304). -/
def execAdd (o : SlotOps) (s : State) : Host.Outcome State Fault Refusal := s.int2 .add o
/-- SUB (R404). -/
def execSub (o : SlotOps) (s : State) : Host.Outcome State Fault Refusal := s.int2 .sub o
/-- MUL (R364). -/
def execMul (o : SlotOps) (s : State) : Host.Outcome State Fault Refusal := s.int2 .mul o
/-- MULH (R364). -/
def execMulh (o : SlotOps) (s : State) : Host.Outcome State Fault Refusal := s.int2 .mulh o
/-- DIV (R304, R122). -/
def execDiv (o : SlotOps) (s : State) : Host.Outcome State Fault Refusal := s.int2 .div o
/-- REM (R404, R122). -/
def execRem (o : SlotOps) (s : State) : Host.Outcome State Fault Refusal := s.int2 .rem o
/-- MIN (R364). -/
def execMin (o : SlotOps) (s : State) : Host.Outcome State Fault Refusal := s.int2 .min o
/-- MAX (R364). -/
def execMax (o : SlotOps) (s : State) : Host.Outcome State Fault Refusal := s.int2 .max o
/-- AND (R304). -/
def execAnd (o : SlotOps) (s : State) : Host.Outcome State Fault Refusal := s.int2 .and o
/-- OR (R364). -/
def execOr (o : SlotOps) (s : State) : Host.Outcome State Fault Refusal := s.int2 .or o
/-- XOR (R447). -/
def execXor (o : SlotOps) (s : State) : Host.Outcome State Fault Refusal := s.int2 .xor o
/-- ANDN (R304). -/
def execAndn (o : SlotOps) (s : State) : Host.Outcome State Fault Refusal := s.int2 .andn o
/-- SHL (R404). -/
def execShl (o : SlotOps) (s : State) : Host.Outcome State Fault Refusal := s.int2 .shl o
/-- SHR (R404). -/
def execShr (o : SlotOps) (s : State) : Host.Outcome State Fault Refusal := s.int2 .shr o
/-- SAR (R404). -/
def execSar (o : SlotOps) (s : State) : Host.Outcome State Fault Refusal := s.int2 .sar o
/-- ROT (R404). -/
def execRot (o : SlotOps) (s : State) : Host.Outcome State Fault Refusal := s.int2 .rot o
/-- SEXT (R404). -/
def execSext (o : SlotOps) (s : State) : Host.Outcome State Fault Refusal := s.int2 .sext o
/-- ZEXT (R447). -/
def execZext (o : SlotOps) (s : State) : Host.Outcome State Fault Refusal := s.int2 .zext o
/-- ADDS (R304). -/
def execAdds (o : SlotOps) (s : State) : Host.Outcome State Fault Refusal := s.int2 .adds o
/-- SUBS (R404). -/
def execSubs (o : SlotOps) (s : State) : Host.Outcome State Fault Refusal := s.int2 .subs o
/-- NEG (R364). -/
def execNeg (o : SlotOps) (s : State) : Host.Outcome State Fault Refusal := s.int1 .neg o
/-- ABS (R304). -/
def execAbs (o : SlotOps) (s : State) : Host.Outcome State Fault Refusal := s.int1 .abs o
/-- CLZ (R304). -/
def execClz (o : SlotOps) (s : State) : Host.Outcome State Fault Refusal := s.int1 .clz o
/-- POPC (R364). -/
def execPopc (o : SlotOps) (s : State) : Host.Outcome State Fault Refusal := s.int1 .popc o

/-- MAD: a b plus constant CIDX (R364, R365). -/
def execMad (o : SlotOps) (s : State) : Host.Outcome State Fault Refusal :=
  s.compute o (fun c =>
    let ty := (intTy o.ty).1
    let k := intOf ty ((s.constAt c (o.xf 0 16)).toNat % 2 ^ laneBits ty)
    laneResult c (c.scalar2 false) (laneBits ty)
      (List.zipWith (fun a b => wrapIov ty (intOf ty a * intOf ty b + k)) (c.lanesA ty) (c.lanesB ty false 0))
      ((intTy o.ty).2 ||| rsvx (o.xf 16 13 != 0)))

/-- CMP: a mask in each lane where the condition holds (R306). -/
def execCmp (o : SlotOps) (s : State) : Host.Outcome State Fault Refusal :=
  s.compute o (fun c =>
    let ty := (intTy o.ty).1
    laneResult c (c.scalar2 false) (laneBits ty)
      (List.zipWith (fun a b => (maskLane (laneBits ty) (intCond (o.xf 0 3) (intOf ty a) (intOf ty b)), (0 : BitVec 8)))
        (c.lanesA ty) (c.lanesB ty false 0))
      ((intTy o.ty).2 ||| rsvx (o.xf 3 26 != 0)))

/-- SEL: lane i of A where bit i of constant CIDX is 1, else of B (R405). -/
def execSel (o : SlotOps) (s : State) : Host.Outcome State Fault Refusal :=
  s.compute o (fun c =>
    let ty := (intTy o.ty).1
    let k := s.constAt c (o.xf 0 16)
    laneResult c (c.scalar2 false) (laneBits ty)
      (List.zipWith (fun (ab : Nat × Nat) i => (if k.getLsbD i then ab.1 else ab.2, (0 : BitVec 8)))
        ((c.lanesA ty).zip (c.lanesB ty false 0)) (List.range (laneCount ty)))
      ((intTy o.ty).2 ||| rsvx (o.xf 16 13 != 0)))

/-- LEA: a plus b shifted left by SH (R363). -/
def execLea (o : SlotOps) (s : State) : Host.Outcome State Fault Refusal :=
  s.compute o (fun c =>
    let ty := (intTy o.ty).1
    laneResult c (c.scalar2 false) (laneBits ty)
      (List.zipWith (fun a b => ((a + b * 2 ^ o.xf 0 3) % 2 ^ laneBits ty, (0 : BitVec 8))) (c.lanesA ty) (c.lanesB ty false 0))
      ((intTy o.ty).2 ||| rsvx (o.xf 3 26 != 0)))

/-- MOV: the A token unchanged (R366). -/
def execMov (o : SlotOps) (s : State) : Host.Outcome State Fault Refusal :=
  s.compute o (fun c => { tok := c.atok.plain, flags := 0, warn := (intTy o.ty).2 ||| rsvx (o.x != 0) })

/-- MOVI: the immediate under A's tag (R366). -/
def execMovi (o : SlotOps) (s : State) : Host.Outcome State Fault Refusal :=
  s.compute o (fun c => { tok := scalarTok c.tag (immInt o.x (laneBits (intTy o.ty).1)), flags := 0, warn := (intTy o.ty).2 })

end Sys2Proof.Machine
end

