-- ==== Sys2Proof/Machine/Dispatch.lean ====
section
/-! DEFINITION. The meaning of every instruction: one arm per constructor, each a direct call of its meaning or a refusal by name. -/

namespace Sys2Proof.Machine

open Sys2Proof

def exec (i : Instr) (s : State) : Host.Outcome State Fault Refusal :=
  match i with
  | .coldReset p bist flashOk => Sys2Proof.Machine.execColdReset p bist flashOk s
  | .computeDieReset p bist => Sys2Proof.Machine.execComputeDieReset p bist s
  | .recdoor p bist flashOk => Sys2Proof.Machine.execRecdoor p bist flashOk s
  | .firmwareUpdate p image => Sys2Proof.Machine.execFirmwareUpdate p image s
  | .layoutCommit p lay cut => Sys2Proof.Machine.execLayoutCommit p lay cut s
  | .thermal95c p envelopes => Sys2Proof.Machine.execThermal95c p envelopes s
  | .powerLoss p rail => Sys2Proof.Machine.execPowerLoss p rail s
  | .rasCounterClear p name idx racing => Sys2Proof.Machine.execRasCounterClear p name idx racing s
  | .hostMemoryAccess p acc => Sys2Proof.Machine.execHostMemoryAccess p acc s
  | .spdmRequest p r => Sys2Proof.Machine.execSpdmRequest p r s
  | .kilnRegisterWrite r => Sys2Proof.Machine.execKilnRegisterWrite r s
  | .pageTableSyncPoint p v => Sys2Proof.Machine.execPageTableSyncPoint p v s
  | .migrationStart p new_ old => Sys2Proof.Machine.execMigrationStart p new_ old s
  | .migrationLinePull p new_ line => Sys2Proof.Machine.execMigrationLinePull p new_ line s
  | .kilnReplay w => Sys2Proof.Machine.execKilnReplay w s
  | .kilnResumeSpill br size => Sys2Proof.Machine.execKilnResumeSpill br size s
  | .trapReply req pay => Sys2Proof.Machine.execTrapReply req pay s
  | .remoteFaultRepair p idx repaired => Sys2Proof.Machine.execRemoteFaultRepair p idx repaired s
  | .imageLoad v kilnReads => Sys2Proof.Machine.execImageLoad v kilnReads s
  | .clusterImageSaveDone part c => Sys2Proof.Machine.execClusterImageSaveDone part c s
  | .clusterRestore part moves => Sys2Proof.Machine.execClusterRestore part moves s
  | .tokenArrival br u => Sys2Proof.Machine.execTokenArrival br u s
  | .spillReinject br idx => Sys2Proof.Machine.execSpillReinject br idx s
  | .gateRelease br cx cy blk slot ctx => Sys2Proof.Machine.execGateRelease br cx cy blk slot ctx s
  | .activationCommit br tl => Sys2Proof.Machine.execActivationCommit br tl s
  | .abortRedeliver br tl => Sys2Proof.Machine.execAbortRedeliver br tl s
  | .blockStall br idx => Sys2Proof.Machine.execBlockStall br idx s
  | .jointerLaneResult br cX cY => Sys2Proof.Machine.execJointerLaneResult br cX cY s
  | .eccUncorrectable t => Sys2Proof.Machine.execEccUncorrectable t s
  | .memoryAccessAtHome w => Sys2Proof.Machine.execMemoryAccessAtHome w s
  | .ringFreedSlotNotice br cX cY k => Sys2Proof.Machine.execRingFreedSlotNotice br cX cY k s
  | .ringSlotFull br cX cY k => Sys2Proof.Machine.execRingSlotFull br cX cY k s
  | .trussFiringBegin br cX cY => Sys2Proof.Machine.execTrussFiringBegin br cX cY s
  | .trussFiringRetire br cX cY => Sys2Proof.Machine.execTrussFiringRetire br cX cY s
  | .laharTileStart br cX cY id => Sys2Proof.Machine.execLaharTileStart br cX cY id s
  | .copyComplete br cX cY id => Sys2Proof.Machine.execCopyComplete br cX cY id s
  | .scatBatchApply br cx cy id => Sys2Proof.Machine.execScatBatchApply br cx cy id s
  | .streamElement br cx cy id j => Sys2Proof.Machine.execStreamElement br cx cy id j s
  | .queueTimerExpiry v q tid => Sys2Proof.Machine.execQueueTimerExpiry v q tid s
  | .stsnkUpdate br cx cy blk slot => Sys2Proof.Machine.execStsnkUpdate br cx cy blk slot s
  | .flitHop n out => Sys2Proof.Machine.execFlitHop n out s
  | .trimmedHeaderArrival p die => Sys2Proof.Machine.execTrimmedHeaderArrival p die s
  | .rereqTimer p die idx => Sys2Proof.Machine.execRereqTimer p die idx s
  | .rereqArrival p die => Sys2Proof.Machine.execRereqArrival p die s
  | .orderedMessageDelivery p die idx => Sys2Proof.Machine.execOrderedMessageDelivery p die idx s
  | .sackArrival p die => Sys2Proof.Machine.execSackArrival p die s
  | .requestDedup p die => Sys2Proof.Machine.execRequestDedup p die s
  | .keepWaitTimer p idx => Sys2Proof.Machine.execKeepWaitTimer p idx s
  | .memberAbsentTimeout op rank => Sys2Proof.Machine.execMemberAbsentTimeout op rank s
  | .groupInstallAck req n => Sys2Proof.Machine.execGroupInstallAck req n s
  | .linkCrcRetry n out idx => Sys2Proof.Machine.execLinkCrcRetry n out idx s
  | .add o => Sys2Proof.Machine.execAdd o s
  | .sub o => Sys2Proof.Machine.execSub o s
  | .mul o => Sys2Proof.Machine.execMul o s
  | .mulh o => Sys2Proof.Machine.execMulh o s
  | .mad o => Sys2Proof.Machine.execMad o s
  | .div o => Sys2Proof.Machine.execDiv o s
  | .rem o => Sys2Proof.Machine.execRem o s
  | .neg o => Sys2Proof.Machine.execNeg o s
  | .abs o => Sys2Proof.Machine.execAbs o s
  | .min o => Sys2Proof.Machine.execMin o s
  | .max o => Sys2Proof.Machine.execMax o s
  | .and o => Sys2Proof.Machine.execAnd o s
  | .or o => Sys2Proof.Machine.execOr o s
  | .xor o => Sys2Proof.Machine.execXor o s
  | .andn o => Sys2Proof.Machine.execAndn o s
  | .shl o => Sys2Proof.Machine.execShl o s
  | .shr o => Sys2Proof.Machine.execShr o s
  | .sar o => Sys2Proof.Machine.execSar o s
  | .rot o => Sys2Proof.Machine.execRot o s
  | .clz o => Sys2Proof.Machine.execClz o s
  | .popc o => Sys2Proof.Machine.execPopc o s
  | .sext o => Sys2Proof.Machine.execSext o s
  | .zext o => Sys2Proof.Machine.execZext o s
  | .adds o => Sys2Proof.Machine.execAdds o s
  | .subs o => Sys2Proof.Machine.execSubs o s
  | .cmp o => Sys2Proof.Machine.execCmp o s
  | .sel o => Sys2Proof.Machine.execSel o s
  | .mov o => Sys2Proof.Machine.execMov o s
  | .movi o => Sys2Proof.Machine.execMovi o s
  | .lea o => Sys2Proof.Machine.execLea o s
  | .fadd o => Sys2Proof.Machine.execFadd o s
  | .fsub o => Sys2Proof.Machine.execFsub o s
  | .fmul o => Sys2Proof.Machine.execFmul o s
  | .ffma o => Sys2Proof.Machine.execFfma o s
  | .fdiv o => Sys2Proof.Machine.execFdiv o s
  | .fsqrt o => Sys2Proof.Machine.execFsqrt o s
  | .fmin o => Sys2Proof.Machine.execFmin o s
  | .fmax o => Sys2Proof.Machine.execFmax o s
  | .fabs o => Sys2Proof.Machine.execFabs o s
  | .fneg o => Sys2Proof.Machine.execFneg o s
  | .fcmp o => Sys2Proof.Machine.execFcmp o s
  | .fclas o => Sys2Proof.Machine.execFclas o s
  | .cvt o => Sys2Proof.Machine.execCvt o s
  | .frnd o => Sys2Proof.Machine.execFrnd o s
  | .fscl o => Sys2Proof.Machine.execFscl o s
  | .exp o => Sys2Proof.Machine.execExp o s
  | .exp2 o => Sys2Proof.Machine.execExp2 o s
  | .expm1 o => Sys2Proof.Machine.execExpm1 o s
  | .log o => Sys2Proof.Machine.execLog o s
  | .log2 o => Sys2Proof.Machine.execLog2 o s
  | .log1p o => Sys2Proof.Machine.execLog1p o s
  | .sin o => Sys2Proof.Machine.execSin o s
  | .cos o => Sys2Proof.Machine.execCos o s
  | .sinpi o => Sys2Proof.Machine.execSinpi o s
  | .cospi o => Sys2Proof.Machine.execCospi o s
  | .tanh o => Sys2Proof.Machine.execTanh o s
  | .atan o => Sys2Proof.Machine.execAtan o s
  | .erf o => Sys2Proof.Machine.execErf o s
  | .sigm o => Sys2Proof.Machine.execSigm o s
  | .rsqrt o => Sys2Proof.Machine.execRsqrt o s
  | .pow o => Sys2Proof.Machine.execPow o s
  | .expa o => Sys2Proof.Machine.execExpa o s
  | .exp2a o => Sys2Proof.Machine.execExp2a o s
  | .loga o => Sys2Proof.Machine.execLoga o s
  | .log2a o => Sys2Proof.Machine.execLog2a o s
  | .sina o => Sys2Proof.Machine.execSina o s
  | .cosa o => Sys2Proof.Machine.execCosa o s
  | .tanha o => Sys2Proof.Machine.execTanha o s
  | .sigma o => Sys2Proof.Machine.execSigma o s
  | .rcpa o => Sys2Proof.Machine.execRcpa o s
  | .rsqa o => Sys2Proof.Machine.execRsqa o s
  | .shuf o => Sys2Proof.Machine.execShuf o s
  | .bcst o => Sys2Proof.Machine.execBcst o s
  | .redl o => Sys2Proof.Machine.execRedl o s
  | .scan o => Sys2Proof.Machine.execScan o s
  | .pack o => Sys2Proof.Machine.execPack o s
  | .unpk o => Sys2Proof.Machine.execUnpk o s
  | .steer o => Sys2Proof.Machine.execSteer o s
  | .merge o => Sys2Proof.Machine.execMerge o s
  | .gate o => Sys2Proof.Machine.execGate o s
  | .null o => Sys2Proof.Machine.execNull o s
  | .tagiCtx o => Sys2Proof.Machine.execTagiCtx o s
  | .tagiNxt o => Sys2Proof.Machine.execTagiNxt o s
  | .tagx o => Sys2Proof.Machine.execTagx o s
  | .tagxFin o => Sys2Proof.Machine.execTagxFin o s
  | .contextReturn br ctx => Sys2Proof.Machine.execContextReturn br ctx s
  | .kbndAdmit o => Sys2Proof.Machine.execKbndAdmit o s
  | .kbndRetire o => Sys2Proof.Machine.execKbndRetire o s
  | .join o => Sys2Proof.Machine.execJoin o s
  | .drop o => Sys2Proof.Machine.execDrop o s
  | .ctr o => Sys2Proof.Machine.execCtr o s
  | .exit o => Sys2Proof.Machine.execExit o s
  | .reord o => Sys2Proof.Machine.execReord o s
  | .read o => Sys2Proof.Machine.execRead o s
  | .write o => Sys2Proof.Machine.execWrite o s
  | .ld o => Sys2Proof.Machine.execLd o s
  | .st o => Sys2Proof.Machine.execSt o s
  | .ldi o => Sys2Proof.Machine.execLdi o s
  | .sti o => Sys2Proof.Machine.execSti o s
  | .stiClr o => Sys2Proof.Machine.execStiClr o s
  | .atomAdd o => Sys2Proof.Machine.execAtomAdd o s
  | .atomOr o => Sys2Proof.Machine.execAtomOr o s
  | .atomSwap o => Sys2Proof.Machine.execAtomSwap o s
  | .atomCas o => Sys2Proof.Machine.execAtomCas o s
  | .xlate o => Sys2Proof.Machine.execXlate o s
  | .pwin o => Sys2Proof.Machine.execPwin o s
  | .srd o => Sys2Proof.Machine.execSrd o s
  | .swr o => Sys2Proof.Machine.execSwr o s
  | .gath o => Sys2Proof.Machine.execGath o s
  | .scat o => Sys2Proof.Machine.execScat o s
  | .csrd o => Sys2Proof.Machine.execCsrd o s
  | .fence o => Sys2Proof.Machine.execFence o s
  | .publ o => Sys2Proof.Machine.execPubl o s
  | .shdw o => Sys2Proof.Machine.execShdw o s
  | .shdwRel o => Sys2Proof.Machine.execShdwRel o s
  | .cmb o => Sys2Proof.Machine.execCmb o s
  | .mma o => Sys2Proof.Machine.execMma o s
  | .mmam o => Sys2Proof.Machine.execMmam o s
  | .scout o => Sys2Proof.Machine.execScout o s
  | .scrb o => Sys2Proof.Machine.execScrb o s
  | .ring o => Sys2Proof.Machine.execRing o s
  | .rrot o => Sys2Proof.Machine.execRrot o s
  | .tcvtRing o => Sys2Proof.Machine.execTcvtRing o s
  | .tcvtMem o => Sys2Proof.Machine.execTcvtMem o s
  | .tred o => Sys2Proof.Machine.execTred o s
  | .tfn o => Sys2Proof.Machine.execTfn o s
  | .ttrn o => Sys2Proof.Machine.execTtrn o s
  | .cpy o => Sys2Proof.Machine.execCpy o s
  | .cpys o => Sys2Proof.Machine.execCpys o s
  | .rld o => Sys2Proof.Machine.execRld o s
  | .rst o => Sys2Proof.Machine.execRst o s
  | .rstp o => Sys2Proof.Machine.execRstp o s
  | .ratmAdd o => Sys2Proof.Machine.execRatmAdd o s
  | .ratmOr o => Sys2Proof.Machine.execRatmOr o s
  | .ratmSwap o => Sys2Proof.Machine.execRatmSwap o s
  | .ratmCas o => Sys2Proof.Machine.execRatmCas o s
  | .mcred o => Sys2Proof.Machine.execMcred o s
  | .mcst o => Sys2Proof.Machine.execMcst o s
  | .agrp o => Sys2Proof.Machine.execAgrp o s
  | .wqini o => Sys2Proof.Machine.execWqini o s
  | .wqnx o => Sys2Proof.Machine.execWqnx o s
  | .stad o => Sys2Proof.Machine.execStad o s
  | .stsnk o => Sys2Proof.Machine.execStsnk o s
  | .trap o => Sys2Proof.Machine.execTrap o s
  | .brk o => Sys2Proof.Machine.execBrk o s
  | .mfs o => Sys2Proof.Machine.execMfs o s
  | .mts o => Sys2Proof.Machine.execMts o s
  | .yield o => Sys2Proof.Machine.execYield o s
  | .halt o => Sys2Proof.Machine.execHalt o s
  | .clflg o => Sys2Proof.Machine.execClflg o s
  | .rdtim o => Sys2Proof.Machine.execRdtim o s
  | .enrg o => Sys2Proof.Machine.execEnrg o s
  | .xld o => Sys2Proof.Machine.execXld o s
  | .barw o => Sys2Proof.Machine.execBarw o s
  | .fexpl o => Sys2Proof.Machine.execFexpl o s
  | .rsto o => Sys2Proof.Machine.execRsto o s
  | .qnop => Sys2Proof.Machine.execQnop s
  | .qlnch sem sg addv img va arg => Sys2Proof.Machine.execQlnch sem sg addv img va arg s
  | .qcopy sem sg sh addv src dst len => Sys2Proof.Machine.execQcopy sem sg sh addv src dst len s
  | .qwge sem val => Sys2Proof.Machine.execQwge sem val s
  | .qweq sem val => Sys2Proof.Machine.execQweq sem val s
  | .qsig sem scope val => Sys2Proof.Machine.execQsig sem scope val s
  | .qset sem val => Sys2Proof.Machine.execQset sem val s
  | .qintr vec code => Sys2Proof.Machine.execQintr vec code s
  | .qjmp target => Sys2Proof.Machine.execQjmp target s
  | .qjnz sem dec target => Sys2Proof.Machine.execQjnz sem dec target s
  | .qfnc scope => Sys2Proof.Machine.execQfnc scope s
  | .qload sem sg addv img va report => Sys2Proof.Machine.execQload sem sg addv img va report s
  | .qend code => Sys2Proof.Machine.execQend code s
  | .qtmr sem tid delay => Sys2Proof.Machine.execQtmr sem tid delay s
  | .qeng e => Sys2Proof.Machine.execQeng e s
  | .qsave sem sg qn addv => Sys2Proof.Machine.execQsave sem sg qn addv s
  | .qrest sem sg qn addv => Sys2Proof.Machine.execQrest sem sg qn addv s
  | .kilnQueueStart v q => Sys2Proof.Machine.execKilnQueueStart v q s
  | .kilnQueueStop v q => Sys2Proof.Machine.execKilnQueueStop v q s
  | .ingressRecordWrite p off record => Sys2Proof.Machine.execIngressRecordWrite p off record s
  | .jointerLaneEntry br cX cY => Sys2Proof.Machine.execJointerLaneEntry br cX cY s
  | .reordRelease br cx cy blk slot ctx => Sys2Proof.Machine.execReordRelease br cx cy blk slot ctx s
  | .linkDown p e half => Sys2Proof.Machine.execLinkDown p e half s
  | .msixVectorEnable p vec on => Sys2Proof.Machine.execMsixVectorEnable p vec on s
  | .temperatureFall p envelopes => Sys2Proof.Machine.execTemperatureFall p envelopes s
  | .eccCorrected p idx => Sys2Proof.Machine.execEccCorrected p idx s
  | .mpWatchdogReset => Sys2Proof.Machine.execMpWatchdogReset s
  | .thermal105c => Sys2Proof.Machine.execThermal105c s
  | .thermal115c => Sys2Proof.Machine.execThermal115c s
  | .hubReset => Sys2Proof.Machine.execHubReset s
  | .partitionTeardown => Sys2Proof.Machine.execPartitionTeardown s
  | .virtualDeviceTeardown => Sys2Proof.Machine.execVirtualDeviceTeardown s
  | .ingressOpen => Sys2Proof.Machine.execIngressOpen s
  | .ingressToken => Sys2Proof.Machine.execIngressToken s
  | .ingressTokenInject => Sys2Proof.Machine.execIngressTokenInject s
  | .kilnEndRaising => Sys2Proof.Machine.execKilnEndRaising s
  | .brkResume => Sys2Proof.Machine.execBrkResume s
  | .checkpoint => Sys2Proof.Machine.execCheckpoint s
  | .launchAdmit => Sys2Proof.Machine.execLaunchAdmit s
  | .phaseComplete => Sys2Proof.Machine.execPhaseComplete s
  | .quantumEnd => Sys2Proof.Machine.execQuantumEnd s
  | .graceWindowEnd => Sys2Proof.Machine.execGraceWindowEnd s
  | .slotStart => Sys2Proof.Machine.execSlotStart s
  | .walk => Sys2Proof.Machine.execWalk s
  | .dirtyLoggerSet => Sys2Proof.Machine.execDirtyLoggerSet s
  | .memoryReply => Sys2Proof.Machine.execMemoryReply s
  | .augerServe => Sys2Proof.Machine.execAugerServe s
  | .augerRangeSet => Sys2Proof.Machine.execAugerRangeSet s
  | .semaphoreOperation => Sys2Proof.Machine.execSemaphoreOperation s
  | .hubHalt => Sys2Proof.Machine.execHubHalt s
  | .sackSend => Sys2Proof.Machine.execSackSend s
  | .errorArrival => Sys2Proof.Machine.execErrorArrival s
  | .remoteFaultPark => Sys2Proof.Machine.execRemoteFaultPark s
  | .keepWaitArrival => Sys2Proof.Machine.execKeepWaitArrival s
  | .busyResend => Sys2Proof.Machine.execBusyResend s
  | .remoteTimeout => Sys2Proof.Machine.execRemoteTimeout s
  | .multicastForward => Sys2Proof.Machine.execMulticastForward s
  | .mcupCombine => Sys2Proof.Machine.execMcupCombine s
  | .mcupSlotTimeout => Sys2Proof.Machine.execMcupSlotTimeout s
  | .interruptMailboxDrain => Sys2Proof.Machine.execInterruptMailboxDrain s
  | .cxlEnable => Sys2Proof.Machine.execCxlEnable s
  | .fabricReset => Sys2Proof.Machine.execFabricReset s
  | .bootConfirm => Sys2Proof.Machine.execBootConfirm s

end Sys2Proof.Machine
end

