-- ==== Sys2Proof/Machine/Step.lean ====
section
/-! DEFINITION. One step: the next act of the schedule, with the meaning of every instruction. -/

namespace Sys2Proof.Machine

open Sys2Proof

/-- One step of the machine (log 1): the act at the head of the tape, or the arbiter's on an empty tape. -/
def step (s : State) : Host.Outcome State Fault Refusal := stepAct exec s s.nextAct.1 s.nextAct.2

/-- The state with one instruction's bits placed where the very next step runs it (log 5). -/
def State.withFetchWord (s : State) (nbits w : Nat) : State := s.placeBits nbits w

end Sys2Proof.Machine
end

