-- ==== Sys2Proof/Safety.lean ====
section
/-! DEFINITION. What a safe run is: states that the steps reach one after another without a fault or a refusal, and the canonical
form of memory that every reached state has. -/

namespace Sys2Proof

open Sys2Proof.Machine

/-- A state that some number of steps reaches from another. -/
inductive Reaches : State → State → Prop where
  | refl (s : State) : Reaches s s
  | tail {s t u : State} : Reaches s t → step t = .next u → Reaches s u

/-- The machine's invariant: memory is in its canonical form (log 2). -/
def Inv (s : State) : Prop := memWf s.mem = true

/-- A run of k steps stops at no fault and no refusal. -/
def SafeFor (k : Nat) (s : State) : Prop :=
  match k with
  | 0 => True
  | n + 1 => ∃ t, step s = .next t ∧ SafeFor n t

end Sys2Proof
end

