-- ==== Sys2Proof/Certificates/Slice0/Obligations.lean ====
section
/-! DEFINITION. The statements about the model: encodings, the step, the firing rule, what each instruction and event does where it
completes, what it leaves alone, and the rules that hold of every state. -/

open Sys2Proof Sys2Proof.Machine

namespace Sys2Proof.Claims

/-! ## What the statements share -/

/-- The firing in the latch falls under the last row of R28: no operand is null, and the predicate does not turn it off. -/
def Runs (s : State) (o : SlotOps) (c : Ctx) : Prop := s.firing? = some c ∧ fireCase (prEff o).1 c = .run

/-- The state in which a step executes an event about a subject. -/
def onEvent (s : State) (on : Subject) : State := { s with cur := .event on }

/-- The integer instructions with two operands (R304, R364, R404, R447). -/
def int2Ops : List ((SlotOps → Instr) × IntOp2) :=
  [(.add, .add), (.sub, .sub), (.mul, .mul), (.mulh, .mulh), (.div, .div), (.rem, .rem), (.min, .min), (.max, .max), (.and, .and),
   (.or, .or), (.xor, .xor), (.andn, .andn), (.shl, .shl), (.shr, .shr), (.sar, .sar), (.rot, .rot), (.sext, .sext), (.zext, .zext),
   (.adds, .adds), (.subs, .subs)]

/-- The integer instructions with one operand (R304, R364). -/
def int1Ops : List ((SlotOps → Instr) × IntOp1) := [(.neg, .neg), (.abs, .abs), (.clz, .clz), (.popc, .popc)]

/-- The floating-point instructions with two operands and an immediate form (R339). -/
def fp2Ops : List ((SlotOps → Instr) × FpOp2) :=
  [(.fadd, .add), (.fsub, .sub), (.fmul, .mul), (.fdiv, .div), (.fmin, .min), (.fmax, .max)]

/-- The correctly rounded functions with their opcodes (R334, R308, R410, R431, R379). -/
def fnOps : List ((SlotOps → Instr) × Fn × Nat) :=
  [(.exp, .exp, 0x30), (.exp2, .exp2, 0x31), (.expm1, .expm1, 0x32), (.log, .log, 0x33), (.log2, .log2, 0x34), (.log1p, .log1p, 0x35),
   (.sin, .sin, 0x36), (.cos, .cos, 0x37), (.sinpi, .sinpi, 0x38), (.cospi, .cospi, 0x39), (.tanh, .tanh, 0x3A), (.atan, .atan, 0x3B),
   (.erf, .erf, 0x3C), (.sigm, .sigm, 0x3D), (.rsqrt, .rsqrt, 0x3E)]

/-- The fast-approximate functions with their opcodes (R338, R308, R399, R431). -/
def apOps : List ((SlotOps → Instr) × Fn × Nat) :=
  [(.expa, .exp, 0x40), (.exp2a, .exp2, 0x41), (.loga, .log, 0x42), (.log2a, .log2, 0x43), (.sina, .sin, 0x44), (.cosa, .cos, 0x45),
   (.tanha, .tanh, 0x46), (.sigma, .sigm, 0x47), (.rcpa, .rcp, 0x48), (.rsqa, .rsqrt, 0x49)]

/-- The computing instructions: each firing answers one token to both targets (R26). -/
def computeOps : List (SlotOps → Instr) :=
  int2Ops.map (·.1) ++ int1Ops.map (·.1) ++ fp2Ops.map (·.1) ++ apOps.map (·.1) ++
  [.mad, .cmp, .sel, .lea, .mov, .movi, .fscl, .fsqrt, .fabs, .fneg, .fclas, .frnd, .ffma, .fcmp, .cvt, .shuf, .bcst, .redl, .scan,
   .pack, .unpk]

/-- The instructions whose firings fall under R28 without a state of their own that changes with a nullified firing. -/
def plainOps : List (SlotOps → Instr) :=
  computeOps ++
  [.null, .drop, .tagiCtx, .tagiNxt, .tagx, .tagxFin, .kbndAdmit, .ctr, .read, .ld, .xld, .ldi, .sti, .stiClr, .atomAdd, .atomOr,
   .atomSwap, .atomCas, .xlate, .pwin, .srd, .csrd, .gath, .scat, .fence, .publ, .shdw, .shdwRel, .barw, .mma, .scout, .ring, .rrot,
   .tcvtRing, .tcvtMem, .tred, .tfn, .ttrn, .cpy, .cpys, .rld, .rst, .rstp, .rsto, .ratmAdd, .ratmOr, .ratmSwap, .ratmCas, .mcred, .mcst,
   .agrp, .wqini, .wqnx, .stad, .stsnk, .trap, .brk, .mfs, .mts, .yield, .halt, .clflg, .rdtim, .enrg]

end Sys2Proof.Claims

open Sys2Proof.Claims

/-! ## Encodings -/

/-- Words written out from the encodings of R273, R286, R288 and the examples of the entries decode to the instructions they stand
for. -/
def Obligations.SpecExampleWordsDecode : Prop :=
  (decodeTableWord 64 0x1B70603FE0000000 = some (.mov { ty := 7, mod := 0, pr := 0, t0 := 0x180, t1 := 0x1FF, x := 0 })) ∧
  (decodeTableWord 64 0x709000BFE0200040 = some (.ld { ty := 9, mod := 0, pr := 0, t0 := 0x002, t1 := 0x1FF, x := 0x200040 })) ∧
  (decodeTableWord 64 0x229420FFE8040000 = some (.fmul { ty := 9, mod := 2, pr := 0, t0 := 0x083, t1 := 0x1FF, x := 0x8040000 })) ∧
  (decodeTableWord 64 0x7190013FE0500080 = some (.st { ty := 9, mod := 0, pr := 0, t0 := 0x004, t1 := 0x1FF, x := 0x500080 })) ∧
  (decodeTableWord 64 0x62007FFFE0000000 = some (.exit { ty := 0, mod := 0, pr := 0, t0 := 0x1FF, t1 := 0x1FF, x := 0 })) ∧
  (decodeTableWord 64 0x1940413FE0000002 = some (.cmp { ty := 4, mod := 0, pr := 0, t0 := 0x104, t1 := 0x1FF, x := 2 })) ∧
  (decodeTableWord 64 0xA37C017FE0000000 = some (.ratmCas { ty := 7, mod := 6, pr := 0, t0 := 0x005, t1 := 0x1FF, x := 0 }))

/-- Encoding a well-formed element instruction gives one word, and that word decodes to the instruction. The retirement of KBND is
left out: its word is that of the admission, and the port of the token tells them apart (R34). -/
def Obligations.SlotWordRoundTrip : Prop :=
  ∀ i : Instr, i.ops? ≠ none → WellFormed i = true → (∀ p, i ≠ .kbndRetire p) → ∃ w, encode i = [w] ∧ decodeSlot w = .ok i

/-- Every slot word has one meaning: a word that decodes is the encoding of what it decodes to (R273: every bit of the word is a
field). -/
def Obligations.SlotWordHasOneMeaning : Prop :=
  ∀ (w : W64) (i : Instr), decodeSlot w = .ok i → encode i = [w] ∧ ∃ o, i.ops? = some o

/-- Encoding a queue instruction and decoding it before any other words gives it back with those words (R383, R384). -/
def Obligations.QueueWordRoundTrip : Prop :=
  ∀ (i : Instr) (rest : List W64), encode i ≠ [] → i.ops? = none → decodeQueue (encode i ++ rest) = .ok (i, rest)

/-- The codes that the grid of R288 marks undefined are refused by name, and every other code decodes. -/
def Obligations.UndefinedOpcodesAreRefused : Prop :=
  ∀ w : W64,
    let n := slotOpc w
    let undefined := n = 0x1E ∨ n = 0x1F ∨ n = 0x2F ∨ (0x4A ≤ n ∧ n ≤ 0x4F) ∨ n = 0x56 ∨ n = 0x57 ∨ (0x64 ≤ n ∧ n ≤ 0x67) ∨
      (0x6A ≤ n ∧ n ≤ 0x6F) ∨ n = 0x7F ∨ (0x81 ≤ n ∧ n ≤ 0x87) ∨ (0x92 ≤ n ∧ n ≤ 0x97) ∨ (0x9A ≤ n ∧ n ≤ 0x9F) ∨ n = 0xA7 ∨
      n = 0xAA ∨ n = 0xAB ∨ n = 0xAE ∨ n = 0xAF ∨ (0xB9 ≤ n ∧ n ≤ 0xDF) ∨ 0xE4 ≤ n
    (undefined → decodeSlot w = .error (.undefinedOpcode n)) ∧ (¬ undefined → ∃ i, decodeSlot w = .ok i)

/-! ## The step -/

/-- A step whose act is a firing runs the instruction that the slot word of the unit's longest-waiting ready instruction decodes to,
with its operands taken and its charge made (a replayed firing was charged when it first began: R236), and then passes one cycle (log 1); the unit's
router has room for what it emits (log 93). A KBND word fires as its retirement when its token came
on port B (R34). An instruction that waits is no such step (R57). -/
def Sys2Proof.Claims.FiringStepRunsTheDecodedInstruction : Prop :=
  ∀ (s t : State) (br : BentRef) (u : UnitLoc) (rest : List Act) (r : Ready) (rs : List Ready) (p : PSlot) (i : Instr),
    s.nextAct = (.fire br u, rest) → s.unitRuns br u = true → s.injectFree br u = true → s.candidates br u = r :: rs → s.slot? br.rid r.blk r.slot = some p →
    (decodeSlot p.word = .ok i ∧ (∀ o, i ≠ .kbndAdmit o) ∨
      ∃ o, decodeSlot p.word = .ok (.kbndAdmit o) ∧ i = if r.a.isNone && r.b.isSome then .kbndRetire o else .kbndAdmit o) →
    let c : Ctx := { br := br, u := u, blk := r.blk, slot := r.slot, tag := r.tag, a := r.a, b := r.b, p := r.p }
    let taken := s.takeReady br u r
    exec i { (if s.replays c then taken else taken.chargeAct c (slotOpc p.word)) with cur := .firing br u r (!(s.unitToks br u).2.contains r) } =
      .next t → t.cur ≠ .waits →
    step s = .next (t.finish rest)

/-- A step whose act is a sequencer's turn runs the instruction that the words at QPTR decode to, with those words in the latch (R216,
R383), and then passes one cycle. -/
def Sys2Proof.Claims.QueueStepRunsTheDecodedInstruction : Prop :=
  ∀ (s t : State) (v : VdRef) (q : Nat) (rest : List Act) (x : Queue) (i : Instr) (words after : List W64),
    s.nextAct = (.take v q, rest) → s.queue? v q = some x → x.takes = true → s.inSlot v = true →
    x.prog.drop x.qptr = words ++ after → decodeQueue (words ++ after) = .ok (i, after) →
    exec i { s with cur := .word v q words } = .next t →
    step s = .next (t.finish rest)

/-- A step whose act is an event runs that event about its subject, and then passes one cycle; an act of waiting passes its cycles, none past the
moment at which a SACK is due (R204), and changes nothing else but the tape (log 1, log 4). -/
def Sys2Proof.Claims.EventStepRunsTheEvent : Prop :=
  (∀ (s t : State) (i : Instr) (on : Subject) (rest : List Act),
    s.nextAct = (.ev i on, rest) → exec i (onEvent s on) = .next t → step s = .next (t.finish rest)) ∧
  (∀ (s : State) (n : Nat) (rest : List Act), s.nextAct = (.tick n, rest) → step s = .next ({ s with now := s.now + s.idle n }.finish rest)) ∧
  (∀ (s : State) (n : Nat), (∀ w ∈ s.reorders, w.unsacked = 0) → s.idle n = n - 1) ∧
  (∀ (s : State) (n : Nat), ∀ w ∈ s.reorders, 0 < w.unsacked → s.now + s.idle n ≤ Nat.max s.now (w.oldest + 255))

/-- What every step does after its act: one cycle passes, the latch is cleared, the tape goes on, memory is in its canonical form with no byte changed,
and the SACKs that are due leave (R204): with none due, nothing else happens. -/
def Sys2Proof.Claims.FinishPassesOneCycle : Prop :=
  ∀ (t : State) (rest : List Act),
    (t.finish rest).now = t.now + 1 ∧ (t.finish rest).cur = .none ∧ (t.finish rest).sched = rest ∧ (t.finish rest).mem = memCanon t.mem ∧
    (t.finish rest).raisings = t.raisings ∧ (t.finish rest).reqs = t.reqs ∧ (t.finish rest).vdevs = t.vdevs ∧
    ((∀ w ∈ t.reorders, w.due (t.now + 1) = false) →
      t.finish rest = { t with now := t.now + 1, cur := .none, sched := rest, mem := memCanon t.mem })

/-- A step runs what it decodes: a firing step the slot word of the latched firing, a queue step the word at QPTR, an event step the event. -/
def Obligations.StepRunsTheDecodedInstruction : Prop :=
  Claims.FiringStepRunsTheDecodedInstruction ∧
  Claims.QueueStepRunsTheDecodedInstruction ∧
  Claims.EventStepRunsTheEvent ∧
  Claims.FinishPassesOneCycle

/-- A sequencer that takes a word which R293 does not let it execute stops the queue with QPTR at the head word and writes the record
of R293, whose ADDR is the index of the offending word. -/
def Obligations.BadQueueWordStopsTheQueue : Prop :=
  ∀ (s : State) (v : VdRef) (q : Nat) (x : Queue) (d : Vdev) (e : DecodeErr) (c : Cause) (k : Nat),
    s.queue? v q = some x → s.vdev? v = some d → x.takes = true → s.inSlot v = true → decodeQueue (x.prog.drop x.qptr) = .error e →
    ((e = .queueMisaligned k ∧ c = .queueMisaligned) ∨ (e = .queueUndefined k ∧ c = .queueUndefined)) →
    ∃ t, takeWord exec s v q = .next t ∧
      t.queue? v q = some { x with state := .stopped, work := none } ∧
      ∀ p, s.part? v.part = some p → ∃ f, (t.part? v.part).map (·.faults) = some (p.faults ++ [f]) ∧
        f.cause = c.code ∧ f.part = v.part ∧ f.vdid = v.vd ∧ f.raiseid = 0xFFFFFFFF ∧ f.bent = 0 ∧ f.blk = 0 ∧ f.slot = 0 ∧
        f.ecx = 0 ∧ f.ecy = 0 ∧ f.addr = x.qptr + k ∧ f.aux = q

/-- What the state holds right after a cold reset: nothing placed, no queue, no memory written, and the package at the origin ready with
Kiln running and the admission of launches open (R259, R262, R270; log 3 names what the spec gives no value for). -/
def Obligations.ResetLeavesTheMachineEmpty : Prop :=
  State.reset.mem = [] ∧ State.reset.raisings = [] ∧ State.reset.queues = [] ∧ State.reset.vdevs = [] ∧ State.reset.parts = [] ∧
  State.reset.reqs = [] ∧ State.reset.fqueues = [] ∧ State.reset.sems = [] ∧ State.reset.checkpoints = [] ∧
  (∀ a, memRead State.reset.mem a = 0) ∧
  ∃ p, State.reset.plat? { px := 0, py := 0 } = some p ∧ p.ready = true ∧ p.recovery = false ∧ p.kiln = true ∧ p.admitStop = false ∧
    p.faultSeq = 0

/-- The machine's invariant, the canonical form of memory, holds after reset; the form is the model's choice and no rule of the spec (log 2). -/
def Obligations.ResetMemoryIsCanonical : Prop := Inv State.reset

/-- The invariant that every instruction, every event and every step keeps: memory is in its canonical form, so that equal memories are equal data. The
form is the model's choice and no rule of the spec (log 2). -/
def Obligations.StepKeepsMemoryCanonical : Prop :=
  (∀ (i : Instr) (s t : State), Inv s → exec i s = .next t → Inv t) ∧ (∀ s t : State, Inv s → step s = .next t → Inv t)

/-! ## The firing rule (R28, R29) -/

/-- A null operand: a null token of the same tag leaves to each target, and nothing else happens. -/
def Sys2Proof.Claims.NullOperandPassesANull : Prop :=
  ∀ mk ∈ plainOps, ∀ (o : SlotOps) (s : State) (c : Ctx), s.firing? = some c → c.toks.any (fun t => t.shape == .null) = true →
    exec (mk o) s = .next (s.emit2 c o (nullTok c.tag))

/-- A firing predicated off: it emits nothing and changes nothing. P is false when bits 63 to 0 of its payload are all zero (R29). -/
def Sys2Proof.Claims.PredicatedOffChangesNothing : Prop :=
  ∀ mk ∈ plainOps, ∀ (o : SlotOps) (s : State) (c : Ctx) (p : WaitTok), s.firing? = some c →
    c.toks.any (fun t => t.shape == .null) = false → c.p = some p →
    ((o.pr = 1 ∧ p.tok.pay.setWidth 64 = 0) ∨ (o.pr = 2 ∧ p.tok.pay.setWidth 64 ≠ 0)) →
    exec (mk o) s = .next s

/-- P decides between the other two cases of R28 as R29 says: with no null operand, a firing of PR = 01 runs exactly when bits 63 to 0 of
P's payload are not all zero, one of PR = 10 exactly when they are all zero, whatever P's shape. -/
def Sys2Proof.Claims.PredicateTruthDecides : Prop :=
  ∀ (c : Ctx) (p : WaitTok), c.toks.any (fun t => t.shape == .null) = false → c.p = some p →
    (fireCase 1 c = .run ↔ p.tok.pay.setWidth 64 ≠ (0 : BitVec 64)) ∧ (fireCase 2 c = .run ↔ p.tok.pay.setWidth 64 = (0 : BitVec 64)) ∧
    (fireCase 1 c = .off ↔ p.tok.pay.setWidth 64 = (0 : BitVec 64)) ∧ (fireCase 2 c = .off ↔ p.tok.pay.setWidth 64 ≠ (0 : BitVec 64))

/-! ## The computing instructions -/

/-- A two-operand integer instruction runs: both targets receive, under the firing's tag, the lanes of R304, R364, R404 and R447 at the
type that R295 lets execute (a scalar when both operands are, R26), and FLAGS takes the OR of the lanes' flags (R130). -/
def Sys2Proof.Claims.IntegerTwoOperandCompletes : Prop :=
  ∀ p ∈ int2Ops, ∀ (o : SlotOps) (s : State) (c : Ctx), Runs s o c →
    let ty := (intTy o.ty).1
    let bound := s.bBound c
    exec (p.1 o) s = .next (s.deliver o c (laneResult c (c.atok.isScalar && (bound || c.btok.isScalar)) (laneBits ty)
      (List.zipWith (intLane2 p.2 ty) (c.atok.plain.lanes (laneBits ty) (laneCount ty))
        (if bound then List.replicate (laneCount ty) (immInt o.x (laneBits ty)) else c.btok.plain.lanes (laneBits ty) (laneCount ty)))
      ((intTy o.ty).2 ||| rsvx (!bound && o.x != 0))))

/-- The other integer instructions run: one operand (NEG, ABS, CLZ, POPC), a multiply-add with constant CIDX (MAD, R365), a comparison
to masks (CMP, R306), a choice by the bits of a constant (SEL, R405), a shifted sum (LEA, R363), the A token (MOV) and the immediate
under A's tag (MOVI, R366). -/
def Sys2Proof.Claims.OtherIntegerCompletes : Prop :=
  ∀ (o : SlotOps) (s : State) (c : Ctx), Runs s o c →
    let ty := (intTy o.ty).1
    let w := laneBits ty
    let as_ := c.atok.plain.lanes w (laneCount ty)
    let bs := c.btok.plain.lanes w (laneCount ty)
    let both := c.atok.isScalar && c.btok.isScalar
    let k := s.constAt c (o.xf 0 16)
    (∀ p ∈ int1Ops, exec (p.1 o) s = .next (s.deliver o c (laneResult c c.atok.isScalar w (as_.map (intLane1 p.2 ty))
      ((intTy o.ty).2 ||| rsvx (o.x != 0))))) ∧
    exec (.mad o) s = .next (s.deliver o c (laneResult c both w
      (List.zipWith (fun a b => wrapIov ty (intOf ty a * intOf ty b + intOf ty (k.toNat % 2 ^ w))) as_ bs)
      ((intTy o.ty).2 ||| rsvx (o.xf 16 13 != 0)))) ∧
    exec (.cmp o) s = .next (s.deliver o c (laneResult c both w
      (List.zipWith (fun a b => (if intCond (o.xf 0 3) (intOf ty a) (intOf ty b) then 2 ^ w - 1 else 0, 0)) as_ bs)
      ((intTy o.ty).2 ||| rsvx (o.xf 3 26 != 0)))) ∧
    exec (.sel o) s = .next (s.deliver o c (laneResult c both w
      (List.zipWith (fun ab i => (if k.getLsbD i then ab.1 else ab.2, 0)) (as_.zip bs) (List.range (laneCount ty)))
      ((intTy o.ty).2 ||| rsvx (o.xf 16 13 != 0)))) ∧
    exec (.lea o) s = .next (s.deliver o c (laneResult c both w
      (List.zipWith (fun a b => ((a + b * 2 ^ o.xf 0 3) % 2 ^ w, 0)) as_ bs) ((intTy o.ty).2 ||| rsvx (o.xf 3 26 != 0)))) ∧
    exec (.mov o) s = .next (s.deliver o c { tok := c.atok.plain, flags := 0, warn := (intTy o.ty).2 ||| rsvx (o.x != 0) }) ∧
    exec (.movi o) s = .next (s.deliver o c { tok := scalarTok c.tag (immInt o.x w), flags := 0, warn := (intTy o.ty).2 })

/-- The integer instructions complete with the results of their lanes. -/
def Obligations.IntegerInstructionsComplete : Prop :=
  Claims.IntegerTwoOperandCompletes ∧
  Claims.OtherIntegerCompletes

namespace Sys2Proof.Claims

/-- A lane as a bit vector, signed or not, is read as the spec reads it. -/
def laneInt {w : Nat} (signed : Bool) (v : BitVec w) : Int := if signed then v.toInt else v.toNat

/-- The result bits of the integer operations on two lanes of w bits, written from R122, R304, R364, R404 and R447 on bit vectors. -/
def lane2Bits {w : Nat} (op : IntOp2) (signed : Bool) (a b : BitVec w) : BitVec w :=
  let k := b.toNat % w
  match op with
  | .add => a + b
  | .sub => a - b
  | .mul => a * b
  | .mulh => BitVec.ofInt w (laneInt signed a * laneInt signed b / 2 ^ w)
  | .div => if signed then a.sdiv b else a.udiv b
  | .rem => if b = 0 then a else if signed then a.srem b else a.umod b
  | .min => if laneInt signed a ≤ laneInt signed b then a else b
  | .max => if laneInt signed b ≤ laneInt signed a then a else b
  | .and => a &&& b
  | .or => a ||| b
  | .xor => a ^^^ b
  | .andn => a &&& ~~~ b
  | .shl => a <<< k
  | .shr => a >>> k
  | .sar => a.sshiftRight k
  | .rot => a.rotateLeft k
  | .sext => (a.setWidth (k + 1)).signExtend w
  | .zext => (a.setWidth (k + 1)).setWidth w
  | .adds =>
    if signed then
      (if a.toInt + b.toInt < -(2 ^ (w - 1)) then BitVec.intMin w
       else if 2 ^ (w - 1) ≤ a.toInt + b.toInt then BitVec.intMax w else a + b)
    else if 2 ^ w ≤ a.toNat + b.toNat then BitVec.allOnes w else a + b
  | .subs =>
    if signed then
      (if a.toInt - b.toInt < -(2 ^ (w - 1)) then BitVec.intMin w
       else if 2 ^ (w - 1) ≤ a.toInt - b.toInt then BitVec.intMax w else a - b)
    else if a.toNat < b.toNat then 0 else a - b

/-- Whether the exact sum, difference or product of two lanes lies outside the range of w bits. -/
def outOfRange (w : Nat) (signed : Bool) (v : Int) : Bool :=
  if signed then v < -(2 ^ (w - 1)) || 2 ^ (w - 1) ≤ v else v < 0 || 2 ^ w ≤ v

/-- The flags of an integer operation on two lanes (R122, R304, R364, R404). -/
def lane2Flags {w : Nat} (op : IntOp2) (signed : Bool) (a b : BitVec w) : BitVec 8 :=
  let x := laneInt signed a
  let y := laneInt signed b
  match op with
  | .add => flagIf (outOfRange w signed (x + y)) flIOV
  | .sub => flagIf (outOfRange w signed (x - y)) flIOV
  | .mul => flagIf (outOfRange w signed (x * y)) flIOV
  | .adds => flagIf (outOfRange w signed (x + y)) flSAT
  | .subs => flagIf (outOfRange w signed (x - y)) flSAT
  | .div => if b = 0 then flDZ else flagIf (signed && a == BitVec.intMin w && y == -1) flIOV
  | .rem => if b = 0 then flDZ else flagIf (signed && a == BitVec.intMin w && y == -1) flIOV
  | _ => 0

end Sys2Proof.Claims

/-- Every integer operation of R122, at every integer type and on every lane, gives the bits and the flags of R122, R304, R364, R404 and
R447 as bit vectors of the type's width say them: a quotient by 0 is 0 with DZ and the remainder is the dividend; the minimum by −1 gives
the minimum and 0 with IOV; shift amounts are taken modulo the width; NEG, ABS and MAD give the exact result modulo 2^w, with IOV when it
lies outside the range. -/
def Obligations.IntegerLanesFollowTheTables : Prop :=
  (∀ (op : IntOp2) (ty : Nat), ty < 8 → ∀ a b : BitVec (laneBits ty),
    intLane2 op ty a.toNat b.toNat = ((lane2Bits op (signedTy ty) a b).toNat, lane2Flags op (signedTy ty) a b)) ∧
  (∀ ty : Nat, ty < 8 → ∀ a b k : BitVec (laneBits ty),
    let z := fun (x : BitVec (laneBits ty)) => laneInt (signedTy ty) x
    intLane1 .neg ty a.toNat = ((-a).toNat, flagIf (outOfRange (laneBits ty) (signedTy ty) (-(z a))) flIOV) ∧
    intLane1 .abs ty a.toNat = ((if signedTy ty && a.msb then -a else a).toNat, flagIf (signedTy ty && a == BitVec.intMin _) flIOV) ∧
    wrapIov ty (intOf ty a.toNat * intOf ty b.toNat + intOf ty k.toNat) =
      ((a * b + k).toNat, flagIf (outOfRange (laneBits ty) (signedTy ty) (z a * z b + z k)) flIOV))

/-- The floating-point instructions run: two operands (FADD to FMAX, R339), FSCL (R344), one operand (FSQRT, FABS, FNEG, FCLAS, FRND),
FFMA with constant CIDX (R340) and FCMP (R341), lane by lane at the type and in the mode that execute. -/
def Sys2Proof.Claims.FloatingPointCompletes : Prop :=
  ∀ (o : SlotOps) (s : State) (c : Ctx), Runs s o c →
    let ty := (fpTy o.ty).1
    let f := fmtOf ty
    let w := laneBits ty
    let r := rndOf o.mod (s.rmodeOf c.br c.u)
    let bound := s.bBound c
    let as_ := c.atok.plain.lanes w (laneCount ty)
    let b2 := c.btok.plain.lanes w (laneCount ty)
    let bs := if bound then List.replicate (laneCount ty) (immFp o.x ty) else b2
    let sc := c.atok.isScalar && (bound || c.btok.isScalar)
    let both := c.atok.isScalar && (false || c.btok.isScalar)
    let t2 := (fpTy o.ty).2 ||| rsvImm bound o
    (∀ p ∈ fp2Ops, exec (p.1 o) s = .next (s.deliver o c (laneResult c sc w (List.zipWith (fpLane2 p.2 f r.1) as_ bs)
      (t2 ||| if p.2 = .min ∨ p.2 = .max then 0 else r.2)))) ∧
    exec (.fscl o) s = .next (s.deliver o c (laneResult c sc w (List.zipWith (fsclLane f r.1) as_ bs) (t2 ||| r.2))) ∧
    exec (.fsqrt o) s = .next (s.deliver o c (laneResult c c.atok.isScalar w (as_.map (sqrtLane f r.1))
      ((fpTy o.ty).2 ||| rsvx (o.x != 0) ||| r.2))) ∧
    exec (.fabs o) s = .next (s.deliver o c (laneResult c c.atok.isScalar w (as_.map (fsignLane f false))
      ((fpTy o.ty).2 ||| rsvx (o.x != 0) ||| 0))) ∧
    exec (.fneg o) s = .next (s.deliver o c (laneResult c c.atok.isScalar w (as_.map (fsignLane f true))
      ((fpTy o.ty).2 ||| rsvx (o.x != 0) ||| 0))) ∧
    exec (.fclas o) s = .next (s.deliver o c (laneResult c c.atok.isScalar w (as_.map (fclasLane f))
      ((fpTy o.ty).2 ||| rsvx (o.x != 0) ||| 0))) ∧
    exec (.frnd o) s = .next (s.deliver o c (laneResult c c.atok.isScalar w (as_.map (frndLane f r.1 (o.x.getLsbD 0)))
      ((fpTy o.ty).2 ||| rsvx (o.xf 1 28 != 0) ||| r.2))) ∧
    exec (.ffma o) s = .next (s.deliver o c (laneResult c both w
      (List.zipWith (fun a b => fmaLane f r.1 a b ((s.constAt c (o.xf 0 16)).toNat % 2 ^ w)) as_ b2)
      ((fpTy o.ty).2 ||| r.2 ||| rsvx (o.xf 16 13 != 0)))) ∧
    exec (.fcmp o) s = .next (s.deliver o c (laneResult c both w (List.zipWith (fcmpLane f (o.xf 0 4)) as_ b2)
      ((fpTy o.ty).2 ||| rsvx (o.xf 4 25 != 0))))

/-- CVT runs: the lanes of A at the source type, or the values of its e2m1 or OX4 codes, each divided exactly by the scale (1 without SC) and
converted once to the destination, a scalar exactly when A was one; NV is raised by a signalling NaN of the source and by a bad scale, with which
every lane converts as a NaN (R129, R328, R329). A NaN goes to the canonical NaN of a floating-point format, and to +0 with NV in e2m1. -/
def Sys2Proof.Claims.ConversionCompletes : Prop :=
  (∀ (o : SlotOps) (s : State) (c : Ctx), Runs s o c →
    let dst := o.ty.toNat
    let src := o.xf 0 4
    let m := rndOf o.mod (s.rmodeOf c.br c.u)
    let n := min (laneCount src) (laneCount dst)
    let codes := c.atok.plain.lanes (laneBits src) (laneCount src)
    let from_ := if src = 0xF then cvtSource src (codes.take (if n ≤ 32 then 32 else 64)) else ((codes.take n).map (laneVal src), 0)
    let vs := from_.1.take n
    let scale := if o.x.getLsbD 5 then scaleF32 ((c.btok.plain.lanes 32 8).headD 0) else some { neg := false, m := 1, e := 0 }
    let qs := match scale with
      | some d => vs.map (FVal.scaled m.1 d)
      | none => vs.map (fun _ => .nan false)
    let r := laneResult c c.atok.isScalar (laneBits dst) (cvtLanes src dst m.1 (o.x.getLsbD 4 && dst == 0xC) qs)
      (m.2 ||| rsvx (o.xf 6 23 != 0 || (o.x.getLsbD 4 && dst != 0xC)) ||| (if from_.2 != 0 && 32 ≤ n then warnBit 26 else 0))
    exec (.cvt o) s = .next (s.deliver o c { r with flags := r.flags ||| sigFlags vs ||| flagIf scale.isNone flNV })) ∧
  (∀ (src dst : Nat) (m : Rnd) (nov : Bool), 8 ≤ dst → dst ≤ 0xD → cvtLane src dst m nov (.nan false) = ((fmtOf dst).nanCode, 0)) ∧
  (∀ (src : Nat) (m : Rnd) (nov : Bool), cvtLane src 0xE m nov (.nan false) = (0, flNV))

/-- The floating-point instructions and the conversions complete with the results of their lanes. -/
def Obligations.FloatingPointInstructionsComplete : Prop :=
  Claims.FloatingPointCompletes ∧
  Claims.ConversionCompletes

/-- A NaN operand of a two-operand floating-point operation makes the result the canonical NaN of the type, and NV is raised exactly
when an operand is a signalling NaN (R115, R339). -/
def Obligations.NanOperandsGiveTheCanonicalNan : Prop :=
  ∀ (op : FpOp2) (ty : Nat) (m : Rnd) (a b : Nat), 8 ≤ ty → ty ≤ 0xD →
    let f := fmtOf ty
    (f.decode a).isNan = true ∨ (f.decode b).isNan = true →
    (fpLane2 op f m a b).1 = f.nanCode ∧
    ((fpLane2 op f m a b).2 = flagIf (f.decode a == .nan true || f.decode b == .nan true) flNV)

/-- RoundTo gives back every finite value of a format unchanged, in every mode, with no flag (R6, R114, R124). -/
def Obligations.RepresentableValuesRoundToThemselves : Prop :=
  ∀ (ty : Nat) (m : Rnd) (nov : Bool) (code : Nat) (d : Dy), 8 ≤ ty → ty ≤ 0xE → code < 2 ^ (fmtOf ty).bits →
    (fmtOf ty).decode code = .fin d → (fmtOf ty).round m nov d = (code, 0)

/-- A correctly rounded function runs unless the Jointer has no room for the lanes that take the second phase (R146): the value of each lane is the one of R140, and it leaves at once
when no lane takes the second phase; otherwise the token waits in the cluster's Jointer with SPH among its flags (R144, R145). FEXPL does
what EXP does and counts in DEPCOUNT (R254, R345). -/
def Sys2Proof.Claims.CorrectlyRoundedFunctionsComplete : Prop :=
  ∀ (o : SlotOps) (s : State) (c : Ctx), Runs s o c →
    let ty := (fnTy o.ty).1
    let f := fmtOf ty
    let w := laneBits ty
    let m := rndOf o.mod (s.rmodeOf c.br c.u)
    let as_ := c.atok.plain.lanes w (laneCount ty)
    let bs := c.btok.plain.lanes w (laneCount ty)
    let warn := (fnTy o.ty).2 ||| m.2 ||| rsvx (o.x != 0)
    let ends := fun (i : Instr) (t : State) (opc : Nat) (sc : Bool) (ls : List (Nat × Nat)) (rs : List (Nat × BitVec 8 × Bool)) =>
      let r := laneResult c sc w (rs.map (fun x => (x.1, x.2.1))) warn
      let n := secondLanes opc ty m.1.code (if sc then ls.take 1 else ls) rs
      s.jointerFull c n = false → exec i s = .next (if n = 0 then t.deliver o c r else t.toJointer o c ty r n)
    (∀ p ∈ fnOps, ends (p.1 o) s p.2.2 c.atok.isScalar (as_.zip as_) ((as_.zip as_).map (fun x => crLane p.2.1 f m.1 x.1 x.2))) ∧
    ends (.pow o) s 0x3F (c.atok.isScalar && c.btok.isScalar) (as_.zip bs) ((as_.zip bs).map (fun x => crLane .pow f m.1 x.1 x.2)) ∧
    ends (.fexpl o) (s.deprecate c.br.rid) 0x30 c.atok.isScalar (as_.zip as_) ((as_.zip as_).map (fun x => crLane .exp f m.1 x.1 x.2))

/-- The fast-approximate functions run: one of the values within the bound of R149 in each lane, which of them being free (log 11). -/
def Sys2Proof.Claims.ApproximateFunctionsComplete : Prop :=
  ∀ p ∈ apOps, ∀ (o : SlotOps) (s : State) (c : Ctx), Runs s o c →
    let ty := (apTy o.ty).1
    exec (p.1 o) s = .next (s.deliver o c (laneResult c c.atok.isScalar (laneBits ty)
      ((c.atok.plain.lanes (laneBits ty) (laneCount ty)).map (approxLane p.2.1 p.2.2 ty)) ((apTy o.ty).2 ||| rsvx (o.x != 0))))

/-- The correctly rounded and the approximate functions complete with the results of their lanes (log 10 and log 11). -/
def Obligations.FunctionInstructionsComplete : Prop :=
  Claims.CorrectlyRoundedFunctionsComplete ∧
  Claims.ApproximateFunctionsComplete

/-- The lane instructions run: SHUF picks lanes by index modulo their number, or 0 out of range with .z (R417); BCST fills every lane with
lane L (R314); REDL and SCAN combine lanes and prefixes in canonical order (R402, R403); PACK and UNPK narrow and widen (R377, R378,
R440). -/
def Obligations.LaneInstructionsComplete : Prop :=
  ∀ (o : SlotOps) (s : State) (c : Ctx), Runs s o c →
    let ty := (laneTy o.ty).1
    let w := laneBits ty
    let n := laneCount ty
    let as_ := c.atok.plain.lanes w n
    let bound := s.bBound c
    let op := o.xf 0 4
    let m := if op = 6 then rndOf o.mod (s.rmodeOf c.br c.u) else (.rne, 0)
    let imm := if ty < 8 then immInt o.x w else immFp o.x ty
    let pick := fun i => if o.mod.getLsbD 0 && n ≤ i then 0 else as_.getD (i % n) 0
    exec (.shuf o) s = .next (s.deliver o c (laneResult c (c.atok.isScalar && (bound || c.btok.isScalar)) w
      ((if bound then List.replicate n imm else c.btok.plain.lanes w n).map (fun i => (pick i, 0)))
      ((laneTy o.ty).2 ||| rsvImm bound o ||| rsvx (2 ≤ o.mod.toNat)))) ∧
    exec (.bcst o) s = .next (s.deliver o c (laneResult c false w (List.replicate n (as_.getD (o.xf 0 6) 0, 0))
      ((laneTy o.ty).2 ||| rsvx (o.xf 6 23 != 0)))) ∧
    exec (.redl o) s = .next (s.deliver o c (laneResult c true w [canonLanes op ty m.1 as_]
      ((laneTy o.ty).2 ||| m.2 ||| rsvx (o.xf 4 25 != 0)))) ∧
    exec (.scan o) s = .next (s.deliver o c (laneResult c false w
      ((List.range n).map (fun i => if o.x.getLsbD 4 && i == 0 then (scanIdentity op ty, 0)
        else canonLanes op ty m.1 (as_.take (if o.x.getLsbD 4 then i else i + 1))))
      ((laneTy o.ty).2 ||| m.2 ||| rsvx (o.xf 5 24 != 0)))) ∧
    exec (.pack o) s = .next (s.deliver o c (laneResult c (c.atok.isScalar && c.btok.isScalar) (laneBits o.ty.toNat)
      ((c.atok.plain.lanes (2 * laneBits o.ty.toNat) (256 / (2 * laneBits o.ty.toNat)) ++
        c.btok.plain.lanes (2 * laneBits o.ty.toNat) (256 / (2 * laneBits o.ty.toNat))).map (packLane o.ty.toNat (o.mod.getLsbD 0)))
      (rsvx (2 ≤ o.mod.toNat || o.x != 0)))) ∧
    (let wu := laneBits o.ty.toNat
     let half := 128 / wu
     exec (.unpk o) s = .next (s.deliver o c (laneResult c c.atok.isScalar (2 * wu)
      ((((c.atok.plain.lanes wu (laneCount o.ty.toNat)).drop (if o.mod.getLsbD 0 then half else 0)).take half).map (fun v =>
        (if o.ty.toNat < 6 && signedTy o.ty.toNat && 2 ^ (wu - 1) ≤ v then v + 2 ^ (2 * wu) - 2 ^ wu else v, 0)))
      (rsvx (2 ≤ o.mod.toNat || o.x != 0)))))

namespace Sys2Proof.Claims

/-- The parts of an element that no computing instruction writes. -/
def Quiet (e e' : Elem) : Prop :=
  e' = { e with link := e'.link, flags := e'.flags, warn := e'.warn }

end Sys2Proof.Claims

/-- What a computing instruction leaves alone (its form stores nothing): every byte of memory and its presence, every request, queue,
semaphore, virtual device and platform; of every element all but its incoming links, FLAGS and WARN; FLAGS and WARN of every element but
the firing one; and the firing one's keep the bits they had (R130, R131, R294). -/
def Obligations.ComputingInstructionsFrame : Prop :=
  ∀ mk ∈ computeOps, ∀ (o : SlotOps) (s t : State) (c : Ctx), s.firing? = some c → exec (mk o) s = .next t →
    t.mem = s.mem ∧ t.presence = s.presence ∧ t.enc = s.enc ∧ t.reqs = s.reqs ∧ t.queues = s.queues ∧ t.sems = s.sems ∧
    t.vdevs = s.vdevs ∧ t.platforms = s.platforms ∧ t.now = s.now ∧ t.sched = s.sched ∧
    (∀ a n k, t.readKey a n k = s.readKey a n k) ∧
    (∀ br b, s.bent? br = some b → ∃ b', t.bent? br = some b' ∧ b'.pool = b.pool ∧ b'.ctxs = b.ctxs ∧ b'.spill = b.spill ∧
      b'.spillCnt = b.spillCnt ∧ b'.frozenTags = b.frozenTags ∧ b'.engRmode = b.engRmode ∧
      b'.timelines.map (·.g) = b.timelines.map (·.g) ∧
      ((∃ x y, c.u = .elem x y) → b'.engFlags = b.engFlags ∧ b'.engWarn = b.engWarn)) ∧
    (∀ br cx cy e, s.elem? br cx cy = some e → ∃ e', t.elem? br cx cy = some e' ∧ Quiet e e' ∧
      ((br ≠ c.br ∨ c.u ≠ .elem cx cy) → e'.flags = e.flags ∧ e'.warn = e.warn) ∧
      e'.flags &&& e.flags = e.flags ∧ e'.warn &&& e.warn = e.warn)

/-! ## Token control -/

/-- STEER sends A's token to T0 when P is true and to T1 when it is false (R29, R424); MERGE passes the token that P selected (R371); NULL
answers a null whatever A holds (R376); DROP consumes its token (R331). The WARN word takes PRCTL for a PR that is not 00 (R274). -/
def Obligations.SteeringCompletes : Prop :=
  ∀ (o : SlotOps) (s : State) (c : Ctx), s.firing? = some c → c.toks.any (fun t => t.shape == .null) = false →
    (∀ p : WaitTok, c.p = some p → exec (.steer o) s =
      .next ((s.raiseWarn c.br c.u (prCtl o ||| rsvx (o.x != 0))).emit c (if p.tok.pay.setWidth 64 = (0 : BitVec 64) then o.t1 else o.t0) c.atok)) ∧
    exec (.merge o) s = .next ((s.raiseWarn c.br c.u (prCtl o ||| rsvx (o.x != 0))).emit2 c o (if c.a.isSome then c.atok else c.btok)) ∧
    (fireCase (prEff o).1 c = .run →
      exec (.null o) s = .next ((s.raiseWarn c.br c.u ((prEff o).2 ||| rsvx (o.x != 0))).emit2 c o (nullTok c.tag)) ∧
      exec (.drop o) s = .next (s.raiseWarn c.br c.u ((prEff o).2 ||| rsvx (o.x != 0))))

/-- A null among the tokens of a STEER or MERGE firing gives a null to each target (R28, R371, R424). -/
def Sys2Proof.Claims.SteeringPassesNulls : Prop :=
  ∀ (o : SlotOps) (s : State) (c : Ctx), s.firing? = some c → c.toks.any (fun t => t.shape == .null) = true →
    exec (.steer o) s = .next (s.emit2 c o (nullTok c.tag)) ∧ exec (.merge o) s = .next (s.emit2 c o (nullTok c.tag))

/-- The first rows of R28: a null operand makes an instruction pass a null on, P decides whether a predicate turns it off, and STEER and MERGE pass nulls
as their own rules say. -/
def Obligations.NullsAndPredicatesFollowTheFiringRule : Prop :=
  Claims.NullOperandPassesANull ∧
  Claims.PredicatedOffChangesNothing ∧
  Claims.PredicateTruthDecides ∧
  Claims.SteeringPassesNulls

/-- The tag instructions run (R32, R33, R428 to R430): TAGI.ctx takes the first context of the bent's pool, records A's tag as its parent and
emits A's payload at iteration 0 of it; TAGI.nxt emits at the next iteration modulo 4,096; TAGX emits under the recorded parent tag, and
TAGX.fin also marks the context closing; a context without a parent raises TAGX_ROOT. -/
def Sys2Proof.Claims.TagInstructionsComplete : Prop :=
  ∀ (o : SlotOps) (s : State) (c : Ctx), Runs s o c →
    (∀ k rest b, s.bent? c.br = some b → b.pool = k :: rest → ∃ t w, exec (.tagiCtx o) s =
        .next ((t.raiseWarn c.br c.u w).emit2 c o { c.atok with tag := Tag.mk k 0 }) ∧
      t = s.updBent c.br (fun b => { b with pool := rest, ctxs := b.ctxs ++ [{ ctx := k, parent := c.tag, closing := false }] })) ∧
    (∃ w, exec (.tagiNxt o) s =
      .next ((s.raiseWarn c.br c.u w).emit2 c o { c.atok with tag := Tag.mk c.tag.ctx ((c.tag.iter + 1) % 4096) })) ∧
    (∀ p, s.parentOf c.br.rid c.tag = some p →
      (∃ w, exec (.tagx o) s = .next ((s.raiseWarn c.br c.u w).emit2 c o { c.atok with tag := p })) ∧
      (∃ w t, exec (.tagxFin o) s = .next ((t.raiseWarn c.br c.u w).emit2 c o { c.atok with tag := p }) ∧
        t = s.updRaising c.br.rid (fun r => { r with bents := r.bents.map (fun b =>
          { b with ctxs := b.ctxs.map (fun e => if e.ctx == c.tag.ctx then { e with closing := true } else e) }) }))) ∧
    (s.parentOf c.br.rid c.tag = none →
      exec (.tagx o) s = .next (s.fault c { cause := .tagxRoot }) ∧ exec (.tagxFin o) s = .next (s.fault c { cause := .tagxRoot }))

/-- A closing context with no live token returns to the end of its bent's pool and is forgotten by the stations, a waiting context of a REORD taking
its room (R33, R406, R429). -/
def Sys2Proof.Claims.ContextReturnCompletes : Prop :=
  ∀ (s : State) (br : BentRef) (ctx : Nat) (b : Bent) (e : CtxEntry), s.bent? br = some b → b.ctxs.find? (·.ctx == ctx) = some e →
    e.closing = true → s.liveCount br.rid ctx = 0 →
    ∃ t b', exec (.contextReturn br ctx) s = .next t ∧ t.bent? br = some b' ∧ b'.pool = b.pool ++ [ctx] ∧
      b'.ctxs = b.ctxs.filter (·.ctx != ctx) ∧ t.mem = s.mem ∧
      b'.elems.map (fun e => { e with reord := [] }) = b.elems.map (fun e => { e.clearCtx ctx with reord := [] })

/-- The tag instructions and CRET complete. -/
def Obligations.TagAndContextInstructionsComplete : Prop :=
  Claims.TagInstructionsComplete ∧
  Claims.ContextReturnCompletes

/-- KBND admits a token while fewer than k iterations of its context are live (R34, R357, R358): the count rises by one and the token
leaves. A token on port B retires an iteration: with no token waiting, the count falls by one, and the entry goes with the last, unless a token of its
context lies in the spill ring; a count of zero is KBND_UNDERFLOW. -/
def Sys2Proof.Claims.IterationBoundCompletes : Prop :=
  ∀ (o : SlotOps) (s : State) (c : Ctx) (e : Elem), Runs s o c → s.elemOf c = some e →
    (∀ k, e.kbndOf c = some k → k.live < o.xf 0 9 → ∃ w, exec (.kbndAdmit o) s =
      .next (((s.updElemOf c (fun e => e.setKbnd { k with live := k.live + 1 })).raiseWarn c.br c.u w).emit2 c o c.atok)) ∧
    (e.kbndOf c = none → (e.kbnd.filter (fun k => k.blk == c.blk && k.slot == c.slot)).length < 64 → ∃ w, exec (.kbndAdmit o) s =
      .next (((s.updElemOf c (fun e => e.setKbnd { blk := c.blk, slot := c.slot, ctx := c.tag.ctx, live := 1, first := c.tag.iter })).raiseWarn
        c.br c.u w).emit2 c o c.atok)) ∧
    (∀ k n, e.kbndOf c = some k → k.live = n + 2 →
      (∀ w, ((s.raiseWarn c.br c.u w).rowMatches c.br.rid e.rows).filter
        (fun r => r.blk == c.blk && r.slot == c.slot && r.a.isSome && r.tag.ctx == c.tag.ctx) = []) →
      ∃ w, exec (.kbndRetire o) s = .next ((s.raiseWarn c.br c.u w).updElemOf c (fun e => e.setKbnd { k with live := n + 1 }))) ∧
    (∀ k, e.kbndOf c = some k → k.live = 1 →
      (∀ w, ((s.raiseWarn c.br c.u w).rowMatches c.br.rid e.rows).filter
        (fun r => r.blk == c.blk && r.slot == c.slot && r.a.isSome && r.tag.ctx == c.tag.ctx) = []) →
      (∀ w, (s.raiseWarn c.br c.u w).kbndWaits e c = false) →
      ∃ w, exec (.kbndRetire o) s = .next ((s.raiseWarn c.br c.u w).updElemOf c (fun e => { e with kbnd := e.kbnd.filter (fun j => j != k) }))) ∧
    (e.kbndOf c = none → exec (.kbndRetire o) s = .next (s.fault c { cause := .kbndUnderflow })) ∧
    (∀ k, e.kbndOf c = some k → k.live = 0 → exec (.kbndRetire o) s = .next (s.fault c { cause := .kbndUnderflow }))

/-- GATE (R55, R349): a P token opens the gate of its context, as null when the token is null; an A token of an open gate passes, and
passes as null when a null opened it. GATE_RELEASE lets the first held A token of an open context leave. -/
def Sys2Proof.Claims.GateCompletes : Prop :=
  (∀ (o : SlotOps) (s : State) (c : Ctx) (e : Elem), s.firing? = some c → s.elemOf c = some e →
    (∀ p, c.p = some p → e.gateOf c.blk c.slot c.tag.ctx = none →
      (e.gate.filter (fun g => g.blk == c.blk && g.slot == c.slot)).length < 64 →
      exec (.gate o) s = .next (s.updElemOf c (fun e => { e with gate := e.gate ++
        [{ blk := c.blk, slot := c.slot, ctx := c.tag.ctx, null := p.tok.shape == .null }] }))) ∧
    (∀ g, c.p = none → e.gateOf c.blk c.slot c.tag.ctx = some g →
      (g.null = true ∨ c.atok.shape = .null → exec (.gate o) s = .next (s.emit2 c o (nullTok c.tag))) ∧
      (g.null = false → c.atok.shape ≠ .null →
        exec (.gate o) s = .next ((s.raiseWarn c.br c.u (prCtl o ||| rsvx (o.x != 0))).emit2 c o c.atok)))) ∧
  (∀ (s : State) (br : BentRef) (cx cy blk slot ctx : Nat) (e : Elem) (p : PSlot) (g : GateCtx) (w : WaitTok),
    s.unitRuns br (.elem cx cy) = true → s.elem? br cx cy = some e → s.slot? br.rid blk slot = some p → e.gateOf blk slot ctx = some g →
    e.rows.find? (fun w => w.blk == blk && w.slot == slot && w.port == .a && w.tok.tag.ctx == ctx) = some w →
    let o := SlotOps.ofWord p.word
    let c : Ctx := { br := br, u := .elem cx cy, blk := blk, slot := slot, tag := w.tok.tag, a := some w, b := none, p := none }
    let t := (s.updElem br cx cy (fun e => { e with rows := e.rows.erase w })).chargeAct c (slotOpc p.word)
    (g.null = false → w.tok.shape ≠ .null → exec (.gateRelease br cx cy blk slot ctx) s =
      .next ((t.raiseWarn br (.elem cx cy) (prCtl o ||| rsvx (o.x != 0))).emit2 c o w.tok)) ∧
    (g.null = true ∨ w.tok.shape = .null → exec (.gateRelease br cx cy blk slot ctx) s = .next (t.emit2 c o (nullTok w.tok.tag))))

/-- REORD (R56, R406): the token of the iteration due leaves and the due iteration advances modulo 4,096, for a context it has seen and, at
iteration 0, for one it has not; REORD_RELEASE does the same for a token that waits. -/
def Sys2Proof.Claims.ReorderCompletes : Prop :=
  (∀ (o : SlotOps) (s : State) (c : Ctx) (e : Elem), s.firing? = some c → s.elemOf c = some e →
    (e.dueOf c.blk c.slot c.tag.ctx = some c.tag.iter → exec (.reord o) s = .next (s.reordTake o c c.tag.iter)) ∧
    (e.dueOf c.blk c.slot c.tag.ctx = none → c.tag.iter = 0 →
      (e.reord.filter (fun r => r.blk == c.blk && r.slot == c.slot)).length < 64 → exec (.reord o) s = .next (s.reordTake o c 0))) ∧
  (∀ (o : SlotOps) (s : State) (c : Ctx) (due : Nat),
    ((s.updElemOf c (fun e => e.setDue c.blk c.slot c.tag.ctx ((due + 1) % 4096))).reordEmit o c).elemOf c = none ∨
    (∃ e, ((s.updElemOf c (fun e => e.setDue c.blk c.slot c.tag.ctx ((due + 1) % 4096))).reordEmit o c).elemOf c = some e ∧ e.rows = [] ∧ e.ready = []) →
    s.reordTake o c due = (s.updElemOf c (fun e => e.setDue c.blk c.slot c.tag.ctx ((due + 1) % 4096))).reordEmit o c) ∧
  (∀ (s : State) (br : BentRef) (cx cy blk slot ctx due : Nat) (e : Elem) (p : PSlot) (r : Ready),
    s.unitRuns br (.elem cx cy) = true → s.elem? br cx cy = some e → s.slot? br.rid blk slot = some p → e.dueOf blk slot ctx = some due →
    (s.rowMatches br.rid e.rows).find? (fun r => r.blk == blk && r.slot == slot && r.tag == Tag.mk ctx due) = some r →
    let c : Ctx := { br := br, u := .elem cx cy, blk := blk, slot := slot, tag := r.tag, a := r.a, b := r.b, p := r.p }
    exec (.reordRelease br cx cy blk slot ctx) s = .next (((s.updElem br cx cy (fun e => { e with rows := takeRows e.rows r })).chargeAct c
      (slotOpc p.word)).reordTake (SlotOps.ofWord p.word) c due))

/-- KBND, GATE and the reorder buffer complete. -/
def Obligations.IterationAndOrderInstructionsComplete : Prop :=
  Claims.IterationBoundCompletes ∧
  Claims.GateCompletes ∧
  Claims.ReorderCompletes

/-- JOIN (R53, R356): a legal token is merged into the row of its tag; an incomplete row is kept, a complete one with no null and no P
releases the scalar N and is freed, and an arc out of range or seen twice raises JOIN_ARC; a second P token of a tag waits (R30). -/
def Sys2Proof.Claims.JoinCompletes : Prop :=
  ∀ (o : SlotOps) (s : State) (c : Ctx) (e : Elem), s.firing? = some c → s.elemOf c = some e →
    let fresh : JoinRow := { blk := c.blk, slot := c.slot, tag := c.tag, arcs := [], nulls := 0, counter := 0, p := none }
    let old := (e.joinOf c).getD fresh
    let again := c.a = none ∧ c.b = none ∧ c.p.isSome = true ∧ old.p.isSome = true
    (again → exec (.join o) s = s.wait) ∧
    (∀ j, ¬ again → joinMerge o old c = some j → joinReady o j = false → s.rowOf c = true →
      exec (.join o) s = .next (s.updElemOf c (fun e => { e.dropJoin c with join := (e.dropJoin c).join ++ [j] }))) ∧
    (∀ j, ¬ again → joinMerge o old c = some j → joinReady o j = true → j.nulls = 0 → j.p = none →
      ∃ w, exec (.join o) s = .next (((s.updElemOf c (fun e => e.dropJoin c)).raiseWarn c.br c.u w).emit2 c o
        (scalarTok c.tag (o.xf 0 6 + 1)))) ∧
    (∀ a, c.a = some a → a.tok.shape ≠ .null →
      (o.xf 0 6 < laneAt a.tok.pay 64 0 / 2 ^ 58 ∨ laneAt a.tok.pay 64 0 / 2 ^ 58 ∈ old.arcs) →
      exec (.join o) s = .next (s.fault c { cause := .joinArc }))

/-- CTR (R327): every token passes to T0; the n-th of its context also sends the scalar n to T1 and the count starts again; another raises
its count by one. -/
def Sys2Proof.Claims.CounterCompletes : Prop :=
  ∀ (o : SlotOps) (s : State) (c : Ctx) (e : Elem), Runs s o c → s.elemOf c = some e →
    let here := fun k : CtrCtx => k.blk == c.blk && k.slot == c.slot && k.ctx == c.tag.ctx
    let rest := e.ctr.filter (fun k => !here k)
    let n := o.xf 0 16 + 1
    let count := ((e.ctr.find? here).elim 0 (·.count)) + 1
    (count = n → ∃ w, exec (.ctr o) s = .next ((((s.updElemOf c (fun e => { e with ctr := rest })).raiseWarn c.br c.u w).emit c o.t0 c.atok).emit c
      o.t1 (scalarTok c.tag n))) ∧
    (count ≠ n → (e.ctr.filter (fun k => k.blk == c.blk && k.slot == c.slot)).length < 16 ∨ e.ctr.any here = true →
      ∃ w, exec (.ctr o) s = .next (((s.updElemOf c (fun e => { e with ctr := rest ++
        [{ blk := c.blk, slot := c.slot, ctx := c.tag.ctx, count := count }] })).raiseWarn c.br c.u w).emit c o.t0 c.atok))

/-- CMB (R54, R131, R294, R318): a legal contribution that leaves its row incomplete is kept there with its flags and WARN bits; the last one frees the
row, raises what all of them set, and releases the combined value under the key; a member number out of range or seen twice in canonical mode raises CMB_MEMBER. -/
def Sys2Proof.Claims.CombineCompletes : Prop :=
  ∀ (o : SlotOps) (s : State) (c : Ctx) (e : Elem), s.firing? = some c → s.elemOf c = some e →
    let member := c.tag.iter % 2 ^ o.xf 12 3
    let key := Tag.mk c.tag.ctx (c.tag.iter - member)
    let m := if o.xf 16 4 = 6 then rndOf o.mod (s.rmodeOf c.br c.u) else (.rne, 0)
    let row := (e.cmbOf c key).getD { blk := c.blk, slot := c.slot, key := key, seen := 0, vals := [], acc := none, null := false,
                                      vector := false, flags := 0, warn := 0 }
    let fc := fireCase (prEff o).1 c
    let v := if fc = .run then some (c.atok.plain.spread o.ty.toNat) else none
    let add := cmbAdd o m.1 row member v (fc == .nullPass) (fc == .run && !c.atok.isScalar)
    (∀ r fl, add = some (r, fl) → r.seen ≠ o.xf 0 6 + 1 → (e.cmbOf c key).isSome ∨ s.rowOf c = true →
      ∃ t, exec (.cmb o) s = .next t ∧ t.fqueues = s.fqueues ∧ t.mem = s.mem ∧
        (∀ cx cy, c.u = .elem cx cy → ∃ e', t.elem? c.br cx cy = some e' ∧
          (∃ w, { r with flags := row.flags ||| fl, warn := row.warn ||| w } ∈ e'.cmb) ∧ e'.flags = e.flags ∧ e'.warn = e.warn ∧ e'.rows = e.rows)) ∧
    (∀ r fl pay, add = some (r, fl) → r.seen = o.xf 0 6 + 1 → r.null = false → (cmbValue o m.1 r).1 = some pay →
      let t := (s.updElemOf c (fun e => e.dropCmb c key)).updElemOf c (fun e =>
        if o.xf 16 4 == 6 && o.x.getLsbD 15 && fc == .run then { e with nondet := e.nondet ||| 1 } else e)
      ∃ w : BitVec 30, exec (.cmb o) s = .next (((t.raiseFlags c.br c.u (row.flags ||| fl ||| (cmbValue o m.1 r).2)).raiseWarn c.br c.u
        (row.warn ||| w)).emit2 c o (laneTok key (!r.vector) (laneBits o.ty.toNat)
        (lanesOf pay (laneBits o.ty.toNat) (laneCount o.ty.toNat))))) ∧
    (add = none → exec (.cmb o) s = .next (s.fault c { cause := .cmbMember }))

/-- JOIN, the counters and the combining instructions complete. -/
def Obligations.JoinCountAndCombineComplete : Prop :=
  Claims.JoinCompletes ∧
  Claims.CounterCompletes ∧
  Claims.CombineCompletes

/-! ## Blocks, registers and the Sill -/

/-- EXIT of a FREE block (R40, R336): the completion is counted, the activation's watch ends, A's token leaves, and with NX a start token goes
to the block it names; an index past the image raises BLOCK_INDEX. -/
def Sys2Proof.Claims.ExitOfFreeBlockCompletes : Prop :=
  ∀ (o : SlotOps) (s : State) (c : Ctx) (r : Raising), Runs s o c → s.ctxTl c = none → s.raising? c.br.rid = some r →
    let t0 := (s.endAge c).updBent c.br (fun b => { b with completions := b.completions + 1 })
    let w := (prEff o).2 ||| rsvx (o.xf 13 16 != 0)
    (o.x.getLsbD 12 = false → exec (.exit o) s = .next ((t0.raiseWarn c.br c.u w).emit2 c o c.atok)) ∧
    (o.x.getLsbD 12 = true → o.xf 0 12 < r.blocks.length → exec (.exit o) s =
      .next (((t0.raiseWarn c.br c.u w).emit2 c o c.atok).deliverStart c.br.rid
        (some (((t0.raiseWarn c.br c.u w).emit2 c o c.atok).srcCell c)) (o.xf 0 12) c.atok)) ∧
    (o.x.getLsbD 12 = true → r.blocks.length ≤ o.xf 0 12 → exec (.exit o) s = .next (s.fault c { cause := .blockIndex }))

/-- EXIT of an ORDERED activation (R42, R44, R337): the first executed EXIT is noted and ends the chain or starts the next timestamp; a
second one raises EXIT_TWICE. -/
def Sys2Proof.Claims.ExitOfOrderedBlockCompletes : Prop :=
  ∀ (o : SlotOps) (s : State) (c : Ctx) (tl : Nat) (b : Bent) (x : Timeline) (e : WinEntry), Runs s o c → s.ctxTl c = some tl →
    s.bent? c.br = some b → b.timelines[tl]? = some x → x.entry? c.tag = some e →
    let t := (((s.endAge c).updEntry c (fun e => { e with exits := 1 })).raiseWarn c.br c.u ((prEff o).2 ||| rsvx (o.xf 13 16 != 0))).emit2
      c o c.atok
    (e.exits = 0 → o.x.getLsbD 12 = false → exec (.exit o) s = .next (t.updTl c.br tl (fun x => { x with chain := false }))) ∧
    (e.exits = 0 → o.x.getLsbD 12 = true → exec (.exit o) s =
      .next (t.sillStart c.br tl (some (t.srcCell c)) { ts := e.ts + 1, blk := o.xf 0 12, tok := c.atok })) ∧
    (e.exits ≠ 0 → exec (.exit o) s = .next (s.fault c { cause := .exitTwice }))

/-- EXIT completes in a free and in an ORDERED block. -/
def Obligations.BlockExitsComplete : Prop :=
  Claims.ExitOfFreeBlockCompletes ∧
  Claims.ExitOfOrderedBlockCompletes

/-- READ answers the register as the activation sees it, and WRITE buffers bits 63 to 0 of A under the activation's timestamp and passes A
on; a nullified WRITE accounts its register without a value (R44, R45, R401, R444). -/
def Obligations.RegisterAccessCompletes : Prop :=
  ∀ (o : SlotOps) (s : State) (c : Ctx), s.firing? = some c →
    (fireCase (prEff o).1 c = .run →
      (∀ tl b x e v, s.ctxTl c = some tl → s.bent? c.br = some b → b.timelines[tl]? = some x → x.entry? c.tag = some e →
        s.gValue c.br.rid x e.ts (o.xf 0 6) = some v → ∃ w, exec (.read o) s =
          .next ((s.raiseWarn c.br c.u w).emit2 c o (scalarTok c.tag v.toNat))) ∧
      (∃ w, exec (.write o) s = .next (((s.updEntry c (fun e => { e with writes := e.writes.filter (fun w => w.1 != o.xf 0 6) ++
        [(o.xf 0 6, some (c.atok.pay.setWidth 64))] })).raiseWarn c.br c.u w).emit2 c o c.atok.plain))) ∧
    (let t := s.updEntry c (fun e => { e with writes := e.writes.filter (fun w => w.1 != o.xf 0 6) ++ [(o.xf 0 6, none)] })
     (fireCase (prEff o).1 c = .off → exec (.write o) s = .next t) ∧
     (fireCase (prEff o).1 c = .nullPass → exec (.write o) s = .next (t.emit2 c o (nullTok c.tag))))

/-- READ's lookup (R45): the value of the youngest older activation that has the register in its write mask, past activations that do not and
past those whose WRITE of it was nullified; none, so that READ waits, while that activation's WRITE is pending; and the committed value when no older
activation in flight gives one. -/
def Obligations.RegistersReadTheYoungestOlderWrite : Prop :=
  ∀ (s : State) (rid : Nat) (x : Timeline) (ts g : Nat),
    let writes := fun e : WinEntry => maskBit ((s.block? rid e.blk).elim 0 (·.wrmask)) g = true
    let found := fun e : WinEntry => e.writes.find? (fun w => w.1 == g)
    let passed := fun e : WinEntry => ¬ e.ts < ts ∨ ¬ writes e ∨ found e = some (g, none)
    ((∀ e ∈ x.win, passed e) → s.gValue rid x ts g = some (x.g.getD g 0)) ∧
    (∀ (older younger : List WinEntry) (e : WinEntry), x.win = older ++ e :: younger → e.ts < ts → writes e → (∀ y ∈ younger, passed y) →
      (∀ v, found e = some (g, some v) → s.gValue rid x ts g = some v) ∧ (found e = none → s.gValue rid x ts g = none))

/-- ACTIVATION_COMMIT (R44, R46, R97): a complete oldest activation with no held fault leaves the window; its stores are performed lowest
LSID first, where their addresses lead now (R100, R173, R182), and its registers take their buffered values. With no other token to send and nothing
waiting, that is all. -/
def Sys2Proof.Claims.CommitCompletes : Prop :=
  ∀ (s u : State) (br : BentRef) (tl : Nat) (b : Bent) (x : Timeline) (e : WinEntry) (rest : List WinEntry) (l : List SillStore),
    s.bentLive br = true → s.bent? br = some b → b.timelines[tl]? = some x → x.win = e :: rest → s.entryDone br.rid e = true →
    e.faults = [] → e.stores.any (·.frozen) = false → s.settleStores br b.pkg e.stores = .ready l u → u.raisings = s.raisings →
    e.held = [] → x.waiting = [] → (∀ y ∈ rest, y.faults = []) →
    ∃ t b', exec (.activationCommit br tl) s = .next t ∧ t.bent? br = some b' ∧
      (∃ y, b'.timelines[tl]? = some y ∧ y.win = rest ∧
        y.g = e.writes.foldl (fun g w => match w.2 with
          | some v => g.set w.1 v
          | none => g) x.g) ∧
      t.mem = ((l.foldr insertStore []).foldl (fun s st => s.writeKey st.ga st.key st.bytes) u).mem

/-- A buffered store whose translation still stands, at a home whose port is ready, is performed where it stood (R46, R97). -/
def Sys2Proof.Claims.FreshStoreIsPerformedInPlace : Prop :=
  ∀ (s u : State) (br : BentRef) (p : Pkg) (x : SillStore), s.storeStale (s.vdOf br.rid) p x = false →
    s.portReady x.ga x.bytes.length = .ready u → s.settleStore br p x = .ready x u

/-- ABORT_REDELIVER (R47, R454): with no token of an aborted activation left, the marks go and the retained start token starts its
activation again at the timestamp it had. -/
def Sys2Proof.Claims.AbortRedeliveryCompletes : Prop :=
  ∀ (s : State) (br : BentRef) (tl : Nat) (b : Bent) (x : Timeline) (st : StartTok),
    let s1 := s.discardAborted br
    s.bentLive br = true → s1.bent? br = some b → b.timelines[tl]? = some x → x.redeliver = some st →
    (s1.liveTags br.rid).any (fun g => g.ctx == b.tlCtx.getD tl 0 && x.aborted.contains g.iter) = false →
    exec (.abortRedeliver br tl) s =
      .next ((s1.updTl br tl (fun x => { x with aborted := [], redeliver := none })).openEntry br tl none st)

/-- The Sill commits a block, and redelivers one that it aborted. The model's choices it rests on: log 85. -/
def Obligations.SillEventsComplete : Prop :=
  Claims.CommitCompletes ∧
  Claims.FreshStoreIsPerformedInPlace ∧
  Claims.AbortRedeliveryCompletes

/-! ## Memory -/

namespace Sys2Proof.Claims

/-- The conditions under which a virtual access of an element issues its request and walks (R60, R62, R65, R179, R360): the address is
aligned and canonical, the AG may hold the read, and no window of the AG translates it. -/
def WalksAway (s : State) (r : Req) (b : Bent) (e : Elem) : Prop :=
  r.loc = false ∧ r.va % r.size = 0 ∧ canonVa (BitVec.ofNat 64 r.va) = true ∧ s.readFree r = true ∧ s.bent? r.br = some b ∧
  s.elem? r.br r.cx r.cy = some e ∧
  (e.pwin.filterMap id ++ e.own).find? (fun w => s.winHits b.pkg r.vdr w
    (s.xvaOf { r with shadow := s.parityOf r.vdr r.va }) r.kind.need) = none

/-- The state after an access has issued its request and waits for its walk; the firing emits nothing yet, and its WARN bits go with the request, to be
set as it emits (R93, R294). -/
def issued (s : State) (r : Req) (w : BitVec 30) : State := s.putReq { r with shadow := s.parityOf r.vdr r.va, warn := w }

/-- A byte of a fault ring that Kiln has given memory (R187). -/
def InFaultRing (s : State) (a : Nat) : Prop :=
  ∃ p ∈ s.parts, ∃ k : Pkg, gaOf k (p.ring.base / 64 * 64) ≤ a ∧ a < gaOf k (p.ring.base / 64 * 64) + 64 * p.ring.cap

/-- Of a memory in canonical form (log 2), every byte outside the fault rings is as it was. -/
def KeepsMemory (s t : State) : Prop := memWf s.mem = true → ∀ a, ¬ InFaultRing s a → memRead t.mem a = memRead s.mem a

/-- The request of a firing of an element access (R60, R65, R310, R360, R421, R425). -/
def accessReq (s : State) (o : SlotOps) (c : Ctx) (kind : AccKind) (size ty : Nat) (data data2 : W256) : Req :=
  { Req.make s c kind ((laneAt c.atok.pay 64 0 + o.xf 0 20) % 2 ^ 64) size ty with
    loc := o.mod.getLsbD 0, scope := (scopeEff o).1, data := data, data2 := data2 }

end Sys2Proof.Claims

/-- The element accesses run on a virtual address that no window translates: LD and XLD, ST, LDI, STI and STI.clr, and the four ATOMs issue
a request at lane 0 of A plus the offset, of the size that TY and vec give, with the data of B, and leave it to its walk (R60, R65, R93,
R179, R309, R310, R359, R361, R420, R425, R446). -/
def Sys2Proof.Claims.VirtualAccessesIssue : Prop :=
  ∀ (o : SlotOps) (s : State) (c : Ctx) (b : Bent) (e : Elem), Runs s o c →
    let ty := (memTy o.ty).1
    let size := if o.mod.getLsbD 1 then 32 else tyBytes ty
    let d := atomData c ty
    let ld := accessReq s o c .ld size ty 0 0
    let st := accessReq s o c .st size ty (storeData c ty size) 0
    let word := fun kind data => accessReq s o c kind 8 (woTy o.ty).1 data 0
    let atom := fun op => accessReq s o c (.atom op) (tyBytes ty) ty d.1 d.2
    (WalksAway s ld b e → ∃ w, exec (.ld o) s = .next (issued s ld w) ∧ exec (.xld o) s = .next (issued s ld w)) ∧
    (WalksAway s st b e → ∃ w, exec (.st o) s = .next (issued s st w)) ∧
    (WalksAway s (word .ldi 0) b e → ∃ w, exec (.ldi o) s = .next (issued s (word .ldi 0) w)) ∧
    (WalksAway s (word .sti (storeData c 7 8)) b e → ∃ w, exec (.sti o) s = .next (issued s (word .sti (storeData c 7 8)) w)) ∧
    (WalksAway s (word .stiClr 0) b e → ∃ w, exec (.stiClr o) s = .next (issued s (word .stiClr 0) w)) ∧
    (WalksAway s (atom .add) b e → ∃ w, exec (.atomAdd o) s = .next (issued s (atom .add) w)) ∧
    (WalksAway s (atom .or) b e → ∃ w, exec (.atomOr o) s = .next (issued s (atom .or) w)) ∧
    (WalksAway s (atom .swap) b e → ∃ w, exec (.atomSwap o) s = .next (issued s (atom .swap) w)) ∧
    (WalksAway s (atom .cas) b e → ∃ w, exec (.atomCas o) s = .next (issued s (atom .cas) w))

/-- An access of LD, XLD, ST, LDI, STI, STI.clr or an ATOM at an address that is no multiple of its size takes MISALIGNED with that address: no
byte of memory changes outside the fault ring that takes the record (R187), and the firing's operands stay, unless its activation has been aborted meanwhile (R30, R47, R60, R65). -/
def Sys2Proof.Claims.MisalignedAccessesFault : Prop :=
  ∀ (o : SlotOps) (s : State) (c : Ctx), Runs s o c →
    let ty := (memTy o.ty).1
    let size := if o.mod.getLsbD 1 then 32 else tyBytes ty
    let d := atomData c ty
    let va := (laneAt c.atok.pay 64 0 + o.xf 0 20) % 2 ^ 64
    let bad := fun (r : Req) => s.reqFault r { cause := .misaligned, addr := va }
    let word := fun kind data => accessReq s o c kind 8 (woTy o.ty).1 data 0
    let atom := fun op => accessReq s o c (.atom op) (tyBytes ty) ty d.1 d.2
    (va % size ≠ 0 →
      exec (.ld o) s = .next (bad (accessReq s o c .ld size ty 0 0)) ∧ exec (.xld o) s = .next (bad (accessReq s o c .ld size ty 0 0)) ∧
      exec (.st o) s = .next (bad (accessReq s o c .st size ty (storeData c ty size) 0))) ∧
    (va % 8 ≠ 0 →
      exec (.ldi o) s = .next (bad (word .ldi 0)) ∧ exec (.sti o) s = .next (bad (word .sti (storeData c 7 8))) ∧
      exec (.stiClr o) s = .next (bad (word .stiClr 0))) ∧
    (va % tyBytes ty ≠ 0 →
      exec (.atomAdd o) s = .next (bad (atom .add)) ∧ exec (.atomOr o) s = .next (bad (atom .or)) ∧
      exec (.atomSwap o) s = .next (bad (atom .swap)) ∧ exec (.atomCas o) s = .next (bad (atom .cas))) ∧
    (∀ r : Req, KeepsMemory s (bad r) ∧ (r.ctx = c → r.posted = false → s.ctxAborted c = false →
      bad r = (s.dropReq r.id).fault c { cause := .misaligned, addr := va, wr := r.kind.isWrite }))

/-- A local LD of a scratchpad (R61, R71): with bits 63 to 40 of its lane zero, with the range scoreboard clear of it, and with no bytes to forward from the AG's own stores (R94), it goes to its home in the same cell. -/
def Sys2Proof.Claims.ScratchpadAccessesIssue : Prop :=
  ∀ (o : SlotOps) (s : State) (c : Ctx) (b : Bent) (off : Nat), Runs s o c → o.mod.getLsbD 0 = true → s.bent? c.br = some b →
    laneAt c.atok.pay 64 0 / 2 ^ 40 = 0 →
    let ty := (memTy o.ty).1
    let size := if o.mod.getLsbD 1 then 32 else tyBytes ty
    let ld := accessReq s o c .ld size ty 0 0
    ld.va % ld.size = 0 → b.localAt ld.va = .spad off → s.readFree ld = true →
    s.scored ld.br ld.cx ld.cy (spadGa (b.cell ld.cx ld.cy) off) ld.size = false →
    crossesTo (s.reqCell { ld with ga := some (spadGa (b.cell ld.cx ld.cy) off) }) (homeOf (spadGa (b.cell ld.cx ld.cy) off)) = false →
    s.ownForward ld (spadGa (b.cell ld.cx ld.cy) off) = none →
    ∃ w, exec (.ld o) s = .next ((s.dropEnded ld).putReq { ld with ga := some (spadGa (b.cell ld.cx ld.cy) off), stage := .home, warn := w })

/-- An access instruction issues its access, to memory or to a scratchpad, or freezes its slot with MISALIGNED. The model's choices it rests on: log
113. -/
def Obligations.AccessesIssueOrFault : Prop :=
  Claims.VirtualAccessesIssue ∧
  Claims.MisalignedAccessesFault ∧
  Claims.ScratchpadAccessesIssue

/-- XLATE leaves a canonical address to a walk that installs nothing (R174, R175), and raises its fault token otherwise; PWIN installs a
window token whose check value matches and whose reserved bits are zero and passes it on, and takes WIN_FORGED for any other (R177). -/
def Sys2Proof.Claims.TranslationInstructionsComplete : Prop :=
  ∀ (o : SlotOps) (s : State) (c : Ctx), Runs s o c →
    let va := (laneAt c.atok.pay 64 0 + o.xf 0 20) % 2 ^ 64
    let r : Req := { Req.make s c (.xlate (o.mod.getLsbD 1)) va 1 0 with stage := .walk }
    let free := (s.reqs.filter (fun q => (q.kind == .xlate true || q.kind == .xlate false) && q.br == r.br && q.cx == r.cx &&
      q.cy == r.cy)).length < 8
    (free → canonVa (BitVec.ofNat 64 va) = true → ∃ w, exec (.xlate o) s = .next (s.putReq { r with warn := w })) ∧
    (free → canonVa (BitVec.ofNat 64 va) = false → o.t1 ≠ 0x1FF → ∃ w, exec (.xlate o) s = .next ((s.raiseWarn c.br c.u w).emit c o.t1
      (faultTok c.tag { cause := .vaCanon, addr := va, wr := o.mod.getLsbD 1 }))) ∧
    (let v := s.vdOf c.br.rid
     let p := ((s.bent? c.br).map (·.pkg)).getD { px := 0, py := 0 }
     let good := c.atok.pay.toNat / 2 ^ 224 = (Config.windowCheck v.part v.vd (s.bootOf p) (c.atok.pay.setWidth 224)).toNat ∧
       c.atok.pay.toNat / 2 ^ 181 % 2 ^ 11 = 0
     (good → ∃ w, exec (.pwin o) s = .next (((s.updElemOf c (fun e =>
        { e with pwin := e.pwin.set (o.xf 0 3) (some (windowOf c.atok.pay s.now)) })).raiseWarn c.br c.u w).emit c o.t0 c.atok.plain)) ∧
     (¬ good → exec (.pwin o) s = .next (s.fault c { cause := .winForged })))

/-- WALK (R172, R175, R179): the walk of an XLATE answers a window token at T0, or a fault token at T1 where it has one; the walk of an access installs its window and the request
goes on with it; a fault found is taken by the instruction. -/
def Sys2Proof.Claims.WalkCompletes : Prop :=
  ∀ (s : State) (n : Nat) (r : Req) (b : Bent), s.req? n = some r → r.stage = .walk → s.bent? r.br = some b →
    (∀ wr w t, r.kind = .xlate wr → (onEvent s (.num n)).walk b.pkg r.vdr (r.va % 2 ^ 55) r.kind.need = (.ok w, t) →
      exec .walk (onEvent s (.num n)) = .next ((((t.dropReq n).updBent r.br (fun b => b.clearFrozen r.ctx.u r.blk r.slot r.tag)).raiseWarn
        r.br r.ctx.u r.warn).emit r.ctx (s.reqOps r).t0 (s.windowTok r.vdr b.pkg r.tag w))) ∧
    (∀ wr i t, r.kind = .xlate wr → (onEvent s (.num n)).walk b.pkg r.vdr (r.va % 2 ^ 55) r.kind.need = (.bad i, t) →
      (s.reqOps r).t1 ≠ 0x1FF → i.cause ≠ .eccUncorr → exec .walk (onEvent s (.num n)) =
        .next (((t.dropReq n).raiseWarn r.br r.ctx.u r.warn).emit r.ctx (s.reqOps r).t1 (faultTok r.tag i))) ∧
    (∀ w t u, (∀ wr, r.kind ≠ .xlate wr) → (onEvent s (.num n)).walk b.pkg r.vdr ((onEvent s (.num n)).xvaOf r) r.kind.need = (.ok w, t) →
      ((t.updElem r.br r.cx r.cy (fun e => e.install w)).updBent r.br (fun b => b.clearFrozen r.ctx.u r.blk r.slot r.tag)).translated r w =
        .done u → exec .walk (onEvent s (.num n)) = .next u) ∧
    (∀ i t, (∀ wr, r.kind ≠ .xlate wr) → (onEvent s (.num n)).walk b.pkg r.vdr ((onEvent s (.num n)).xvaOf r) r.kind.need = (.bad i, t) →
      exec .walk (onEvent s (.num n)) = .next (t.walkFault r i))

/-- DIRTY_LOGGER_SET (R179, R183): D is set for the write's leaf in memory and in the AG's windows, and the write goes to its home; an entry with an
uncorrectable error faults the write (R186). -/
def Sys2Proof.Claims.DirtyLoggingCompletes : Prop :=
  ∀ (s : State) (n ga : Nat) (r : Req) (b : Bent) (t u : State), s.req? n = some r → r.stage = .dirty → r.ga = some ga →
    s.bent? r.br = some b →
    ((onEvent s (.num n)).setDirty b.pkg r.vdr r.ptea ((onEvent s (.num n)).xvaOf r) r.big = some t →
      ((t.updElem r.br r.cx r.cy (fun e => { e with
        pwin := e.pwin.map (fun w => w.map (fun w => if w.ptea = r.ptea then { w with leaf := w.leaf ||| 16 } else w)),
        own := markDirty r.ptea e.own })).toHome { r with leaf := r.leaf ||| 16 } ga = .done u) →
      exec .dirtyLoggerSet (onEvent s (.num n)) = .next u) ∧
    ((onEvent s (.num n)).setDirty b.pkg r.vdr r.ptea ((onEvent s (.num n)).xvaOf r) r.big = none →
      exec .dirtyLoggerSet (onEvent s (.num n)) = .next ((onEvent s (.num n)).walkFault r (dirtyEcc r.va)))

/-- The translation instructions, the page walk and dirty logging complete. -/
def Obligations.TranslationCompletes : Prop :=
  Claims.TranslationInstructionsComplete ∧
  Claims.WalkCompletes ∧
  Claims.DirtyLoggingCompletes

namespace Sys2Proof.Claims

/-- A request is next in its AG's order at its home: no earlier access and no stream of the AG to the same bytes comes before it (R91). -/
def NextInOrder (s : State) (r : Req) : Prop :=
  s.behind r = false ∧ s.streamOrder r.br r.cx r.cy r.id r.kind.isWrite r.loc (fun a => r.va ≤ a && a < r.va + r.size) = false

end Sys2Proof.Claims

/-- MEMORY_ACCESS_AT_HOME: a store of a FREE block, next in its AG's order at a ready port, writes its bytes at its home and is answered
with its stage and reply, across dies by a message (R88, R90, R91, R93, R205). Every byte outside the stored ones reads as before under the access's key, every byte of another 32-byte unit under every key, and
the stored ones read as stored (R4, R65, R266). -/
def Obligations.StoreAtHomeWritesItsBytes : Prop :=
  ∀ (s u : State) (n ga : Nat) (r : Req), memWf s.mem = true → s.req? n = some r → r.stage = .home → r.kind = .st → r.ga = some ga →
    NextInOrder s r → (r.loc = true ∨ s.parityOf r.vdr r.va = r.shadow) →
    s.portReady ga r.size = .ready u → u.mem = s.mem → u.enc = s.enc →
    ∃ t, exec (.memoryAccessAtHome (.req n)) s = .next t ∧
      t.readKey ga r.size (s.keyOf (gaPkg ga) r.vdr.part r.leaf) = bytesOf r.size r.data.toNat ∧
      (∀ a, (a < ga ∨ ga + r.size ≤ a) →
        t.readKey a 1 (s.keyOf (gaPkg ga) r.vdr.part r.leaf) = s.readKey a 1 (s.keyOf (gaPkg ga) r.vdr.part r.leaf)) ∧
      (∀ a k, (a / 32 < ga / 32 ∨ (ga + r.size + 31) / 32 ≤ a / 32) → t.readKey a 1 k = s.readKey a 1 k) ∧
      (u.reqs = s.reqs →
        (r.space = none → t.req? n = some { r with stage := .reply, reply := some .ack }) ∧
        (∀ sp, r.space = some sp → t.req? n = some { r with stage := .toIssuer } ∧ ∃ q ∈ t.fqueues, ∃ m ∈ q.msgs, m.body = .rep n .ack))

/-- A load of a FREE block at its home, with no error in its units, is answered with the bytes that stand there, and no byte of memory
changes (R88, R90, R360). -/
def Obligations.LoadAtHomeAnswersTheBytes : Prop :=
  ∀ (s u : State) (n ga : Nat) (r : Req), s.req? n = some r → r.stage = .home → r.kind = .ld → r.ga = some ga →
    s.isOrdered r.br.rid r.blk = false → NextInOrder s r → r.space = none →
    s.portReady ga r.size = .ready u → u.mem = s.mem → u.enc = s.enc → u.ecc = s.ecc → u.reqs = s.reqs →
    u.raisings = s.raisings → s.eccIn ga r.size = false →
    ∃ t, exec (.memoryAccessAtHome (.req n)) s = .next t ∧ t.mem = s.mem ∧
      t.req? n = some { r with stage := .reply, reply := some (.val (BitVec.ofNat 256 (natOfBytes
        (s.readKey ga r.size (s.keyOf (gaPkg ga) r.vdr.part r.leaf))))) }

/-- An atomic step at the home is one event (R90, R310): the old value answers, and the word holds the sum, the OR, the new value, or, for
cas, the new value exactly when the old one equals the compare operand. -/
def Obligations.AtomicStepReturnsTheOldValue : Prop :=
  ∀ (s : State) (r : Req) (op : AtomOp) (ga key : Nat), memWf s.mem = true → r.ty < 8 →
    let w := 8 * r.size
    let old := natOfBytes (s.readKey ga r.size key)
    let b := r.data.toNat % 2 ^ w
    let new_ := match op with
      | .add => (old + b) % 2 ^ w
      | .or => old ||| b
      | .swap => b
      | .cas => if old = r.data2.toNat % 2 ^ w then b else old
    (s.homeAtom r op ga key).readKey ga r.size key = bytesOf r.size new_ ∧
    ∃ (t : State) (r' : Req), s.homeAtom r op ga key = t.answer r' (.val (BitVec.ofNat 256 old)) ∧ r'.id = r.id

/-- A write-once word (R82, R83): STI to an empty word stores it and marks it present; a second STI changes no byte (but of the fault ring
that takes its advisory) and sets IWRITE2, WARN bit 29, with its emission, or at once where it has emitted; an LDI of an empty word waits on its deferred list. -/
def Obligations.WriteOnceWordsBehave : Prop :=
  ∀ (s : State) (r : Req) (ga key : Nat), memWf s.mem = true → r.hasPresence = true →
    (r.kind = .sti → r.size = 8 → s.present ga = false → s.deferred = [] → r.space = none →
      (s.homeDo r ga key).present ga = true ∧ (s.homeDo r ga key).readKey ga 8 key = bytesOf 8 r.data.toNat) ∧
    (r.kind = .sti → s.present ga = true → KeepsMemory s (s.homeDo r ga key) ∧ (s.homeDo r ga key).presence = s.presence ∧
      (s.req? r.id = some r → r.space = none →
        (s.homeDo r ga key).req? r.id = some { r with stage := .reply, reply := some .ack, warn := r.warn ||| warnBit 29 }) ∧
      (∀ e, r.posted = true → s.elem? r.br r.cx r.cy = some e →
        ∃ e', (s.homeDo r ga key).elem? r.br r.cx r.cy = some e' ∧ e'.warn = e.warn ||| warnBit 29)) ∧
    (r.kind = .ldi → s.present ga = false →
      ∃ d, d.ga = ga / 8 * 8 ∧ d.req = r.id ∧ (s.homeDo r ga key).deferred = s.deferred ++ [d] ∧ KeepsMemory s (s.homeDo r ga key)) ∧
    (r.kind = .stiClr → (s.homeDo r ga key).present ga = false)

/-- MEMORY_REPLY (R93): the answer of an access of a bent that runs ends its request, sets the WARN bits that its instruction has for its emission (R294), and emits its token: the A token for a write, the value
as a scalar or as 32 bytes for a load. -/
def Sys2Proof.Claims.ReplyCompletes : Prop :=
  ∀ (s : State) (n : Nat) (r : Req), s.req? n = some r → r.stage = .reply → (s.bent? r.br).isSome = true → s.bentLive r.br = true →
    s.ctxAborted r.ctx = false → r.posted = false →
    let opc := slotOpc ((s.slot? r.br.rid r.blk r.slot).elim 0 (·.word))
    opc ≠ 0xE0 → opc ≠ 0xE3 →
    let t := ((onEvent s (.num n)).dropReq n).updBent r.br (fun b => b.clearFrozen r.ctx.u r.blk r.slot r.tag)
    (r.reply = some .ack → exec .memoryReply (onEvent s (.num n)) =
      .next ((t.raiseWarn r.br r.ctx.u r.warn).emit2 r.ctx (s.reqOps r) r.ctx.atok.plain)) ∧
    (∀ v, r.reply = some (.val v) → r.kind = .ld → exec .memoryReply (onEvent s (.num n)) =
      .next ((t.raiseWarn r.br r.ctx.u r.warn).emit2 r.ctx (s.reqOps r) (if r.size = 32 then vectorTok r.tag v else scalarTok r.tag v.toNat)))

/-- FENCE notes what it covers and waits; it emits the number of its covered posted stores that were lost once all it covers is done (R95,
R110, R347). PUBL issues its request at its scope and walks (R102, R381). -/
def Sys2Proof.Claims.FenceAndPublComplete : Prop :=
  (∀ (o : SlotOps) (s : State) (c : Ctx), Runs s o c → ∃ f : Fence, f.id = s.nextId ∧ f.scope = (scopeEff o).1 ∧
      f.covers = s.covered c.br ∧ f.br = c.br ∧ f.tag = c.tag ∧
      exec (.fence o) s = .next { s with nextId := s.nextId + 1, fences := s.fences ++ [f] }) ∧
  (∀ (s : State) (n : Nat) (f : Fence), s.req? n = none → s.fences.find? (·.id == n) = some f → s.bentLive f.br = true →
    (onEvent s (.num n)).fenceDone f = true → exec .memoryReply (onEvent s (.num n)) = .next ((onEvent s (.num n)).fenceEmit f)) ∧
  (∀ (o : SlotOps) (s : State) (c : Ctx) (b : Bent) (e : Elem), Runs s o c →
    let r : Req := { Req.make s c .publ ((laneAt c.atok.pay 64 0 + o.xf 0 20) % 2 ^ 64) 1 0 with scope := (scopeEff o).1 }
    (s.reqs.filter (fun q => q.kind == .publ && q.br == r.br && q.cx == r.cx && q.cy == r.cy)).length < 8 → WalksAway s r b e →
    ∃ w, exec (.publ o) s = .next (issued s r w))

/-- SHDW sets up a buffer of generation 0 over two ranges whose pages all answer their walks, and reads in progress keep the set of their start (R101,
R415, R416); SHDW.rel of a buffer with
nothing pending and an even generation removes it and moves no frame; BARW passes A on and counts (R254, R313). -/
def Sys2Proof.Claims.ShadowAndBarrierComplete : Prop :=
  ∀ (o : SlotOps) (s : State) (c : Ctx), Runs s o c →
    let v := s.vdOf c.br.rid
    let p := ((s.bent? c.br).map (·.pkg)).getD { px := 0, py := 0 }
    let vb64 := laneAt c.atok.pay 64 0
    let len := laneAt c.atok.pay 64 1
    let sb64 := laneAt c.atok.pay 64 2
    (∀ t u, canonVa (BitVec.ofNat 64 vb64) = true → canonVa (BitVec.ofNat 64 sb64) = true → vb64 % 2 ^ 16 = 0 → sb64 % 2 ^ 16 = 0 →
      len ≠ 0 → len % 2 ^ 16 = 0 → len ≤ 2 ^ 36 → overlaps (vb64 % 2 ^ 55) len (sb64 % 2 ^ 55) len = false →
      ((s.vdev? v).map (·.shadows)).getD [] = [] → s.walkPages p v (vb64 % 2 ^ 55) (len / 2 ^ 16) 0 = .ok t →
      t.walkPages p v (sb64 % 2 ^ 55) (len / 2 ^ 16) 0 = .ok u →
      let b : ShadowBuf := { vbase := vb64 % 2 ^ 55, sbase := sb64 % 2 ^ 55, len := len, g := 0 }
      ∃ w, exec (.shdw o) s = .next ((((u.noteShdw v b).updVdev v (fun d => { d with shadows := d.shadows ++ [b] })).raiseWarn
        c.br c.u w).emit2 c o c.atok.plain)) ∧
    (∀ d b, canonVa (BitVec.ofNat 64 vb64) = true → s.vdev? v = some d → d.shadows.find? (·.vbase == vb64 % 2 ^ 55) = some b → b.g % 2 = 0 →
      s.shPending v b s.nextId = false → s.reqs = [] →
      ∃ w, exec (.shdwRel o) s = .next (((s.updVdev v (fun d => { d with shadows := d.shadows.filter (·.vbase != b.vbase) })).raiseWarn
        c.br c.u w).emit2 c o c.atok.plain)) ∧
    (∃ w, exec (.barw o) s = .next (((s.deprecate c.br.rid).raiseWarn c.br c.u w).emit2 c o c.atok.plain))

/-- Replies, FENCE, PUBL, the shadows and the barriers complete. The model's choices it rests on: log 112. -/
def Obligations.RepliesFencesAndBarriersComplete : Prop :=
  Claims.ReplyCompletes ∧
  Claims.FenceAndPublComplete ∧
  Claims.ShadowAndBarrierComplete

/-! ## Streams, gathers and scatters -/

/-- SRD and CSRD open a stream over the descriptor's units or rows (R75, R80, R326, R419); SWR opens one by its A token, and writes and
accounts a position by a B token (R76, R427); GATH asks for its lanes, of a vent port on another die by a message where one leads there (R77, R351);
SCAT numbers its pairs and closes batches (R78, R412). -/
def Sys2Proof.Claims.StreamInstructionsComplete : Prop :=
  ∀ (o : SlotOps) (s : State) (c : Ctx) (e : Elem), Runs s o c → s.elemOf c = some e →
    let d := s.ctxDesc c o
    let base := (d.base + laneAt c.atok.pay 64 0) % 2 ^ 64
    let v := s.vdOf c.br.rid
    (ringBase d base = false → e.streams.length < 8 →
      (∃ w, exec (.srd o) s = .next (s.openStream c .srd base d.units (s.genNow v d (d.walkAddrs base)) w)) ∧
      (∃ w, exec (.csrd o) s = .next (s.openStream c .csrd base (d.ext.headD 0)
        (s.genNow v d ((List.range ((d.ext.headD 0 + 1) * d.es)).map (fun b => (base + b) % 2 ^ 64))) w)) ∧
      (∀ a, c.a = some a → e.swrOf c.blk c.slot c.tag.ctx = none → ∃ w, exec (.swr o) s = .next (s.openStream c .swr base d.units [] w))) ∧
    (∀ x j bs wins t, c.a = none → e.swrOf c.blk c.slot c.tag.ctx = some x → x.swrAt c.tag.iter = .here j →
      (d.sh && !d.loc && s.shWaits v (d.unitAddrs x.base j ++ if d.tl then d.scaleAddrs j else [])) = false →
      s.engineStore (s.agAccess c.br e d needWr d.sh [] d.tl x.id s.nextId) []
        (d.unitAddrs x.base j ++ if d.tl then d.scaleAddrs j else [])
        (swrBytes d c.btok (d.unitAddrs x.base j).length (if d.tl then d.scaleAddrs j else []).length) = .ok bs wins t →
      ∃ w, exec (.swr o) s = .next ((((t.updBent c.br (fun b => b.clearFrozen c.u c.blk c.slot c.tag)).chargeAccesses c.br.rid 1).updStream
        c.br e.cx e.cy x.id (fun x => { x with warn := x.warn ||| w })).swrDone c o { x with warn := x.warn ||| w } j)) ∧
    (let off := match c.b with
      | some b => laneAt b.tok.pay 64 0
      | none => 0
     let r : Req := { Req.make s c .gath ((d.base + off) % 2 ^ 64) 1 d.fmt with
       stage := .home, data := c.atok.plain.pay }
     (s.reqs.filter (fun q => q.kind == .gath && q.br == r.br && q.cx == r.cx && q.cy == r.cy)).length < 64 →
     (s.gathFar r = none → ∃ w, exec (.gath o) s = .next (s.putReq { r with warn := w })) ∧
     (∀ h, s.gathFar r = some h → ∃ w, ∀ t, s.sendReq { r with stage := .walk, warn := w } (dieCell h.1.pkg h.1.die) (.vent 0) = .done t →
       exec (.gath o) s = .next t)) ∧
    (let n := if c.atok.isScalar then 1 else Nat.min (32 / idxBytes d.idx) (laneCount d.fmt)
     let vals := c.btok.plain.lanes d.eb (laneCount d.fmt)
     let q := scatTake d ((List.range n).map (fun l => (idxLane d.idx c.atok.plain.pay l, vals.getD l 0)))
       (e.scatOf c.blk c.slot c.tag.ctx) []
     (q.2 = [] → ∃ w, exec (.scat o) s = .next (s.updElemOf c (fun e => e.setScat { q.1 with warn := w }))) ∧
     (∀ es, q.2 = [es] → ∃ t e' x, exec (.scat o) s = .next t ∧ s.elemOf c = some e ∧ t.elemOf c = some e' ∧ e'.batches = e.batches ++ [x] ∧
       x.blk = c.blk ∧ x.slot = c.slot ∧ x.tag = c.tag ∧ x.base = d.base ∧ x.elems = es ∧ x.pos = 0 ∧ x.frozen = false ∧ t.mem = s.mem))

/-- Where a B token of SWR stands (R427): in a walk of at most 4,096 units its position is the distance of its iteration from the A token's, modulo
4,096; a distance of 256 or more past the first position not done waits, and one past the walk is an overrun. -/
def Sys2Proof.Claims.SwrPositionsFollowTheIterations : Prop :=
  ∀ (x : Stream) (iter : Nat), x.count ≤ 4096 →
    let j := (iter + 8192 - x.tag.iter % 4096) % 4096
    (j < x.count → x.next ≤ j → x.done.contains j = false → j < x.next + 256 → x.swrAt iter = .here j) ∧
    (j < x.count → x.next + 256 ≤ j → x.done.contains j = false → x.swrAt iter = .ahead) ∧
    (x.count ≤ j → x.swrAt iter = .over_ j)

/-- What an engine's access needs to run (R61, R90, R91, R179, R182, R186): an address in its own scratchpad, or one that a window of its AG or of the
engine translates, D set for a write, has its home at once; and where every address has its home, no migration is under way and the access is next in
order, a read with no error in its units answers the bytes at the homes, and a write puts its bytes there. -/
def Sys2Proof.Claims.EngineAccessesRun : Prop :=
  ∀ (s : State) (x : Access) (wins : List Window) (b : Bent), s.bent? x.br = some b → x.sh = false →
    let v := s.vdOf x.br.rid
    (∀ a off, x.loc = true → b.localAt a = .spad off → s.locate x wins a = (.at_ (spadGa x.spad off) 0, wins, s)) ∧
    (∀ a w, x.loc = false → canonVa (BitVec.ofNat 64 a) = true → (x.need.wr = true → pteD w.leaf = true) →
      let y := s.visibleVa v (a % 2 ^ 55) x.gens
      let hit := fun w => s.winHits b.pkg v w y x.need
      (x.ag = none → wins.find? hit = some w → s.locate x wins a = (.at_ (w.ga b.pkg y) (s.keyOf b.pkg (s.vdOf x.br.rid).part w.leaf), wins, s)) ∧
      (∀ cx cy e, x.ag = some (cx, cy) → s.elem? x.br cx cy = some e → (e.pwin.filterMap id ++ e.own).find? hit = some w →
        s.locate x wins a = (.at_ (w.ga b.pkg y) (s.keyOf b.pkg (s.vdOf x.br.rid).part w.leaf), wins, s))) ∧
    (∀ addrs (home : Nat → Nat × Nat), x.tile = false → s.migs = [] → s.agBehind x addrs (addrs.map home) = false →
      (∀ a ∈ addrs, s.locate x wins a = (.at_ (home a).1 (home a).2, wins, s)) →
      ((∀ a ∈ addrs, s.eccIn (home a).1 1 = false) →
        s.engineLoad x wins addrs = .ok ((addrs.map home).map (fun g => (s.readKey g.1 1 g.2).headD 0)) wins s) ∧
      (∀ bs, s.engineStore x wins addrs bs = .ok [] wins (s.putBytes (addrs.map home) bs)))

/-- STREAM_ELEMENT reads a unit of an SRD stream, or a pointer of a CSRD stream, that is due and in its window, and the stream takes it (R75, R80,
R419); SCAT_BATCH_APPLY applies the next segment of the first batch of its slot (R78, R79, R412). -/
def Sys2Proof.Claims.StreamWorkCompletes : Prop :=
  (∀ (s : State) (br : BentRef) (cx cy id j : Nat) (e : Elem) (x : Stream) (bs : List Byte) (wins : List Window) (t : State),
    let d := s.descAt br.rid x.blk ((s.opsAt br.rid x.blk x.slot).xf 0 20)
    s.bentLive br = true → s.elem? br cx cy = some e → e.streams.find? (·.id == id) = some x → x.kind = .srd → j < x.count → x.emit ≤ j →
    j < x.emit + 256 → x.done.contains j = false → x.held.any (·.j == j) = false → x.parked.contains j = false → x.stalled = false →
    e.eccFrozen = false → x.ptrs = [] → d.loc = false → s.engineLoad (s.agAccess br e d needRd false x.gens d.tl x.id x.id) []
      (d.unitAddrs x.base j ++ if d.tl then d.scaleAddrs j else []) = .ok bs wins t →
    exec (.streamElement br cx cy id j) s = .next (t.streamGot br cx cy x d.tagged j
      (unitTok d (x.tag.adv j) (bs.take (d.unitAddrs x.base j).length) (bs.drop (d.unitAddrs x.base j).length)))) ∧
  (∀ (s : State) (br : BentRef) (cx cy id j : Nat) (e : Elem) (x : Stream) (bs : List Byte) (wins : List Window) (t : State),
    let d := s.descAt br.rid x.blk ((s.opsAt br.rid x.blk x.slot).xf 0 20)
    s.bentLive br = true → s.elem? br cx cy = some e → e.streams.find? (·.id == id) = some x → x.kind = .csrd → x.count ≠ 0 → j ≤ x.count →
    x.emit ≤ j → j < x.emit + 256 → x.done.contains j = false → x.ptrs.any (·.1 == j) = false → x.parked.contains j = false → x.stalled = false →
    e.eccFrozen = false → d.loc = false →
    s.engineLoad (s.agAccess br e d needRd false x.gens false x.id x.id) [] (x.ptrAddrs d j) = .ok bs wins t →
    exec (.streamElement br cx cy id j) s = .next (t.pointerGot br cx cy x j (natOfBytes bs))) ∧
  (∀ (s : State) (br : BentRef) (cx cy id : Nat) (b : Bent) (e : Elem) (x : ScatBatch) (i : Int) (vs : List Nat),
    let d := s.descAt br.rid x.blk ((s.opsAt br.rid x.blk x.slot).xf 0 20)
    s.bentLive br = true → s.bent? br = some b → s.elem? br cx cy = some e → e.batches.find? (·.id == id) = some x → x.frozen = false →
    e.batches.any (fun y => y.blk == x.blk && y.slot == x.slot && y.id < x.id) = false → (segments x.elems)[x.pos]? = some (i, vs) →
    (i < 0 ∨ Int.ofNat d.tableExt ≤ i → exec (.scatBatchApply br cx cy id) s = .next (s.segDone br cx cy x (segments x.elems).length)) ∧
    (∀ bs old wins wins2 u t, 0 ≤ i → i < Int.ofNat d.tableExt →
      let v := s.vdOf br.rid
      let port := s.ventPort b.pkg v x.base
      let acc : Access := { br := br, spad := b.cell cx cy, loc := false, need := if d.cop = 0 then needWr else needBoth, sh := d.sh, gens := [],
                            tile := false, owner := id }
      let z := segValue d (rndCode x.rnd.toNat) (natOfBytes old) vs
      let addrs := (List.range d.es).map (fun k => addrAt x.base (i * Int.ofNat d.es + Int.ofNat k))
      (d.sh && s.shWaits v addrs) = false →
      s.orderBehind br cx cy id true false addrs (match s.locateAll acc [] addrs with
        | (.ok l, _, _) => l
        | _ => []) = false →
      (d.cop = 0 → u = s ∧ wins = s.ventWinsOf b.pkg port v) →
      (d.cop ≠ 0 → s.engineLoad acc (s.ventWinsOf b.pkg port v) addrs = .ok old wins u) →
      u.engineStore acc wins addrs (bytesOf d.es z.1) = .ok bs wins2 t → (d.cop = 0 → old = bytesOf d.es 0) →
      exec (.scatBatchApply br cx cy id) s = .next (((t.setVent b.pkg port v wins2).updBent br (fun b =>
        { b.clearFrozen (.elem cx cy) x.blk x.slot x.tag with engFlags := b.engFlags ||| z.2 })).chargeAccesses br.rid 1 |>.segDone br cx cy x (segments x.elems).length)))

/-- The stream, gather and scatter instructions complete, and so does the work that they start. The model's choices it rests on: log 9, log 83, log
87. -/
def Obligations.StreamsComplete : Prop :=
  Claims.StreamInstructionsComplete ∧
  Claims.SwrPositionsFollowTheIterations ∧
  Claims.EngineAccessesRun ∧
  Claims.StreamWorkCompletes

/-! ## The tile class -/

namespace Sys2Proof.Claims

/-- The node that a configuration token makes: COUNT firings are left of it (R154); its WARN bits are set as it emits (R294). -/
def newNode (c : Ctx) (w : BitVec 30) : TNode :=
  { blk := c.blk, slot := c.slot, cfg := c.atok, left := cfgF c.atok 48 16, fire := 0, sub := 0, mask := none, js := [], readyAt := 0, warn := w }

/-- Changes the cluster of a firing and notes which of its nodes are ready now. -/
def atCluster (s : State) (c : Ctx) (f : Cluster → Cluster) : State :=
  (s.updClus c.br (clusterOf c.u).1 (clusterOf c.u).2 f).refreshNodes c.br (clusterOf c.u).1 (clusterOf c.u).2

/-- The state after a tile node is configured by the firing's A token. -/
def configured (s : State) (c : Ctx) (w : BitVec 30) : State := atCluster s c (fun k => { k with nodes := k.nodes ++ [newNode c w] })

/-- What a configuration token does to a free node: a good one configures it, a bad one is MMA_CONFIG (R154, R161, R434). -/
def Configures (i : Instr) (s : State) (c : Ctx) (bad : Bool) : Prop :=
  (bad = false → ∃ w, exec i s = .next (configured s c w)) ∧
  (bad = true → exec i s = .next (s.fault c { cause := .mmaConfig }))

end Sys2Proof.Claims

/-- MMA, MMAM, SCOUT, TCVT into a ring or memory, TRED, TFN and TTRN: the A token configures the free node of its slot with COUNT firings, or
raises MMA_CONFIG when a field or a ring does not serve it (R154, R161, R375, R413, R432, R434). A mask of MMAM, once no older one waits, is noted at
its node with its WARN bits (R166, R375); a null one ends a firing of the node with a null on T1 (R165, R375). -/
def Sys2Proof.Claims.TileConfigurationsComplete : Prop :=
  ∀ (o : SlotOps) (s : State) (c : Ctx) (k : Cluster), Runs s o c → s.ctxClus c = some k →
    (k.node? c.blk c.slot = none →
      Configures (.mma o) s c (mmaBad k c.blk c.slot o c.atok) ∧
      (c.b = none → Configures (.mmam o) s c (mmaBad k c.blk c.slot o c.atok)) ∧
      Configures (.scout o) s c (scoutBad k c.blk c.slot o c.atok) ∧
      Configures (.tcvtRing o) s c (s.rowBad c.br.rid k c.blk c.slot o c.atok) ∧
      Configures (.tcvtMem o) s c (s.rowBad c.br.rid k c.blk c.slot o c.atok) ∧
      Configures (.tred o) s c (s.rowBad c.br.rid k c.blk c.slot o c.atok) ∧
      Configures (.tfn o) s c (s.rowBad c.br.rid k c.blk c.slot o c.atok) ∧
      Configures (.ttrn o) s c (s.rowBad c.br.rid k c.blk c.slot o c.atok)) ∧
    (∀ n b, c.b = some b → c.btok.shape ≠ .null → k.node? c.blk c.slot = some n → n.mask = none → s.maskTurn c = true →
      sumMode n.cfg = false →
      exec (.mmam o) s = .next (atCluster s c (fun k => k.updNode c.blk c.slot (fun x =>
        { x with mask := some c.btok, js := (maskSet c.btok).1, sub := 0, mwarn := (maskSet c.btok).2 })))) ∧
    (∀ n b, c.b = some b → c.btok.shape = .null → k.node? c.blk c.slot = some n → n.mask = none → s.maskTurn c = true →
      exec (.mmam o) s = .next ((s.emit c o.t1 (nullTok c.tag)).countDown c o n))

/-- RING configures a ring of NSLOT empty slots, all credits at the producer, over a range of the vault, and passes A on (R67 to R69, R407,
R408). RROT moves, in each of the sixteen scratchpads of the cluster at once, SIZE bytes to the next one of the cycle of R70, while the range
scoreboard has an entry free and holds no part of the ranges (R70, R71, R409). -/
def Sys2Proof.Claims.RingAndRotateInstructionsComplete : Prop :=
  ∀ (o : SlotOps) (s : State) (c : Ctx) (k : Cluster), Runs s o c → s.ctxClus c = some k →
    (let t := c.atok
     let sz := 256 * 2 ^ cfgF t 15 4
     let ns := cfgF t 19 6 + 1
     let base := 256 * cfgF t 0 13
     let own := fun b => if b = 0xFFF then c.blk else b
     let cons := (own (cfgF t 45 12), cfgF t 57 7)
     let prod := (own (cfgF t 26 12), cfgF t 38 7)
     k.ring? (o.xf 0 5) = none → cfgF t 15 4 ≤ 8 → base % sz = 0 → base + ns * sz ≤ 2 ^ 21 → s.stationSlot c.br c.u cons.1 cons.2 = true →
     (cfgF t 25 1 = 0 → cfgF t 26 12 = 0 ∧ cfgF t 38 7 = 0) → (cfgF t 25 1 = 1 → s.stationSlot c.br c.u prod.1 prod.2 = true) →
     let g : Ring := { k := o.xf 0 5, base := base, slotsz := sz, nslot := ns, prod := if cfgF t 25 1 = 1 then some prod else none, cons := cons,
                       head := 0, tail := 0, states := List.replicate ns .empty, credits := ns, notices := 0, written := 0 }
     ∃ w, exec (.ring o) s = .next ((atCluster (s.raiseWarn c.br c.u w) c (fun k =>
       { k with rings := k.rings.filter (fun x => x.k != o.xf 0 5) ++ [g] })).emit2 c o t)) ∧
    (∀ b, s.bent? c.br = some b →
      let sz := 32 * (o.xf 9 9 + 1)
      let pad := fun i => spadGa (b.clusterCell (clusterOf c.u).1 (clusterOf c.u).2 (rotCycle.getD (i % 16) 0)) (32 * o.xf 0 9)
      (∀ i, s.eccIn (pad i) sz = false) → k.score.length < 16 → (∀ e ∈ k.score, ∀ i, overlaps e.lo e.len (pad i) sz = false) →
      ∃ w, exec (.rrot o) s = .next ((((List.range 16).foldl (fun t i =>
        t.writeBytes (pad i) (s.readBytes (pad (if o.mod.getLsbD 0 then i + 1 else i + 15)) sz)) s).raiseWarn c.br c.u w).emit2 c o c.atok))

/-- SCRB (R164, R165, R414): a score, or a force mask, of a key is kept with the others until the key has all that it needs, which frees the key and
makes the mask token; a score out of range or seen twice is SCRB_MEMBER. A null is a score, or a force mask, that is not there. -/
def Sys2Proof.Claims.ScribeCompletes : Prop :=
  ∀ (o : SlotOps) (s : State) (c : Ctx) (k : Cluster), s.firing? = some c → s.ctxClus c = some k →
    let j := c.tag.iter % 2 ^ o.xf 25 4
    let key := Tag.mk c.tag.ctx (c.tag.iter - j)
    let mine := fun (x : ScribeKey) => x.blk == c.blk && x.slot == c.slot && x.key == key
    let row := (k.scribe.find? mine).getD { blk := c.blk, slot := c.slot, key := key, scores := [], force := none, warn := 0 }
    let done := fun (x : ScribeKey) => x.scores.length = o.xf 17 8 + 1 ∧ (o.x.getLsbD 16 = true → x.force.isSome = true)
    let goes := fun (row1 : ScribeKey) =>
      (¬ done row1 → ∃ w, exec (.scrb o) s = .next (s.updClus c.br (clusterOf c.u).1 (clusterOf c.u).2 (fun k =>
        { k with scribe := k.scribe.filter (fun x => !mine x) ++ [{ row1 with warn := w }] }))) ∧
      (done row1 → ∃ w t, t = (s.updClus c.br (clusterOf c.u).1 (clusterOf c.u).2 (fun k =>
          { k with scribe := k.scribe.filter (fun x => !mine x) ++ [] })).raiseWarn c.br c.u w ∧
        exec (.scrb o) s = .next (t.emit2 c o (scribeTok o ((t.constAt c (o.xf 0 16)).toNat % 2 ^ 32) row1)))
    (∃ x, k.scribe.find? mine = some x) ∨ k.scribe.length < 4 →
    (c.a.isSome = true → j ≤ o.xf 17 8 → row.scores.any (·.1 == j) = false →
      goes { row with scores := row.scores ++ [(j, if c.atok.shape = .null then none else some (c.atok.plain.spread 9))] }) ∧
    (c.a.isSome = true → o.xf 17 8 < j ∨ row.scores.any (·.1 == j) = true → exec (.scrb o) s = .next (s.fault c { cause := .scrbMember })) ∧
    (c.a = none → row.force = none → goes { row with force := some (if c.btok.shape = .null then none else some c.btok.pay) })

/-- The tile-class instructions complete. -/
def Obligations.TileInstructionsComplete : Prop :=
  Claims.TileConfigurationsComplete ∧
  Claims.RingAndRotateInstructionsComplete ∧
  Claims.ScribeCompletes

/-- Rings and the Truss at work: a written tail slot becomes FULL (R67), a freed slot's notice returns its credit (R68), the longest ready
node begins its firing and then does its engine steps or rows (R151, R156 to R158, R435), an uncorrectable error in what a step reads withholding the
firing (R186), and a firing of any tile instruction whose steps are done
retires. -/
def Sys2Proof.Claims.TrussAndRingEventsComplete : Prop :=
  ∀ (s : State) (br : BentRef) (cX cY : Nat),
    (∀ g n, (s.clus? br cX cY).bind (·.ring? n) = some g → g.written ≠ 0 → exec (.ringSlotFull br cX cY n) s =
      .next ((s.updClus br cX cY (fun c => c.updRing n (fun g =>
        { g with states := g.states.set g.tail .full, tail := (g.tail + 1) % g.nslot, written := g.written - 1 }))).refreshNodes br cX cY)) ∧
    (∀ g n, (s.clus? br cX cY).bind (·.ring? n) = some g → g.notices ≠ 0 → exec (.ringFreedSlotNotice br cX cY n) s =
      .next ((s.updClus br cX cY (fun c => c.updRing n (fun g => { g with notices := g.notices - 1, credits := g.credits + 1 }))).refreshNodes
        br cX cY)) ∧
    (let s1 := s.refreshNodes br cX cY
     s.unitRuns br (.station cX cY) = true → ∀ b k, s1.bent? br = some b → s1.clus? br cX cY = some k →
     (∀ n, k.firing = none → nextNode k.nodes = some n → exec (.trussFiringBegin br cX cY) s = .next (s1.beginFiring br cX cY n)) ∧
     (∀ n f, k.firing = some f → k.node? f.blk f.slot = some n → f.stopped = false →
       (∀ a, s1.stepEcc br.rid b cX cY k n f = some a → exec (.trussFiringBegin br cX cY) s = .next (s1.trussEcc br cX cY n f a)) ∧
       (s1.stepEcc br.rid b cX cY k n f = none →
       let opc := s1.opcAt br.rid f.blk f.slot
       let h := mmaShape (s1.opsAt br.rid f.blk f.slot) n.cfg
       let g := scoutShape (s1.opsAt br.rid f.blk f.slot) n.cfg
       (opc = 0x88 ∨ opc = 0x89 → f.grp * 4 < h.m / smOf h.ty * (h.n / 64) →
         exec (.trussFiringBegin br cX cY) s = .next (s1.mmaStep br b cX cY k n f)) ∧
       (opc = 0x8A → f.grp * 4 < g.m / 64 * (g.n / 64) → exec (.trussFiringBegin br cX cY) s = .next (s1.scoutStep br b cX cY k n f)) ∧
       (opc ≠ 0x88 → opc ≠ 0x89 → opc ≠ 0x8A → exec (.trussFiringBegin br cX cY) s = .next (s1.rowStep br b cX cY k n f))))) ∧
    (∀ b k n f, s.bentLive br = true → s.bent? br = some b → s.clus? br cX cY = some k → k.firing = some f → k.node? f.blk f.slot = some n →
      f.stopped = false →
      let o := s.opsAt br.rid f.blk f.slot
      let opc := s.opcAt br.rid f.blk f.slot
      let h := mmaShape o n.cfg
      let g := scoutShape o n.cfg
      let c : Ctx := { br := br, u := .station cX cY, blk := f.blk, slot := f.slot, tag := n.cfg.tag, a := none, b := none, p := none }
      let t := (s.raiseFlags br (.station cX cY) f.flags).updClus br cX cY (fun k =>
        ({ k with firing := none } : Cluster).updNode f.blk f.slot (fun x => { x with readyAt := 0 }))
      (opc = 0x88 ∨ opc = 0x89 → h.m / smOf h.ty * (h.n / 64) ≤ 4 * f.grp → exec (.trussFiringRetire br cX cY) s =
        .next ((t.retireMma br b cX cY k c o n (opc == 0x89)).refreshNodes br cX cY)) ∧
      (opc = 0x8A → g.m / 64 * (g.n / 64) ≤ 4 * f.grp → exec (.trussFiringRetire br cX cY) s =
        .next ((t.retireScout br b cX cY k c o n f).refreshNodes br cX cY)) ∧
      (opc ≠ 0x88 → opc ≠ 0x89 → opc ≠ 0x8A → (rowShape opc o n.cfg).rows ≤ f.kstep → k.jointer.any (·.tile) = false →
        (opc = 0x8E → o.x.getLsbD 18 = true → (alignedUnits (tcvtAddrs n (s.descAt br.rid n.blk (o.xf 0 10)))).length ≤ f.grp) →
        exec (.trussFiringRetire br cX cY) s = .next ((t.retireRow br b cX cY k c o n f).refreshNodes br cX cY)))

/-- The Jointer (R145, R146): a waiting lane enters no earlier than the end of its token's fast path and 8 cycles after the one before, and ends a latency of R144 later; when the last lane of a
token has its result, the token leaves with SPH among its flags, and a tile's firing has its lanes. -/
def Sys2Proof.Claims.JointerEventsComplete : Prop :=
  ∀ (s : State) (br : BentRef) (cX cY : Nat) (b : Bent) (k : Cluster) (j : JTok), s.bentLive br = true → s.bent? br = some b →
    s.clus? br cX cY = some k →
    (k.jlast = 0 ∨ k.jlast + 8 ≤ s.now → nextEntry s.now k.jointer = some j →
      let enter := fun i : JTok => { i with queued := i.queued - 1, heldTo := i.heldTo ++ [s.now + s.jointerLat br.rid j] }
      exec (.jointerLaneEntry br cX cY) s = .next (s.updClus br cX cY (fun k =>
        { k with jlast := s.now, jointer := updIf k.jointer (·.id == j.id) enter }))) ∧
    (∀ t0 rest, k.jointer.find? (fun j => !j.frozen && j.heldTo.any (fun t => k.jointer.all (fun i => i.frozen || i.heldTo.all (t ≤ ·)))) = some j →
      j.heldTo = t0 :: rest → t0 ≤ s.now →
      let t := fun u : UnitLoc => ((s.updClus br cX cY (fun k => { k with jointer := k.jointer.filter (·.id != j.id) })).raiseFlags br u j.flags).raiseWarn
        br u j.warn
      (j.queued = 0 → rest = [] → j.tile = false → exec (.jointerLaneResult br cX cY) s = .next ((t (.elem j.cx j.cy)).emit2
        { br := br, u := .elem j.cx j.cy, blk := j.blk, slot := j.slot, tag := j.out.tag, a := none, b := none, p := none }
        (s.opsAt br.rid j.blk j.slot) j.out)) ∧
      (j.queued = 0 → rest = [] → j.tile = true → exec (.jointerLaneResult br cX cY) s = .next (t (.station cX cY))) ∧
      (j.queued ≠ 0 ∨ rest ≠ [] → exec (.jointerLaneResult br cX cY) s = .next (s.updClus br cX cY (fun k =>
        { k with jointer := updIf k.jointer (·.id == j.id) (fun j => { j with heldTo := j.heldTo.tail }) }))))

/-- The lane that enters the Jointer next is one of a token past its fast path, and no waiting token past its fast path came to the end of it earlier
(R145). -/
def Sys2Proof.Claims.EarliestTokenEntersFirst : Prop :=
  ∀ (now : Nat) (l : List JTok) (j : JTok), nextEntry now l = some j →
    j ∈ l ∧ j.queued ≠ 0 ∧ j.frozen = false ∧ j.fastEnd ≤ now ∧
    ∀ i ∈ l, i.queued ≠ 0 → i.frozen = false → i.fastEnd ≤ now → j.fastEnd ≤ i.fastEnd

/-- The events of Truss, rings, Scribe and Jointer complete. The model's choices it rests on: log 103. -/
def Obligations.TileEventsComplete : Prop :=
  Claims.TrussAndRingEventsComplete ∧
  Claims.EarliestTokenEntersFirst ∧
  Claims.JointerEventsComplete

/-! ## Copies -/

/-- CPY and CPYS start a copy of the units that the walk, the mask or the index vector gives, unless a base or a ring forbids it, and while the Lahar
has fewer than sixteen (R320 to R325); LAHAR_TILE_START begins the next tile or walk of a copy, or moves an aligned 32-byte unit of the one in
progress (R72); COPY_COMPLETE ends a copy that is all written, with no unit of it on its way, sets its WARN bits (R294) and emits the number of
units. The model's choices it rests on: log 34, log 35, log 36. -/
def Obligations.CopiesComplete : Prop :=
  (∀ (o : SlotOps) (s : State) (c : Ctx) (k : Cluster), Runs s o c →
    let p := s.copyPlan c.br.rid c.blk c.slot c.atok
    let xy := s.ctxCell c
    let started := fun (units : List Nat) (rw w : BitVec 30) =>
      let x : Copy := { id := s.nextId, cx := xy.1, cy := xy.2, blk := c.blk, slot := c.slot, tag := c.tag, atok := c.atok,
                        btok := c.b.map (·.tok), units := units, pos := 0, off := 0, begun := false, buf := [],
                        gens := s.genNow (s.vdOf c.br.rid) p.src (p.sources (c.b.map (·.tok)) units), frozen := false, warn := w,
                        ewarn := rw ||| copyRsvc c.atok }
      ({ s with nextId := s.nextId + 1 } : State).updClus c.br (xy.1 / 4) (xy.2 / 4) (fun k => { k with copies := k.copies ++ [x] })
    s.clus? c.br (xy.1 / 4) (xy.2 / 4) = some k → p.dr = false → ringBase p.src p.sbase = false → ringBase p.dst p.dbase = false →
    k.copies.length < 16 →
    (∃ rw w, exec (.cpy o) s = .next (started (copyUnits p (o.x.getLsbD 18) c.atok (c.b.map (·.tok))).1 rw w)) ∧
    (∃ rw w, exec (.cpys o) s = .next (started (List.range (if c.btok.isScalar then 1 else 32 / idxBytes p.src.idx)) rw w))) ∧
  (∀ (s : State) (br : BentRef) (cX cY id : Nat) (b : Bent) (k : Cluster) (x : Copy),
    s.bentLive br = true → s.bent? br = some b → s.clus? br cX cY = some k → k.copies.find? (·.id == id) = some x → x.frozen = false →
    let p := s.copyPlan br.rid x.blk x.slot x.atok
    (x.pos < x.units.length →
      (∀ t, x.begun = false → s.beginUnit b br cX cY k x p = some t → exec (.laharTileStart br cX cY id) s = .next t) ∧
      (∀ t, x.begun = true → s.moveUnit b br cX cY k x p = some t → exec (.laharTileStart br cX cY id) s = .next t) ∧
      (x.begun = false → p.dr = false → p.tiled = false → p.dst.tl = false → p.src.loc = false → p.dst.loc = false → p.dst.sh = false →
        exec (.laharTileStart br cX cY id) s = .next ((s.setLahar br cX cY k.laharWin).updCopy br cX cY id (fun x =>
          { x with begun := true, off := 0, buf := [] }))) ∧
      (x.begun = true → (alignedUnits (x.dsts p (b.vault0 cX cY) (k.ring? p.ring))).length ≤ x.off → s.bulksOf (.copy br cX cY id) = [] →
        exec (.laharTileStart br cX cY id) s = .next (s.endUnit br cX cY x p))) ∧
    (x.units.length ≤ x.pos → s.bulksOf (.copy br cX cY id) = [] →
      let range : BitVec 30 := if p.rows && x.units.any (fun j => (p.srcAddrs x.btok j).isNone) then warnBit 23 else 0
      exec (.copyComplete br cX cY id) s = .next ((((s.updClus br cX cY (fun k =>
      { k with copies := k.copies.filter (·.id != id) })).updBent br (fun b => { b with engWarn := b.engWarn ||| x.ewarn ||| range })).raiseWarn br
      (.elem x.cx x.cy) x.warn).emit2
      { br := br, u := .elem x.cx x.cy, blk := x.blk, slot := x.slot, tag := x.tag, a := none, b := none, p := none }
      (s.opsAt br.rid x.blk x.slot) (scalarTok x.tag x.units.length))))

/-! ## Remote accesses -/

namespace Sys2Proof.Claims

/-- The request of a remote instruction (R396). -/
def remoteReq (s : State) (o : SlotOps) (c : Ctx) (kind : AccKind) (size ty : Nat) (data data2 : W256) : Req :=
  { Req.make s c kind ((laneAt c.atok.pay 64 0 + o.xf 0 20) % 2 ^ 64) size ty with
    target := targetOf c.atok, data := data, data2 := data2,
    pinned := (o.x.getLsbD 24 && kind != .rstp) && s.pinFree (s.vdOf c.br.rid), posted := kind == .rstp }

/-- A remote request can leave now (R107, R197, R198): its target is the issuing package, or the sequence space to the target's ingress has a place for it
and the retransmit buffer has 48 bytes. -/
def CanLeave (s : State) (c : Ctx) (r : Req) : Prop :=
  let dst := dieCell r.target (if s.inDomain r.target then s.ingressDie (s.srcCell c) r.target else 0)
  r.target = (s.srcCell c).pkg ∨
  s.spaceFree (.vc r.vdr.part (s.reqCell r).pkg (s.reqCell r).die dst.pkg dst.die (if r.kind = .rstp then 4 else 1)) r.vdr.part (s.reqCell r).pkg
    48 = true

end Sys2Proof.Claims

/-- RLD, RST, RSTO, RSTP and the RATMs send a request to the target package that A names, at lane 0 plus the offset (R107, R395 to R398); RSTP
counts one more outbound posted store and emits at once; one that asks for a pin that its virtual device has not is counted in PINDEMOTE and goes without
(R200); an address that is not canonical or not aligned faults instead. -/
def Sys2Proof.Claims.RemoteInstructionsComplete : Prop :=
  ∀ (o : SlotOps) (s : State) (c : Ctx), Runs s o c →
    let va := (laneAt c.atok.pay 64 0 + o.xf 0 20) % 2 ^ 64
    let ty := (memTy o.ty).1
    let z := remoteSize o
    let d := atomData c ty
    let issues := fun (i : Instr) (r : Req) (size : Nat) =>
      let out := fun t : State => if o.x.getLsbD 24 && !s.pinFree (s.vdOf c.br.rid) then
        t.count .pindemote (s.srcCell c).pkg (portVc (s.srcCell c).die 1) else t
      canonVa (BitVec.ofNat 64 va) = true → va % size = 0 →
        ∃ w : BitVec 30, (∀ t, s.sendRemote c { r with warn := w } = .done t → exec i s = .next (out t)) ∧
          (CanLeave s c r → ∃ t, s.sendRemote c { r with warn := w } = .done t ∧ exec i s = .next (out t))
    issues (.rld o) (remoteReq s o c .rld z ty 0 0) z ∧
    issues (.rst o) (remoteReq s o c .rst z ty (storeData c ty z) 0) z ∧
    issues (.rsto o) (remoteReq s o c .rst z ty (storeData c ty z) 0) z ∧
    issues (.ratmAdd o) (remoteReq s o c (.ratm .add) (tyBytes ty) ty d.1 d.2) (tyBytes ty) ∧
    issues (.ratmOr o) (remoteReq s o c (.ratm .or) (tyBytes ty) ty d.1 d.2) (tyBytes ty) ∧
    issues (.ratmSwap o) (remoteReq s o c (.ratm .swap) (tyBytes ty) ty d.1 d.2) (tyBytes ty) ∧
    issues (.ratmCas o) (remoteReq s o c (.ratm .cas) (tyBytes ty) ty d.1 d.2) (tyBytes ty) ∧
    (let r := remoteReq s o c .rstp z ty (storeData c ty z) 0
     canonVa (BitVec.ofNat 64 va) = true → va % z = 0 → s.emittedBefore r = false → ∃ w : BitVec 30,
      let after := fun t : State => ((t.raiseWarn c.br c.u w).updVdev (s.vdOf c.br.rid) (fun d => { d with posted := d.posted + 1 })).emit2 c o
        c.atok.plain
      (∀ t, s.sendRemote c { r with warn := w } = .done t → exec (.rstp o) s = .next (after t)) ∧
      (CanLeave s c r → ∃ t, s.sendRemote c { r with warn := w } = .done t ∧ exec (.rstp o) s = .next (after t))) ∧
    (canonVa (BitVec.ofNat 64 va) = false → exec (.rld o) s = .next (s.fault c { cause := .vaCanon, addr := va, wr := false }) ∧
      exec (.rst o) s = .next (s.fault c { cause := .vaCanon, addr := va, wr := true })) ∧
    (canonVa (BitVec.ofNat 64 va) = true → va % z ≠ 0 → exec (.rld o) s = .next (s.fault c { cause := .misaligned, addr := va, wr := false }) ∧
      exec (.rst o) s = .next (s.fault c { cause := .misaligned, addr := va, wr := true }))

/-- A remote request leaves (R107, R197, R396): one to the issuing package goes to its home at once, and one to another package as long as the sequence
space has a place for it and the retransmit buffer has 48 bytes. -/
def Sys2Proof.Claims.RemoteRequestsLeave : Prop :=
  ∀ (s : State) (c : Ctx) (r : Req),
    let dst := dieCell r.target (if s.inDomain r.target then s.ingressDie (s.srcCell c) r.target else 0)
    let src := s.reqCell r
    (r.target = (s.srcCell c).pkg → s.sendRemote c r = .done (s.putReq { r with stage := .home })) ∧
    (r.target ≠ (s.srcCell c).pkg →
      s.spaceFree (.vc r.vdr.part src.pkg src.die dst.pkg dst.die (if r.kind = .rstp then 4 else 1)) r.vdr.part src.pkg 48 = true →
      ∃ t, s.sendRemote c r = .done t ∧ t.mem = s.mem ∧ t.raisings = s.raisings)

/-- A fault that a remote request meets at its target is parked while fewer than 4,096 are, and reported once to Kiln; with the queue full the request is
turned away (R184). -/
def Sys2Proof.Claims.RemoteFaultsPark : Prop :=
  ∀ (s : State) (n : Nat) (r : Req) (i : FaultInfo), s.req? n = some r → r.stage = .home → r.reply = some (.err i) →
    ((s.parked.filter (·.pkg == r.target)).length < 4096 →
      ∃ t, exec .remoteFaultPark (onEvent s (.num n)) = .next t ∧
        t.parked = s.parked ++ [{ pkg := r.target, req := r.id, cause := i.cause.code, next := s.now + 80000, rank := none }] ∧ KeepsMemory s t ∧
        t.reqs = updIf s.reqs (·.id == r.id) (fun r => { r with stage := .parked, reply := none })) ∧
    (4096 ≤ (s.parked.filter (·.pkg == r.target)).length →
      ∃ t, exec .remoteFaultPark (onEvent s (.num n)) = .next t ∧ t.parked = s.parked ∧ KeepsMemory s t ∧
        t.reqs = updIf s.reqs (·.id == r.id) (fun r => { r with stage := .turned, ga := none, reply := none }))

/-- Kiln's repair of a parked fault lets its request go on, and its refusal ends the request with REMOTE_FAULT (R184); meanwhile a KEEP-WAIT leaves every
80,000 cycles, none for a posted store (R184). -/
def Sys2Proof.Claims.ParkedFaultsEnd : Prop :=
  ∀ (s : State) (p : Pkg) (idx : Nat) (k : ParkRec) (r : Req), (s.parked.filter (·.pkg == p))[idx]? = some k → k.rank = none →
    s.req? k.req = some r →
    exec (.remoteFaultRepair p idx true) s =
      .next (({ s with parked := s.parked.erase k } : State).updReq r.id (fun r => { r with stage := .home, ga := none, reply := none })) ∧
    (r.kind ≠ .rstp → exec (.remoteFaultRepair p idx false) s = .next (({ s with parked := s.parked.erase k } : State).answer r
      (.err { cause := .remoteFault, addr := r.va, aux := k.cause }))) ∧
    (r.kind = .rstp → r.space = none → exec (.remoteFaultRepair p idx false) s = .next (({ s with parked := s.parked.erase k } : State).losePosted r
      { cause := .remoteFault, aux := k.cause })) ∧
    (k.next ≤ s.now →
      let t : State := { s with parked := updIf s.parked (· == k) (fun k => { k with next := k.next + 80000 }) }
      (r.kind ≠ .rstp → exec (.keepWaitTimer p idx) s =
        .next (t.sendHeader .keepwait r.homeCell (t.reqCell r) r.vdr.part (.cont r.id) r.space r.seq r.tag (.notice r.id))) ∧
      (r.kind = .rstp → exec (.keepWaitTimer p idx) s = .next t))

/-- A KEEP-WAIT that arrives restarts its requester's timer; a BUSY does so too and sets when the request goes again: after 64 cycles, doubled at each
further notice (R184). -/
def Sys2Proof.Claims.NoticesArrive : Prop :=
  ∀ (s : State) (n id : Nat) (m : Msg), s.inbox.find? (·.mid == n) = some m → m.body = .notice id →
    let e := onEvent s (.num n)
    let t : State := { e with inbox := e.inbox.filter (·.mid != n) }
    (m.kind = .keepwait → exec .keepWaitArrival e = .next (t.updReq id (fun r => { r with deadline := s.now + 4000000 }))) ∧
    (m.kind = .busy → exec .keepWaitArrival e = .next (t.updReq id (fun r =>
      { r with deadline := s.now + 4000000, busy := r.busy + 1, resendAt := s.now + 64 * 2 ^ r.busy })))

/-- A request turned away goes again after its delay, its held copy counted in RESENT, at most 8 times, and ends with REMOTE_BUSY (R184, R203); 4,000,000
cycles with neither an answer nor a notice end a request with REMOTE_TIMEOUT (R185). -/
def Sys2Proof.Claims.RemoteTimersRun : Prop :=
  ∀ (s : State) (n : Nat) (r : Req), s.req? n = some r →
    let e := onEvent s (.num n)
    let far := r.target.px * 64 + r.target.py
    (r.resendAt ≠ 0 → r.resendAt ≤ s.now → r.stage = .turned →
      (∀ sp c, r.busy < 8 → r.space = some sp → s.copies.find? (fun c => c.space == sp && c.seq == r.seq) = some c →
        exec .busyResend e = .next (((e.count .resent c.pkg (portVc c.msg.src.die c.msg.vc)).updReq r.id
          (fun r => { r with stage := .toHome, resendAt := 0 })).resend c.msg)) ∧
      (8 ≤ r.busy → r.kind ≠ .rstp → r.lingers = false → exec .busyResend e =
        .next (e.reqError r { cause := .remoteBusy, addr := r.va, aux := far }))) ∧
    (r.posted = false ∨ r.early = true →
      r.stage = .toHome ∨ r.stage = .forward ∨ r.stage = .home ∨ r.stage = .parked ∨ r.stage = .turned ∨ r.stage = .toIssuer →
      s.goesOut r = true → r.deadline ≤ s.now →
      exec .remoteTimeout e = .next (e.reqError r { cause := .remoteTimeout, addr := r.va, aux := far }))

/-- The remote accesses issue, and their events complete. -/
def Obligations.RemoteAccessesComplete : Prop :=
  Claims.RemoteInstructionsComplete ∧
  Claims.RemoteRequestsLeave ∧
  Claims.RemoteFaultsPark ∧
  Claims.ParkedFaultsEnd ∧
  Claims.NoticesArrive ∧
  Claims.RemoteTimersRun

/-! ## Groups -/

/-- An operation of a group can leave now: its routes cross no die edge, or its space and the retransmit buffer have room (R197, R209). -/
def Sys2Proof.Claims.OpCanLeave (s : State) (m : McOp) : Prop :=
  s.mcCrosses m = false ∨
  s.spaceFree (.group (s.vdOf m.br.rid).part (s.opCell m).pkg (s.opCell m).die m.group) (s.vdOf m.br.rid).part (s.opCell m).pkg 48 = true

/-- An output has slots for a message in its channel, and one in VC 7 (R194, R195). -/
def Sys2Proof.Claims.OutputFree (s : State) (node out : Node) (m : Msg) : Prop :=
  s.occupancy node out m.vc m.sub + m.slots ≤ vcSlots m.vc ∧ s.occupancy node out 7 m.sub < vcSlots 7

/-- A contribution can leave a router now: the output towards its root holds no message of its subchannel, and a leaf's message fits in its channel (R194,
R195, R212). -/
def Sys2Proof.Claims.NodeCanLeave (s : State) (n : Node) (x : RedSlot) : Prop :=
  (∀ out, s.nextNode n x.root none = some out → ∀ v, s.occupancy n out v x.sub = 0) ∧
  ∀ c, s.leafCopy x.n = some c → c.msg.slots ≤ vcSlots c.msg.vc

/-- AGRP reads its member list, and installs the entries of the group's tree, none acknowledged yet (R210, R307); MCRED and MCST issue an
operation down an installed tree, every reachable member waiting (R211, R213, R367, R369), and wait for one; an MCST at an offset that is not a multiple
of 32 is MISALIGNED (R369). -/
def Sys2Proof.Claims.GroupInstructionsComplete : Prop :=
  ∀ (o : SlotOps) (s : State) (c : Ctx) (e : Elem), Runs s o c → s.elemOf c = some e →
    let g := o.xf 0 8
    let off := laneAt c.atok.pay 64 0
    (∀ bs wins t, off % 16 = 0 → s.groupOps c.br e.cx e.cy g = [] →
      s.groupSets.any (fun x => x.br == c.br && x.cx == e.cx && x.cy == e.cy && x.group == g && !x.installed) = false →
      let v := s.vdOf c.br.rid
      let addrs := (List.range (16 * (o.xf 8 6 + 1))).map (fun i => (off + i) % 2 ^ 64)
      let x : Access := { br := c.br, spad := s.srcCell c, loc := false, need := needRd, sh := false, gens := s.gensNow v (addrs.map (· % 2 ^ 55)),
                          tile := false, owner := 0, ag := some (e.cx, e.cy), since := s.nextId }
      s.engineLoad x [] addrs = .ok bs wins t →
      let ms := t.pageDies (s.srcCell c) v ((List.range (o.xf 8 6 + 1)).map (fun r =>
        let m := memberOf ((bs.drop (16 * r)).take 16)
        { m with abs := m.abs || !s.inDomain m.pkg }))
      ∃ u, exec (.agrp o) s = .next u ∧ u.mem = ms.2.mem ∧
        (∃ x, x ∈ u.groupSets ∧ x.group = g ∧ x.br = c.br ∧ x.installed = false ∧ x.members = ms.1) ∧
        ∀ x ∈ u.groups, x.owner = c.br → x.cx = e.cx → x.cy = e.cy → x.group = g → x.acked = false) ∧
    (∀ set_, s.groupSets.find? (fun x => x.br == c.br && x.cx == e.cx && x.cy == e.cy && x.group == g && x.installed) = some set_ →
      s.mcops.find? (fun m => m.br == c.br && m.blk == c.blk && m.slot == c.slot && m.tag == c.tag && m.frozen) = none →
      (s.mcops.filter (fun m => m.br == c.br && m.cx == e.cx && m.cy == e.cy)).length < 16 →
      let ms := set_.members.map (fun x => if x.abs || !s.reachable (s.srcCell c) x then McState.absent else .waiting)
      let op := fun (data : Option W256) =>
        ({ id := s.nextId, br := c.br, cx := e.cx, cy := e.cy, blk := c.blk, slot := c.slot, tag := c.tag, a := c.a, b := c.b, p := c.p,
           data := data, group := g, off := off, rnd := BitVec.ofNat 3 (rndOf o.mod (s.rmodeOf c.br c.u)).1.code, members := ms,
           deadlines := set_.members.map (fun _ => s.now + 4000000), nodes := [], space := none, seq := 0, busy := [], frozen := false } : McOp)
      let with_ := fun (m : McOp) => ({ s with nextId := s.nextId + 1, mcops := s.mcops ++ [m] } : State)
      let goes := fun (i : Instr) (m : McOp) =>
        (∀ t, (with_ m).mcSend m = some t → exec i s = .next t) ∧ (OpCanLeave (with_ m) m → ∃ t, (with_ m).mcSend m = some t ∧ exec i s = .next t)
      (off % leafBytes o = 0 → goes (.mcred o) (op none)) ∧
      (off % 32 = 0 → goes (.mcst o) (op (some c.btok.plain.pay)))) ∧
    (s.groupSets.find? (fun x => x.br == c.br && x.cx == e.cx && x.cy == e.cy && x.group == g && x.installed) = none →
      exec (.mcred o) s = s.wait ∧ (off % 32 = 0 → exec (.mcst o) s = s.wait)) ∧
    (off % 32 ≠ 0 → exec (.mcst o) s = .next (s.fault c { cause := .misaligned, addr := off, wr := true }))

/-- Messages of groups leave (R194, R195, R197, R209, R212): an operation, where its routes cross no die edge or its space and the retransmit buffer have
room; a copy or a contribution, on an output whose slots hold it. -/
def Sys2Proof.Claims.GroupMessagesLeave : Prop :=
  (∀ (s : State) (m : McOp), OpCanLeave s m → ∃ t, s.mcSend m = some t) ∧
  (∀ (s : State) (node out : Node) (m : Msg), OutputFree s node out m →
    ∃ t, s.toOutput node out m = some t ∧ t.mem = s.mem ∧ t.raisings = s.raisings) ∧
  (∀ (s : State) (k : McCopy) (out : Node) (t : State), s.hopDown k.node out = false → s.toOutput k.node out k.msg = some t →
    s.branch k out = some t) ∧
  (∀ (s : State) (n : Node) (x : RedSlot), NodeCanLeave s n x → ∃ t, s.sendNode n x = some t)

/-- A group at work (R209 to R213): a router that CONFIG has reached takes its entry and acknowledges; a copy of an operation's message goes on to an output
that has a credit; two sibling contributions in a router become one; one that waited 256 cycles goes on alone; and 4,000,000 cycles of silence make a member absent. -/
def Sys2Proof.Claims.GroupEventsComplete : Prop :=
  ∀ s : State,
    (∀ req n r g, s.req? req = some r → s.groupSets.find? (·.req == req) = some g →
      (s.groups.filter (fun x => x.node == n && x.acked)).length < 1024 →
      let mine := fun x : GroupEntry => (x.owner == g.br && x.cx == g.cx && x.cy == g.cy && x.group == g.group) && x.node == n && x.came
      exec (.groupInstallAck req n) s =
        .next (({ s with groups := updIf s.groups mine (fun x => { x with acked := true }) } : State).groupReady r g)) ∧
    (∀ i k out rest, s.mccopies[i]? = some k → k.pending = out :: rest →
      let left := fun t : State => { t with mccopies := if rest.isEmpty then t.mccopies.eraseIdx i else t.mccopies.set i { k with pending := rest } }
      (∀ t, (onEvent s (.num i)).branch k out = some t → exec .multicastForward (onEvent s (.num i)) = .next (left t)) ∧
      (s.hopDown k.node out = true ∨ OutputFree s k.node out k.msg →
        ∃ t, (onEvent s (.num i)).branch k out = some t ∧ exec .multicastForward (onEvent s (.num i)) = .next (left t))) ∧
    (∀ i x, s.redslots[i]? = some x →
      (let n := s.redN x
       ∀ y u, s.redslots.find? (fun y => y.node == x.node && y.n.req == x.n.req && y != x && (let yn := y.n.lift n 6
          yn.k == (x.n.lift n 6).k && yn.first == (x.n.lift n 6).sibling)) = some y →
        let z := if (x.n.lift n 6).first < (y.n.lift n 6).first then joinNodes (x.n.lift n 6) (y.n.lift n 6)
          else joinNodes (y.n.lift n 6) (x.n.lift n 6)
        let z1 : RedSlot := { x with sub := Nat.max x.sub y.sub, n := z.lift n 6 }
        let s1 := (({ onEvent s (.num i) with redslots := (s.redslots.erase x).erase y } : State).releaseLeaf x.n).releaseLeaf y.n
        (s1.sendNode x.node z1 = some u → exec .mcupCombine (onEvent s (.num i)) = .next u) ∧
        (NodeCanLeave s1 x.node z1 → ∃ u, s1.sendNode x.node z1 = some u ∧ exec .mcupCombine (onEvent s (.num i)) = .next u)) ∧
      (let s1 : State := { onEvent s (.num i) with redslots := s.redslots.erase x }
       x.since + 256 ≤ s.now →
        (∀ u, s1.sendNode x.node x = some u → exec .mcupSlotTimeout (onEvent s (.num i)) = .next u) ∧
        (NodeCanLeave s1 x.node x → ∃ u, s1.sendNode x.node x = some u ∧ exec .mcupSlotTimeout (onEvent s (.num i)) = .next u))) ∧
    (∀ id rank m, s.mcops.find? (·.id == id) = some m → m.deadlines.getD rank 0 ≤ s.now → m.frozen = false →
      m.members.getD rank .absent = .waiting ∨ m.members.getD rank .absent = .arrived ∨ m.members.getD rank .absent = .answered →
      exec (.memberAbsentTimeout id rank) s =
        .next ((s.lateWrite m rank).updOp id (fun m => { m with members := m.members.set rank .absent })))

/-- The group instructions complete, and so do the events of groups. The model's choices it rests on: log 44, log 70, log 77. -/
def Obligations.GroupsComplete : Prop :=
  Claims.GroupInstructionsComplete ∧
  Claims.GroupMessagesLeave ∧
  Claims.GroupEventsComplete

/-! ## The work queue, statistics and the system instructions -/

/-- The Auger (R239, R240, R441 to R443): WQINI asks for a range and AUGER_RANGE_SET sets it at item 0; WQNX asks for an item for a record in its
own scratchpad, and AUGER_SERVE gives the next item of the range, END when none is left, or END and UNSET when the range is not set. -/
def Sys2Proof.Claims.WorkDistributionCompletes : Prop :=
  (∀ (o : SlotOps) (s : State) (c : Ctx) (b : Bent) (off : Nat), Runs s o c →
    let l := laneAt c.atok.pay 64 0
    let a := (l + o.xf 0 20) % 2 ^ 64
    (∃ w, exec (.wqini o) s = .next (s.putReq { Req.make s c .wqini 0 8 0 with stage := .home, data := BitVec.ofNat 256 l, warn := w })) ∧
    (s.bent? c.br = some b → b.localAt a = .spad off → a % 16 = 0 →
      (s.reqs.filter (fun q => q.kind == .wqnx && q.br == c.br && q.cx == (Req.make s c .wqnx a 16 0).cx &&
        q.cy == (Req.make s c .wqnx a 16 0).cy)).length < 8 →
      ∃ w, exec (.wqnx o) s = .next (s.putReq
        { Req.make s c .wqnx a 16 0 with stage := .home, loc := true, ga := some (spadGa (s.srcCell c) off), warn := w }))) ∧
  (∀ (s : State) (n : Nat) (r : Req), s.req? n = some r → r.stage = .home →
    let e := onEvent s (.num n)
    let rng := (s.reqOps r).xf 20 6
    (r.kind = .wqini →
      let x : AugerRange := { rng := rng, rid := r.br.rid, n := r.data.toNat % 2 ^ 32 + 1, wid := r.data.toNat / 2 ^ 32 % 2 ^ 16 + 1, next := 0 }
      exec .augerRangeSet e = .next ((e.updVdev r.vdr (fun d => { d with ranges := d.ranges.filter (fun y => y.rng != rng) ++ [x] })).answer r .ack)) ∧
    (r.kind = .wqnx → ∀ d x, s.vdev? r.vdr = some d → d.ranges.find? (·.rng == rng) = some x →
      (x.next < x.n → exec .augerServe e = .next ((e.updVdev r.vdr (fun d => { d with ranges := updIf d.ranges (·.rng == rng) (fun y =>
        { y with next := y.next + 1 }) })).answer r
        (.val (BitVec.ofNat 256 (x.next + (x.next % x.wid) * 2 ^ 32 + (x.next / x.wid) * 2 ^ 64))))) ∧
      (x.n ≤ x.next → exec .augerServe e = .next (e.answer r (.val (BitVec.ofNat 256 (x.n % 2 ^ 32 + 2 ^ 96)))))) ∧
    (r.kind = .wqnx → (s.vdev? r.vdr).bind (fun d => d.ranges.find? (·.rng == rng)) = none →
      exec .augerServe e = .next (e.answer r (.val (BitVec.ofNat 256 (3 * 2 ^ 96))))))

/-- Statistics (R134 to R136, R422, R423): STAD merges tokens and forwards the merge after the Nth; STSNK takes a token for its update, unless
one of its is frozen; STSNK_UPDATE merges it into the 32-byte record, keeping the bits of the record above the counts. -/
def Sys2Proof.Claims.StatisticsComplete : Prop :=
  (∀ (o : SlotOps) (s : State) (c : Ctx) (e : Elem), Runs s o c → s.elemOf c = some e →
    let old := (e.statOf c.blk c.slot).getD
      { blk := c.blk, slot := c.slot, count := 0, pay := Counts.zero.pay, tag := c.tag, a := none, frozen := false, warn := 0 }
    let r : StatRow :=
      { old with count := old.count + 1, tag := c.tag, pay := ((Counts.ofPay old.pay).merge (Counts.ofPay c.atok.pay)).pay }
    let x : StatRow := { blk := c.blk, slot := c.slot, count := 0, pay := c.atok.pay, tag := c.tag, a := c.a, frozen := false, warn := 0 }
    (r.count = o.xf 0 10 + 1 → ∃ w, exec (.stad o) s = .next (s.stadForward c o { r with warn := w })) ∧
    (r.count ≠ o.xf 0 10 + 1 → ∃ w, exec (.stad o) s = .next (s.updElemOf c (fun e =>
      { e with stats := e.stats.filter (fun x => !(x.blk == c.blk && x.slot == c.slot)) ++ [{ r with warn := w }] }))) ∧
    (e.stats.any (fun x => x.blk == c.blk && x.slot == c.slot && x.frozen) = false →
      ∃ w, exec (.stsnk o) s = .next (s.updElemOf c (fun e => { e with stats := e.stats ++ [{ x with warn := w }] })))) ∧
  (∀ (s : State) (br : BentRef) (cx cy blk slot : Nat) (b : Bent) (e : Elem) (r : StatRow) (bs out : List Byte) (wins wins2 : List Window)
      (t u : State),
    let o := s.opsAt br.rid blk slot
    let c : Ctx := { br := br, u := .elem cx cy, blk := blk, slot := slot, tag := r.tag, a := r.a, b := none, p := none }
    let a := (s.constAt c (o.xf 0 16)).toNat
    let x : Access := { br := br, spad := b.cell cx cy, loc := o.x.getLsbD 16, need := needBoth, sh := false, gens := [], tile := false,
                        owner := 0 }
    let addrs := (List.range 32).map (a + ·)
    s.bentLive br = true → s.bent? br = some b → s.elem? br cx cy = some e → e.statOf blk slot = some r → r.frozen = false →
    slotOpc ((s.slot? br.rid blk slot).elim 0 (·.word)) = 0xAD → a % 32 = 0 → s.engineLoad x e.own addrs = .ok bs wins t →
    t.engineStore x wins addrs (bytesOf 32 (((Counts.ofPay (BitVec.ofNat 256 (natOfBytes bs))).merge (Counts.ofPay r.pay)).pay.toNat +
      natOfBytes bs / 2 ^ 176 * 2 ^ 176)) = .ok out wins2 u →
    exec (.stsnkUpdate br cx cy blk slot) s = .next (((((u.updElem br cx cy (fun e => { e with own := wins2 })).updElem br cx cy (fun e =>
      { e with stats := e.stats.erase r })).raiseWarn br (.elem cx cy) r.warn).updBent br (fun b =>
      b.clearFrozen (.elem cx cy) blk slot r.tag)).chargeAccesses br.rid 1))

/-- The work-distribution and the statistics instructions complete. The model's choices it rests on: log 111. -/
def Obligations.WorkAndStatisticsComplete : Prop :=
  Claims.WorkDistributionCompletes ∧
  Claims.StatisticsComplete

/-- The system instructions (R271, R272, R294, R315, R317, R332, R352, R372 to R374, R400, R438, R448): MFS answers a register of its element or bent
at once, asks the hub for one held there, and answers 0 for a reserved number; MTS writes a register and CLFLG clears FLAGS, and both pass A on;
RDTIM answers the cycles since the cold reset; ENRG asks the hub; YIELD steers by the grace window; HALT tells the hub; TRAP posts to Kiln and waits;
BRK passes A on while DBGEN is 0, and else stops its raising. The model's choices it rests on: log 102. -/
def Obligations.SystemInstructionsComplete : Prop :=
  ∀ (o : SlotOps) (s : State) (c : Ctx), Runs s o c →
    let v := s.vdOf c.br.rid
    let n := o.xf 0 12
    (∀ x, s.nearReg c n = some x → ∃ w, exec (.mfs o) s = .next ((s.raiseWarn c.br c.u w).emit2 c o (scalarTok c.tag x.toNat))) ∧
    (s.nearReg c n = none → (s.hubReg c.br v n).isSome = true → ∃ w, exec (.mfs o) s =
      .next (s.putReq { Req.make s c (.mfsHub n) 0 8 0 with stage := .home, warn := w })) ∧
    (s.nearReg c n = none → s.hubReg c.br v n = none → ∃ w, exec (.mfs o) s =
      .next ((s.raiseWarn c.br c.u (w ||| warnBit 27)).emit2 c o (scalarTok c.tag 0))) ∧
    (∃ w, exec (.mts o) s = .next (((s.writeReg c n (c.atok.plain.pay.setWidth 64)).raiseWarn c.br c.u w).emit2 c o c.atok.plain)) ∧
    (s.isAg c = false → ∃ w, exec (.clflg o) s =
      .next (((s.updElemOf c (fun e => { e with flags := 0 })).raiseWarn c.br c.u w).emit2 c o c.atok.plain)) ∧
    (s.isAg c = true → ∃ w, exec (.clflg o) s = .next ((((s.updElemOf c (fun e => { e with flags := 0 })).updBent c.br (fun b =>
      { b with engFlags := 0 })).raiseWarn c.br c.u w).emit2 c o c.atok.plain)) ∧
    (∀ p, s.plat? (s.srcCell c).pkg = some p → ∃ w, exec (.rdtim o) s =
      .next ((s.raiseWarn c.br c.u w).emit2 c o (scalarTok c.tag (s.now - p.cycles0)))) ∧
    (∃ w, exec (.enrg o) s = .next (s.putReq { Req.make s c .enrg 0 8 0 with stage := .home, warn := w })) ∧
    (∀ p, s.part? v.part = some p → ∃ w, exec (.yield o) s =
      .next ((s.raiseWarn c.br c.u w).emit c (if p.phase = .grace ∨ (p.phase = .quantum ∧ p.slotStart + p.q ≤ s.now) then o.t1 else o.t0) c.atok.plain)) ∧
    (let h : HaltReq := { code := o.xf 0 16, stop := o.x.getLsbD 16, bent := c.br.bent, blk := c.blk, slot := c.slot, at_ := s.now }
     ∃ w, exec (.halt o) s = .next ((s.updRaising c.br.rid (fun r => { r with halts := r.halts ++ [h] })).raiseWarn c.br c.u w)) ∧
    (let r : Req := { Req.make s c .trap 0 8 0 with stage := .deferred, cx := (s.ctxCell c).1, cy := (s.ctxCell c).2 }
     let p : KilnPost := { br := c.br, blk := c.blk, slot := c.slot, tag := c.tag, code := o.xf 0 16, pay := c.atok.pay, debug := false }
     (s.reqs.filter (fun q => q.kind == .trap && q.br == r.br && q.cx == r.cx && q.cy == r.cy)).length < 4 →
     ∃ w, exec (.trap o) s = .next { s.putReq { r with warn := w } with posts := s.posts ++ [p] }) ∧
    (∀ d, s.vdev? v = some d →
      (d.dbgen = false → ∃ w, exec (.brk o) s = .next ((s.raiseWarn c.br c.u w).emit2 c o c.atok.plain)) ∧
      (d.dbgen = true → exec (.brk o) s = .next ((((s.holdBrk c o).brkSweep c).updRaising c.br.rid (fun r => { r with brkStop := true })).sealRaising
        c.br.rid)) ∧
      (∃ (h : BrkHold) (p : KilnPost), h.tok = c.atok.plain ∧ h.code = o.xf 0 16 ∧ p.code = o.xf 0 16 ∧ p.debug = true ∧
        s.holdBrk c o = ({ s with posts := s.posts ++ [p] } : State).updRaising c.br.rid (fun r => { r with brks := r.brks ++ [h] })))

/-- A write of a status register is read back (R125, R271, R294, R374): FLAGS with the engine word, RMODE (a mode above 4 counts as 0), WARN with
the engine word, and NONDET, on an element that is no AG; registers of other numbers, and those of other elements, keep their values. -/
def Sys2Proof.Claims.StatusRegisterWritesReadBack : Prop :=
  ∀ (s : State) (c : Ctx) (b : Bent) (e : Elem) (v : W64), s.bent? c.br = some b → s.elemOf c = some e → s.isAg c = false →
    (s.writeReg c 0x000 v).nearReg c 0x000 = some ((v.setWidth 8 ||| b.engFlags).setWidth 64) ∧
    (v.toNat % 8 < 5 → (s.writeReg c 0x001 v).nearReg c 0x001 = some (BitVec.ofNat 64 (v.toNat % 8))) ∧
    (5 ≤ v.toNat % 8 → (s.writeReg c 0x001 v).nearReg c 0x001 = some 0) ∧
    (s.writeReg c 0x002 v).nearReg c 0x002 = some ((v.setWidth 30 ||| b.engWarn).setWidth 64) ∧
    (s.writeReg c 0x003 v).nearReg c 0x003 = some (BitVec.ofNat 64 (v.toNat % 4)) ∧
    (∀ n m, n ≠ m → n ≠ 0x001 → n < 4 → (s.writeReg c n v).nearReg c m = s.nearReg c m) ∧
    (∀ n cx cy, n < 4 → c.u ≠ .elem cx cy → (s.writeReg c n v).elem? c.br cx cy = s.elem? c.br cx cy)

/-- The numbers that R271 does not list, and the registers that it marks read-only (R272): an MFS of a reserved number answers 0 and sets
SRRD; an MTS of a number other than those of FLAGS, RMODE, WARN and NONDET sets SRWR and writes no register. -/
def Sys2Proof.Claims.ReservedRegisterNumbers : Prop :=
  ∀ (o : SlotOps) (s : State) (c : Ctx), Runs s o c →
    let n := o.xf 0 12
    (n ∉ [0x000, 0x001, 0x002, 0x003, 0x004, 0x005, 0x010, 0x011, 0x012, 0x013, 0x014, 0x015, 0x020, 0x021, 0x022, 0x030, 0x031, 0x032] →
      ∃ w, exec (.mfs o) s = .next ((s.raiseWarn c.br c.u (w ||| warnBit 27)).emit2 c o (scalarTok c.tag 0))) ∧
    (n ∉ [0x000, 0x001, 0x002, 0x003] →
      ∃ w, exec (.mts o) s = .next (((s.raiseWarn c.br c.u (warnBit 28)).raiseWarn c.br c.u w).emit2 c o c.atok.plain))

/-- The registers of R271 read back what is written to them, and every other number is reserved as R272 says. -/
def Obligations.StatusRegistersFollowTheirTable : Prop :=
  Claims.StatusRegisterWritesReadBack ∧
  Claims.ReservedRegisterNumbers

/-- Kiln's answers to a program (R315, R316, R438): TRAP_REPLY makes the TRAP emit the payload as a vector; BRK_RESUME unseals a raising stopped at
a BRK and lets each posted BRK emit its token. -/
def Sys2Proof.Claims.KilnRepliesComplete : Prop :=
  (∀ (s : State) (n : Nat) (r : Req) (b : Bent) (pay : W256), s.req? n = some r → r.kind = .trap → r.stage = .deferred → s.bent? r.br = some b →
    let left := s.posts.filter (fun p => !(!p.debug && p.br == r.br && p.blk == r.blk && p.slot == r.slot && p.tag == r.tag))
    (b.isSealed = false → exec (.trapReply n pay) s = .next (((({ s with posts := left } : State).dropReq r.id).raiseWarn r.br r.ctx.u
      r.warn).emit2 r.ctx (s.reqOps r) (vectorTok r.tag pay))) ∧
    (b.isSealed = true → exec (.trapReply n pay) s =
      .next (({ s with posts := left } : State).updReq r.id (fun r => { r with stage := .reply, reply := some (.val pay) })))) ∧
  (∀ (s : State) (rid : Nat) (r : Raising) (h : BrkHold), s.raising? rid = some r → r.brkStop = true → r.state = .running → r.brks = [h] →
    let s1 : State := { onEvent s (.num rid) with posts := s.posts.filter (fun p => !(p.debug && p.br.rid == rid)) }
    exec .brkResume (onEvent s (.num rid)) = .next ((((s1.updRaising rid (fun r => { r with brkStop := false, brks := [] })).unsealRaising rid).raiseWarn
      { rid := rid, bent := h.bent } h.loc h.warn).emit2
      { br := { rid := rid, bent := h.bent }, u := h.loc, blk := h.blk, slot := h.slot, tag := h.tok.tag, a := none, b := none, p := none }
      (s.opsAt rid h.blk h.slot) h.tok))

/-! ## Queues -/

/-- The queue words that do not start a phase (R216, R293, R388 to R392), run on the queue whose word is in the latch: QNOP, QJMP, QEND; QWGE and
QWEQ go on when the value is there and wait else; QSIG, QSET and QJNZ ask the hub; QFNC; QINTR posts while the mailbox has room; QTMR; QENG. -/
def Sys2Proof.Claims.QueueWordsComplete : Prop :=
  ∀ (s : State) (v : VdRef) (q : Nat) (ws : List W64) (x : Queue), s.cur = .word v q ws → s.queue? v q = some x →
    let home := s.semHome x.vdr
    (exec .qnop s = .next (s.putQueue x.past)) ∧
    (∀ t, exec (.qjmp t) s = .next (s.putQueue { x with qptr := t.toNat, state := .ready, work := none })) ∧
    (∀ k, exec (.qend k) s = .next (s.putQueue { x with state := .stopped, work := none, endCode := k.toNat })) ∧
    (∀ sem val, let cur_ := s.semVal home.1 (home.2 + sem.toNat)
      (val ≤ cur_ → exec (.qwge sem val) s = .next (s.putQueue x.past)) ∧
      (¬ val ≤ cur_ → exec (.qwge sem val) s = .next (s.putQueue { x with state := .wait, work := some (.waitGe (home.2 + sem.toNat) val) })) ∧
      (val = cur_ → exec (.qweq sem val) s = .next (s.putQueue x.past)) ∧
      (val ≠ cur_ → exec (.qweq sem val) s = .next (s.putQueue { x with state := .wait, work := some (.waitEq (home.2 + sem.toNat) val) })) ∧
      (exec (.qset sem val) s = .next (s.semWord x sem.toNat (.set val))) ∧
      (∀ sc, s.postedWait x.vdr sc = false → exec (.qsig sem sc val) s = .next (s.semWord x sem.toNat (.add val))) ∧
      (∀ sc, s.postedWait x.vdr sc = true → exec (.qsig sem sc val) s =
        .next (s.putQueue { x with state := .exec, work := some (.sig sem.toNat val sc.toNat) })) ∧
      (∀ dec t, exec (.qjnz sem dec t) s = .next (s.semWord x sem.toNat (.jnz dec t.toNat))) ∧
      (∀ tid delay, exec (.qtmr sem tid delay) s = .next (s.putQueue { x.past with timers := x.timers.filter (·.tid != tid.toNat) ++
        (if delay = 0 then [] else [{ tid := tid.toNat, due := s.now + delay.toNat, sem := sem.toNat }]) }))) ∧
    (∀ sc, s.postedWait x.vdr sc = false → exec (.qfnc sc) s = .next (s.putQueue x.past)) ∧
    (∀ sc, s.postedWait x.vdr sc = true → exec (.qfnc sc) s = .next (s.putQueue { x with state := .wait, work := some (.fence sc.toNat) })) ∧
    (∀ e, exec (.qeng e) s = .next (s.putQueue { x.past with pendResv := some e.toNat })) ∧
    (∀ d vec code, s.vdev? x.vdr = some d →
      (d.mailbox.length < 64 → ∃ t d', exec (.qintr vec code) s = .next t ∧ t.vdev? x.vdr = some d' ∧ d'.mailbox = d.mailbox ++
        [{ part := x.vdr.part, vd := x.vdr.vd, queue := x.q, index := x.qptr, code := code.toNat }] ∧ t.queue? x.vdr x.q = some x.past) ∧
      (64 ≤ d.mailbox.length → exec (.qintr vec code) s =
        .next (s.putQueue { x with state := .exec, work := some (.intr vec.toNat code.toNat) })))

/-- The words that start a phase leave their queue in ADMIT with the phase and the signal of its end (R219, R386, R387, R393, R394); the addresses
and length of a QCOPY are multiples of 32. -/
def Sys2Proof.Claims.PhaseWordsEnterAdmit : Prop :=
  ∀ (s : State) (v : VdRef) (q : Nat) (ws : List W64) (x : Queue) (sem : BitVec 10) (sg : Bool) (add : BitVec 32), s.cur = .word v q ws →
    s.queue? v q = some x →
    let goes := fun (i : Instr) (w : QWork) => ∃ t y, exec i s = .next t ∧ t.queue? v q = some y ∧ y.state = .admitting ∧ y.work = some w ∧
      y.sig = (if sg then some (sem.toNat, add.toNat) else none) ∧ y.admitAt = s.now ∧ y.qptr = x.qptr ∧ y.prog = x.prog ∧
      (∀ u p, (u, p) ≠ (v, q) → t.queue? u p = s.queue? u p)
    (∀ img va arg, goes (.qlnch sem sg add img va arg) (.launch img va.toNat arg.toNat)) ∧
    (∀ sh src dst len, goes (.qcopy sem sg sh add src dst len)
      (.copy (src.toNat - src.toNat % 32) (dst.toNat - dst.toNat % 32) (len.toNat - len.toNat % 32) sh 0 false 0 [])) ∧
    (∀ img va rep, goes (.qload sem sg add img va rep) (.load img va.toNat rep.toNat)) ∧
    (∀ qn, goes (.qsave sem sg qn add) (.save qn.toNat)) ∧
    (∀ qn, goes (.qrest sem sg qn add) (.rest qn.toNat))

/-- The words of a queue program complete; a phase word enters ADMIT. -/
def Obligations.QueueProgramsComplete : Prop :=
  Claims.QueueWordsComplete ∧
  Claims.PhaseWordsEnterAdmit

/-- The hub performs the first semaphore operation that reached it in one event (R218, R386, R388): the semaphore takes the sum, the value set, or
one less for a counting jump; every other semaphore keeps its value; QPTR of the queue whose word it is goes past the word, or to the target of a jump,
which is taken exactly when the value read was not 0. -/
def Sys2Proof.Claims.SemaphoreOperationsComplete : Prop :=
  ∀ (s : State) (p : Pkg) (r : SemReq), s.semReqs.find? (·.pkg == p) = some r →
    let old := s.semVal p r.n
    ∃ t, exec .semaphoreOperation (onEvent s (.pkg p)) = .next t ∧ t.semReqs = s.semReqs.erase r ∧ t.mem = s.mem ∧ t.raisings = s.raisings ∧
      t.semVal p r.n = (match r.op with
        | .add v => old + v
        | .signal v _ => old + v
        | .set v => v
        | .jnz dec _ => if old = 0 then 0 else if dec then old - 1 else old) ∧
      (∀ u n, (u, n) ≠ (p, r.n) → t.semVal u n = s.semVal u n) ∧
      (∀ q x m, r.queue = some q → s.queue? r.vdr q = some x → x.work = some (.semOp m) → ∃ y, t.queue? r.vdr q = some y ∧
        y.qptr = (match r.op with
          | .jnz _ target => if old = 0 then x.past.qptr else target
          | _ => x.past.qptr))

/-- The other events of queues (R216, R390, R391): a timer that is due adds 1 to its semaphore and goes; the host drains the oldest record of a
mailbox; Kiln starts a STOPPED queue where QPTR stands, and stops one that runs no phase, whose word's operation, not yet performed, a restart takes again. -/
def Sys2Proof.Claims.QueueEventsComplete : Prop :=
  (∀ (s : State) (v : VdRef) (q tid : Nat) (x : Queue) (t : QTimer), s.queue? v q = some x →
    (x.timers.find? (fun t => t.tid == tid && t.due ≤ s.now) = some t → exec (.queueTimerExpiry v q tid) s =
      .next ((s.putQueue { x with timers := x.timers.filter (·.tid != tid) }).sendSem v t.sem (.add 1) none)) ∧
    (x.state = .stopped → exec (.kilnQueueStart v q) s = .next (s.putQueue { x with state := .ready, work := none })) ∧
    (x.state ≠ .run → exec (.kilnQueueStop v q) s = .next (({ s with semReqs := s.semReqs.filter (fun r => !r.ofWord v q) } : State).putQueue
      { x with state := .stopped, work := none }))) ∧
  (∀ (s : State) (v : VdRef) (d : Vdev), s.vdev? v = some d → ∃ t, exec .interruptMailboxDrain (onEvent s (.vdev v)) = .next t ∧
    (t.vdev? v).map (·.mailbox) = some (d.mailbox.drop 1) ∧ t.mem = s.mem ∧ t.raisings = s.raisings ∧
    (∀ m rest q, d.mailbox = m :: rest → s.plat? d.home = some q → (t.plat? d.home).map (·.hostRead) = some m.bytes))

/-- The semaphore instructions and the events of queues complete. The model's choices it rests on: log 66, log 97. -/
def Obligations.QueueControlCompletes : Prop :=
  Claims.SemaphoreOperationsComplete ∧
  Claims.QueueEventsComplete

/-! ## Tokens, faults and Kiln -/

/-- TOKEN_ARRIVAL (R27, R36, R37, R224, R449, R454): the first token of a link whose partner waits, or that needs none, enters the ready buffer
with it; one that waits takes a row while no token of its unit is in the spill area, or goes there; one of another raising's contexts, of an aborted
activation or of none, or at a port that is not open, is dropped. -/
def Sys2Proof.Claims.TokensArrive : Prop :=
  ∀ (s : State) (br : BentRef) (u : UnitLoc) (n : Nat) (w : WaitTok) (rest : List (Nat × WaitTok)), s.linksOf br u = (n, w) :: rest →
    let s1 := s.unlink br u (n, w)
    let w1 := { w with at_ := s1.now }
    ∀ p b, s1.slot? br.rid w.blk w.slot = some p → s1.bent? br = some b →
      (s1.tagInVdev br.rid w.tok.tag = false → exec (.tokenArrival br u) s = .next (s1.dropAdvisory br u w .tagRange)) ∧
      (s1.tagInVdev br.rid w.tok.tag = true → b.abortedTag w.tok.tag = true → exec (.tokenArrival br u) s = .next s1) ∧
      (s1.tagInVdev br.rid w.tok.tag = true → b.abortedTag w.tok.tag = false →
        (s1.isStray br w = true → exec (.tokenArrival br u) s = .next (s1.dropAdvisory br u w .strayToken)) ∧
        (∀ i, s1.isStray br w = false → stationInstr p.word w.port = some i → portOpen i p.bNamed w.port = true →
          let t := s1.noteArrival br u i w1
          (∀ r, s1.takes br u i p.bNamed w1 = .ready r → exec (.tokenArrival br u) s = .next ((t.takePartners br u r).pushReady br u r)) ∧
          (s1.takes br u i p.bNamed w1 = .row → s1.rowFree br u = false ∨ s1.hasSpill br u = false →
            exec (.tokenArrival br u) s = .next (t.keepTok br u w1)) ∧
          (s1.takes br u i p.bNamed w1 = .held → s1.rowFree br u = true → s1.hasSpill br u = false →
            exec (.tokenArrival br u) s = .next (t.pushRow br u w1))) ∧
        (∀ i, s1.isStray br w = false → stationInstr p.word w.port = some i → portOpen i p.bNamed w.port = false →
          exec (.tokenArrival br u) s = .next (s1.count .ingdrop ((s1.vdev? (s1.vdOf br.rid)).elim b.pkg (·.home))
            (64 * (s1.vdOf br.rid).part + (s1.vdOf br.rid).vd))))

/-- SPILL_REINJECT (R30, R36, R37, R179; log 32): the oldest spilled token of a unit enters the ready buffer when it needs no row for that, its partner
leaving one, or takes a free row, where it may fire, its arrival time and frozen mark as they were; and a spilled element of a stream takes a free row. -/
def Sys2Proof.Claims.SpilledTokensReturn : Prop :=
  ∀ (s : State) (br : BentRef) (idx : Nat) (b : Bent), s.bent? br = some b →
    (∀ w p, b.spill[idx]? = some w → s.slot? br.rid w.blk w.slot = some p →
      (b.spill.take idx).any (fun x => (s.slot? br.rid x.blk x.slot).elim false (fun q => q.loc == p.loc)) = false →
      b.abortedTag w.tok.tag = false → s.isStray br w = false →
      let t := s.updBent br (fun b => { b with spill := b.spill.eraseIdx idx })
      (w.frozen = true → s.rowFree br p.loc = true → exec (.spillReinject br idx) s = .next (t.pushRow br p.loc w)) ∧
      (∀ i, w.frozen = false → stationInstr p.word w.port = some i →
        (∀ r, s.takes br p.loc i p.bNamed w = .ready r → rowless i r = true →
          exec (.spillReinject br idx) s = .next (((t.noteReord br p.loc i w).takePartners br p.loc r).pushReady br p.loc r)) ∧
        (s.rowFree br p.loc = true → (∀ r, s.takes br p.loc i p.bNamed w = .ready r → rowless i r = false) →
          exec (.spillReinject br idx) s = .next ((t.noteReord br p.loc i w).pushRow br p.loc w)))) ∧
    (∀ cx cy id j, b.spill.length ≤ idx → b.spilledParks[idx - b.spill.length]? = some (cx, cy, id, j) → s.rowFree br (.elem cx cy) = true →
      exec (.spillReinject br idx) s = .next (s.updElem br cx cy (fun e =>
        { e with streams := updIf e.streams (·.id == id) (fun x => { x with spilled := setDel x.spilled j }) })))

/-- Tokens at a unit arrive, and return from the spill area; and BLOCK_STALL tells Kiln once of an activation that is too old (R58). The model's
choices it rests on: log 27, log 32, log 69. -/
def Obligations.TokenEventsComplete : Prop :=
  Claims.TokensArrive ∧
  Claims.SpilledTokensReturn ∧
  (∀ (s : State) (br : BentRef) (idx : Nat) (b : Bent) (a : Age), s.bent? br = some b → b.ages[idx]? = some a → a.told = false →
    a.start + b.wdInterval ≤ b.cycles s.now →
    ∃ pl, exec (.blockStall br idx) s = .next ((s.updBent br (fun b =>
      { b with ages := b.ages.modify idx (fun a => { a with told := true }) })).recordAt br pl a.blk 0 0 a.tag { cause := .blockStall } 0
      (0, 0, 0, 0, 0)))

/-- Taking a fault (R30, R179, R180, R187): every operand of the firing is kept as a waiting token of its unit marked frozen, its tag is frozen
with the count of refaults, and, in a firing that is the oldest of its timeline or of a FREE block, a record with the cause, place and address joins
the partition's records. FLAGS and WARN of the unit, memory outside the fault rings, and every request, queue and virtual device are as before. -/
def Sys2Proof.Claims.FaultsFreezeTheirTag : Prop :=
  ∀ (s : State) (c : Ctx) (i : FaultInfo) (b : Bent) (p : Partition) (cx cy : Nat) (e : Elem), s.bent? c.br = some b → c.u = .elem cx cy →
    s.elem? c.br cx cy = some e → s.part? (s.vdOf c.br.rid).part = some p →
    let t := s.fault c i
    KeepsMemory s t ∧ (p.ring.cap = 0 → t.mem = s.mem ∧ t.enc = s.enc) ∧
    t.presence = s.presence ∧ t.reqs = s.reqs ∧ t.queues = s.queues ∧ t.sems = s.sems ∧ t.vdevs = s.vdevs ∧
    (∃ b' e' f, t.bent? c.br = some b' ∧ t.elem? c.br cx cy = some e' ∧ b'.frozen? c.u c.blk c.slot c.tag = some f ∧
      (∀ w ∈ c.a.toList ++ c.b.toList ++ c.p.toList, { w with frozen := true } ∈ e'.rows ++ b'.spill) ∧
      f.refc = s.refcOf c ∧ f.held = !s.isOldest c ∧ e'.flags = e.flags ∧ e'.warn = e.warn ∧ e'.ready = e.ready ∧ e'.link = e.link) ∧
    (s.isOldest c = true → ∃ p' more f, t.part? (s.vdOf c.br.rid).part = some p' ∧ p'.faults = p.faults ++ more ++ [f] ∧
      f.cause = (if 16 ≤ s.refcOf c then Cause.refaultLoop else i.cause).code ∧ f.part = (s.vdOf c.br.rid).part ∧
      f.vdid = (s.vdOf c.br.rid).vd ∧ f.bent = c.br.bent ∧ f.raiseid = c.br.rid ∧ f.ecx = cx ∧ f.ecy = cy ∧ f.blk = c.blk ∧ f.slot = c.slot ∧
      f.tag = c.tag ∧ f.port = c.portCode ∧ f.addr = i.addr ∧ f.wr = i.wr ∧ f.aux = i.aux ∧ f.refc = s.refcOf c)

/-- A record reaches Kiln and, in a fault ring that has memory, stands there as its 64 bytes, lowest first, after the records before it; its SEQ is its
package's next, and no other byte of memory changes (R4, R187). -/
def Sys2Proof.Claims.RecordsStandInTheRing : Prop :=
  ∀ (s : State) (pkg : Pkg) (part : Nat) (f : Nat → FaultRec) (p : Partition) (q : Platform), memWf s.mem = true → s.part? part = some p →
    s.plat? pkg = some q →
    let r := f q.faultSeq.toNat
    let t := s.pushRecord pkg part f
    let at_ := gaOf pkg p.ring.next
    (t.part? part).map (·.faults) = some (p.faults ++ [r]) ∧ (t.plat? pkg).map (·.faultSeq) = some (q.faultSeq + 1) ∧
    (p.ring.cap = 0 → t.mem = s.mem) ∧
    (p.ring.cap ≠ 0 → t.readBytes at_ 64 = bytesOf 64 r.bits ∧ (t.part? part).map (·.ring.wr) = some (p.ring.wr + 1) ∧
      ∀ a, (a < at_ ∨ at_ + 64 ≤ a) → memRead t.mem a = memRead s.mem a)

/-- A fault freezes its instruction under its tag, and its record stands in the partition's fault ring. The model's choices it rests on: log 99. -/
def Obligations.FaultsFreezeAndReport : Prop :=
  Claims.FaultsFreezeTheirTag ∧
  Claims.RecordsStandInTheRing

/-- Returning from a fault (R180): KILN_REPLAY takes the frozen mark off the waiting tokens of the tag at the slot and off no other token, in the
rows of the element and in the spill ring; a stream's least parked element, a copy, a batch, a QCOPY, the Truss and an element stopped by an
error go on from where they stood. KILN_RESUME_SPILL lets a bent whose spill area has grown run again (R38). -/
def Obligations.ReplayReleasesFrozenWork : Prop :=
  ∀ (s : State) (br : BentRef) (cx cy : Nat),
    (∀ b e blk slot tag, s.bent? br = some b → s.elem? br cx cy = some e →
      let thaw := fun w : WaitTok => if w.blk = blk ∧ w.slot = slot ∧ w.tok.tag = tag then { w with frozen := false } else w
      ∃ t b' e', exec (.kilnReplay (.instr br (.elem cx cy) blk slot tag)) s = .next t ∧ t.bent? br = some b' ∧ t.elem? br cx cy = some e' ∧
        e'.rows = e.rows.map thaw ∧ b'.spill = b.spill.map thaw ∧ t.mem = s.mem ∧ t.reqs = s.reqs) ∧
    (∀ id j, let one := fun x : Stream => x.id == id && x.parked.head? == some j
      let go := fun x : Stream => ({ x with parked := setDel x.parked j, stalled := false } : Stream).settle
      exec (.kilnReplay (.stream br cx cy id j)) s = .next (s.updElem br cx cy (fun e => { e with streams := updIf e.streams one go }))) ∧
    (∀ id, exec (.kilnReplay (.copy br cx cy id)) s =
      .next (s.updClus br cx cy (fun k => { k with copies := updIf k.copies (·.id == id) (fun x => { x with frozen := false }) }))) ∧
    (∀ id, exec (.kilnReplay (.batch br cx cy id)) s =
      .next (s.updElem br cx cy (fun e => { e with batches := updIf e.batches (·.id == id) (fun x => { x with frozen := false }) }))) ∧
    (∀ v q x src dst len sh pos id gens, s.queue? v q = some x → x.work = some (.copy src dst len sh pos true id gens) →
      ∃ t, exec (.kilnReplay (.qcopy v q)) s = .next t ∧ t.queue? v q = some { x with work := some (.copy src dst len sh pos false id gens) } ∧
        t.mem = s.mem ∧ t.raisings = s.raisings ∧ t.reqs = s.reqs) ∧
    (exec (.kilnReplay (.truss br cx cy)) s = .next (s.updClus br cx cy (fun k => { k with
      firing := k.firing.map (fun f => { f with stopped := false }), jointer := k.jointer.map (fun j => { j with frozen := false }) }))) ∧
    (exec (.kilnReplay (.elem br cx cy)) s = .next (s.updElem br cx cy (fun e => { e with eccFrozen := false }))) ∧
    (∀ b size, s.bent? br = some b → ∃ t b', exec (.kilnResumeSpill br size) s = .next t ∧ t.bent? br = some b' ∧ b'.spillSize = size ∧
      b'.frozen = false ∧ b'.spill = b.spill ∧ b'.elems = b.elems ∧ t.mem = s.mem)

/-- What Kiln writes (R35, R199, R215, R226, R254): KILN_REGISTER_WRITE runs unless it stores to an address that no memory answers, which faults; a
quota outside 16 to 512, a priority above 3, a TRIMTH outside its range and a retransmit buffer outside 16 MiB to 1 GiB change nothing, and those
inside take effect. -/
def Sys2Proof.Claims.KilnRegisterWritesComplete : Prop :=
  ∀ s : State,
    (∀ r, s.storeGap r = none → exec (.kilnRegisterWrite r) s = .next (s.kilnWrite r)) ∧
    (∀ r p a, s.storeGap r = some (p, a) → exec (.kilnRegisterWrite r) s = .fault (.noSuchAddress p a)) ∧
    (∀ part n, n < 16 ∨ 512 < n → exec (.kilnRegisterWrite (.quota part n)) s = .next s) ∧
    (∀ part n p, 16 ≤ n → n ≤ 512 → s.part? part = some p → ∃ t, exec (.kilnRegisterWrite (.quota part n)) s = .next t ∧
      t.part? part = some { p with quota := n, shares := p.shares.map (fun x => (x.1, { x.2 with quota := n })) } ∧ t.mem = s.mem ∧ t.raisings = s.raisings) ∧
    (∀ v q prio, 3 < prio → exec (.kilnRegisterWrite (.queuePrio v q prio)) s = .next s) ∧
    (∀ v q prio x, prio ≤ 3 → s.queue? v q = some x → ∃ t, exec (.kilnRegisterWrite (.queuePrio v q prio)) s = .next t ∧
      t.queue? v q = some { x with prio := prio }) ∧
    (∀ n out vc th, th < 8 ∨ vcSlots vc < th ∨ vc = 0 ∨ 5 < vc → exec (.kilnRegisterWrite (.trimth n out vc th)) s = .next s) ∧
    (∀ n out vc th, 8 ≤ th → th ≤ vcSlots vc → 1 ≤ vc → vc ≤ 5 → ∃ t, exec (.kilnRegisterWrite (.trimth n out vc th)) s = .next t ∧
      t.trimTh n out vc = th) ∧
    (∀ part n, n < 2 ^ 24 ∨ 2 ^ 30 < n → exec (.kilnRegisterWrite (.txSize part n)) s = .next s) ∧
    (∀ part n p, 2 ^ 24 ≤ n → n ≤ 2 ^ 30 → s.part? part = some p → ∃ t, exec (.kilnRegisterWrite (.txSize part n)) s = .next t ∧
      t.part? part = some { p with txSize := n } ∧ t.mem = s.mem ∧ t.raisings = s.raisings) ∧
    (∀ v d n, s.vdev? v = some d → ∃ t, exec (.kilnRegisterWrite (.depcount v n)) s = .next t ∧
      t.vdev? v = some { d with depcount := n, depArmed := true })

/-- The answers of Kiln to MFS and its register writes complete. The model's choices it rests on: log 73. -/
def Obligations.KilnAccessesComplete : Prop :=
  Claims.KilnRepliesComplete ∧
  Claims.KilnRegisterWritesComplete

/-- Sync points, migration and ECC (R173, R182, R186): PAGE_TABLE_SYNC_POINT raises TGEN and notes the older accesses it waits for; MIGRATION_START
takes a record with no line valid while its port holds fewer than 256; MIGRATION_LINE_PULL brings an absent line of an ACTIVE record;
ECC_UNCORRECTABLE marks a unit of memory, or freezes the element that would consume it; ECC_CORRECTED counts. The model's choices it rests on: log
72. -/
def Obligations.MemorySystemEventsComplete : Prop :=
  ∀ (s : State) (p : Pkg),
    (∀ v d, s.vdev? v = some d → ∃ t, exec (.pageTableSyncPoint p v) s = .next t ∧ t.tgenOf v p = (s.tgenOf v p + 1) % 2 ^ 32 ∧
      t.syncs = s.syncs ++ [{ pkg := p, vdr := v, waits := s.syncWaits p v }] ∧ t.mem = s.mem) ∧
    (∀ new_ old, let ga := gaOf p new_ / 2 ^ 16 * 2 ^ 16
      (s.migs.filter (fun m => m.pkg == p && s.portAux m.new_ == s.portAux ga)).length < 256 → s.migs.any (fun m => m.new_ == ga) = false →
      let m : MigRec := { pkg := p, new_ := ga, old := old / 2 ^ 16 * 2 ^ 16, state := .pending, bits := List.replicate 256 false }
      exec (.migrationStart p new_ old) s = .next { s with migs := s.migs ++ [m] }) ∧
    (∀ new_ line m, s.migOf (gaOf p new_) = some m → m.state = .active → m.bits.getD line true = false →
      s.eccIn (m.old + 256 * line) 256 = false →
      exec (.migrationLinePull p new_ line) s = .next (s.pullLine m line)) ∧
    (∀ ga, exec (.eccUncorrectable (.unit ga)) s = .next (({ s with ecc := setIns s.ecc (ga / 32) } : State).count .eccu (gaPkg ga) (s.eccIdx ga))) ∧
    (∀ br cx cy b e r rs, s.bent? br = some b → s.elem? br cx cy = some e → e.eccFrozen = false → b.pkg = p →
      let s1 := (s.count .eccu p 66).updElem br cx cy (fun e => { e with eccFrozen := true })
      let c : Ctx := { br := br, u := .elem cx cy, blk := r.blk, slot := r.slot, tag := r.tag, a := r.a, b := r.b, p := r.p }
      s1.candidates br (.elem cx cy) = r :: rs →
      exec (.eccUncorrectable (.elem br cx cy)) s = .next ((s1.takeReady br (.elem cx cy) r).fault c { cause := .eccUncorr })) ∧
    (∀ idx, exec (.eccCorrected p idx) s = .next (s.count .eccc p idx))

/-! ## Phases, rounds and slots -/

/-- The end of a phase (R96, R352 to R354, R385): a quiet raising with no remainder completes; a HALT received first ends its raising once its
accesses are settled, and until then its bents are sealed; Kiln ends one as a HALT of CODE 0xFFFF and STOP = 1 does. -/
def Sys2Proof.Claims.PhaseEndsComplete : Prop :=
  ∀ (s : State) (rid : Nat) (r : Raising), s.raising? rid = some r → r.state = .running →
    let e := onEvent s (.num rid)
    (r.brkStop = false → r.bents.any (·.isSealed) = false → e.quiet r = true →
      (r.remainders = [] → exec .phaseComplete e =
        .next (e.endRaising r { flags := r.allFlags, code := none, bent := 0, blk := 0, slot := 0 } false)) ∧
      (r.remainders ≠ [] → exec .phaseComplete e = .next (e.flushStads r))) ∧
    (∀ h, firstHalt r.halts = some h →
      ((e.sealRaising rid).settledAll rid = true → exec .hubHalt e = .next ((e.sealRaising rid).endRaising r
        { flags := r.allFlags, code := some h.code, bent := h.bent, blk := h.blk, slot := h.slot } h.stop)) ∧
      ((e.sealRaising rid).settledAll rid = false → exec .hubHalt e = .next (e.sealRaising rid))) ∧
    (let h : HaltReq := { code := 0xFFFF, stop := true, bent := 0, blk := 0, slot := 0, at_ := s.now }
     exec .kilnEndRaising e = .next ((e.updRaising rid (fun r => { r with halts := r.halts ++ [h] })).applyHalt rid))

/-- Admission and images (R219, R227, R238, R245): in its slot, LAUNCH_ADMIT admits the first queue in ADMIT when it can be, after asking for the
images that are not there; IMAGE_LOAD adds a good image and reports the first error of a bad one, and is pending while the image or the library does
not translate. -/
def Sys2Proof.Claims.AdmissionCompletes : Prop :=
  ∀ (s : State) (v : VdRef),
    (s.inSlot v = true → let e := onEvent s (.vdev v)
      exec .launchAdmit e = .next (((e.askAll v).admitOne v false).getD (e.askAll v)) ∧
      (∀ t, (e.askAll v).admitOne v false = some t → exec .launchAdmit e = .next t) ∧
      ((e.askAll v).admitOne v false = none → exec .launchAdmit e = .next (e.askAll v))) ∧
    (∀ l d k, s.loads.find? (·.vdr == v) = some l → s.vdev? v = some d →
      (∀ t, s.imageBytes d.home v l.va = (none, t) → exec (.imageLoad v k) s = .next t) ∧
      (∀ bs t, s.imageBytes d.home v l.va = (some bs, t) → t.reportsReady v l.id = true →
        (∀ u, t.libraryFor d k bs = (none, u) → exec (.imageLoad v k) s = .next u) ∧
        (∀ lib u, t.libraryFor d k bs = (some lib, u) →
          (∀ img, u.checkImage v lib l.id bs = .ok img → exec (.imageLoad v k) s =
            .next ((u.updVdev v (fun d => { d with images := d.images ++ [img] })).loaded v l.id
              { vdr := v, id := l.id, code := 0, section_ := 0, blk := 0, slot := 0, opc := 0, off := 0 })) ∧
          (∀ er, u.checkImage v lib l.id bs = .error er → exec (.imageLoad v k) s = .next (u.loaded v l.id
            { vdr := v, id := l.id, code := er.code, section_ := er.sec, blk := er.blk, slot := er.slot, opc := er.opc, off := er.off })))))

/-- A phase is admitted, and ends. The model's choices it rests on: log 51, log 56, log 31, log 57, log 104, log 105, log 106, log 107, log 108, log
109. -/
def Obligations.PhasesBeginAndEnd : Prop :=
  Claims.PhaseEndsComplete ∧
  Claims.AdmissionCompletes

/-- A round goes on (R226 to R232, R237, R354): at the end of the quantum the grace window opens; at its end every running phase is drained; each
cluster's image is saved once its raising's accesses are settled; when all are saved the next slot's images are restored; and at the slot's start
the energy counter is raised to at most one allotment, the phases go on and launches are admitted. -/
def Obligations.RoundEventsComplete : Prop :=
  ∀ (s : State) (n : Nat) (p : Partition), s.part? n = some p →
    let e := onEvent s (.num n)
    (p.phase = .quantum → p.slotStart + p.q ≤ s.now → exec .quantumEnd e = .next (e.updPart p.lay.part (fun p => { p with phase := .grace }))) ∧
    (∀ d, p.phase = .grace → p.slotStart + p.q + p.w ≤ s.now → s.slotVd p = some d → exec .graceWindowEnd e =
      .next (((((e.raisingsOf d.vdr).filter (·.state == .running)).foldl (fun s r =>
        (s.drainRaising r).updRaising r.rid (fun r => { r with state := .drained })) e).updPart p.lay.part (fun p =>
        { p with phase := .guard })).updVdev d.vdr (fun d => { d with savedClus := [] }))) ∧
    (∀ d c, p.phase = .guard → s.slotVd p = some d → (s.occupied d.vdr).contains c = true → d.savedClus.any (·.1 == c) = false →
      (∀ r ∈ s.raisingsOf d.vdr, r.clusters.contains c = true → s.atRest r.rid = true) →
      exec (.clusterImageSaveDone n c) s = .next ((s.saveCluster d c (s.cluIdx n c) 0).updVdev d.vdr (fun d =>
        { d with savedClus := d.savedClus ++ [(c, s.cluIdx n c)] }))) ∧
    (p.phase = .guard → (∀ d, s.slotVd p = some d → ∀ c ∈ s.occupied d.vdr, d.savedClus.any (·.1 == c) = true) → p.suspended = false →
      let slot := (p.slot + 1) % Nat.max 1 (s.vdevs.filter (·.vdr.part == n)).length
      let p2 : Partition :=
        { p with slot := slot, slotStart := p.slotStart + p.q + p.g, round := p.round + (if slot = 0 then 1 else 0), phase := .saved }
      let s2 := p.lay.clusters.foldl (fun s c => s.clearCluster c) (s.updPart n (fun _ => p2))
      (∀ moves, s2.slotVd p2 = none → exec (.clusterRestore n moves) s = .next s2) ∧
      (∀ d moves, s2.slotVd p2 = some d → exec (.clusterRestore n moves) s =
        .next ((s2.restoreTo p moves ((s2.raisingsOf d.vdr).filter (·.state == .drained))).foldl
          (fun s x => s.bringBack d x.1 x.2 (fun c => s.cluIdx n c) 0) s2)) ∧
      (∀ d, s2.slotVd p2 = some d → exec (.clusterRestore n []) s =
        .next (((s2.raisingsOf d.vdr).filter (·.state == .drained)).foldl (fun s r =>
          s.bringBack d r (r.bents.map (fun b => { pkg := b.pkg, x := b.x0, y := b.y0 })) (fun c => s.cluIdx n c) 0) s2))) ∧
    (∀ d, p.phase = .saved → p.slotStart ≤ s.now → p.suspended = false →
      let s1 := e.updPart p.lay.part (fun p => { p with phase := .quantum, qtOff := 0 })
      s1.slotVd p = some d →
      let s2 := s1.updVdev d.vdr (fun d => { d with energy := min (d.energy + Int.ofNat (s1.allotment d)) (Int.ofNat (s1.allotment d)) })
      let s3 := ((s2.raisingsOf d.vdr).filter (·.state == .drained)).foldl (fun s r =>
        if r.halts ≠ [] then (s.updRaising r.rid (fun r => { r with state := .running })).applyHalt r.rid
        else if r.brkStop = true then s.updRaising r.rid (fun r => { r with state := .running })
        else (s.updRaising r.rid (fun r => { r with state := .running })).unsealRaising r.rid) s2
      exec .slotStart e = .next ((s3.askAll d.vdr).admitMany d.vdr 64))

/-- A package's copy of frames and tables (R266, R268): each byte of a frame stands in the Sinter store at its checkpoint address, the bytes of the tables
stand behind the frames, and every byte outside the checkpoint's range is as before. -/
def Sys2Proof.Claims.FramesStandInTheCheckpoint : Prop :=
  ∀ (s : State) (p : Partition) (frames tails : List (Pkg × Nat)) (base : Nat) (pkg : Pkg), memWf s.mem = true → base % 32 = 0 →
    ((tails.find? (·.1 == pkg)).map (·.2)).getD 0 = (s.checkpointTail p pkg).length →
    let t := s.copyFrames p frames tails base pkg
    (∀ ga a, gaPkg ga = pkg → checkpointGa frames base ga = some a → memRead t.mem a = memRead s.mem ga) ∧
    (∀ i b, (s.checkpointTail p pkg)[i]? = some b → memRead t.mem (gaOf pkg base + 64 + 0x10000 * (framesOf frames pkg).length + i) = b) ∧
    (∀ a, a < gaOf pkg base ∨ gaOf pkg base + checkpointSize frames tails pkg ≤ a → memRead t.mem a = memRead s.mem a)

/-- CHECKPOINT of a suspended partition that Kiln has planned one for (R266, R268): first the frames of every package are copied; then the headers are
written, which makes the checkpoint stand in place of an older one, and the rounds resume. -/
def Sys2Proof.Claims.CheckpointsCommit : Prop :=
  ∀ (s : State) (n : Nat) (p : Partition) (k : CheckpointPlan), s.part? n = some p → p.ckpt = some k → s.canCheckpoint p = true →
    (k.copied = false →
      let tails := p.lay.pkgs.map (fun q => (q, (s.checkpointTail p q).length))
      (∀ q ∈ p.lay.pkgs, s.checkpointFits p k.frames tails k.base q = true) →
      ∃ t, exec .checkpoint (onEvent s (.num n)) = .next t ∧ t.mem = (p.lay.pkgs.foldl (fun s q => s.copyFrames p k.frames tails k.base q) s).mem ∧
        t.part? n = some { p with ckpt := some { k with tails := tails, copied := true } } ∧ t.checkpoints = s.checkpoints ∧ t.raisings = s.raisings) ∧
    (k.copied = true →
      ∃ t, exec .checkpoint (onEvent s (.num n)) = .next t ∧ t.checkpoints = s.checkpoints.filter (·.part != n) ++ [s.checkpointOf p k] ∧
        t.part? n = some { p.resumed s.now with ckpt := none } ∧ t.raisings = s.raisings ∧
        (memWf s.mem = true → k.base % 32 = 0 →
          ∀ a, (∀ q ∈ p.lay.pkgs, a < gaOf q k.base ∨ gaOf q k.base + 64 ≤ a) → memRead t.mem a = memRead s.mem a))

/-- Checkpoints and teardown (R108, R206, R214, R226, R241, R266, R268): a suspended partition is copied and its checkpoint commits; a teardown
discards a virtual device with its queues between rounds, or a partition with its tables and keys once its posted counters are zero; memory is as
before a teardown. The model's choices it rests on: log 54, log 55, log 98. -/
def Obligations.CheckpointAndTeardownComplete : Prop :=
  Claims.FramesStandInTheCheckpoint ∧
  Claims.CheckpointsCommit ∧
  ∀ s : State,
    (∀ v, (s.part? v.part).elim true s.betweenRounds = true →
      ∃ t, exec .virtualDeviceTeardown (onEvent s (.vdev v)) = .next t ∧ t.vdev? v = none ∧ (∀ q, t.queue? v q = none) ∧ t.mem = s.mem) ∧
    (∀ v, (s.part? v.part).elim true s.betweenRounds = false → exec .virtualDeviceTeardown (onEvent s (.vdev v)) = .next (onEvent s (.vdev v))) ∧
    (∀ n p, s.part? n = some p → (∀ d ∈ s.vdevs, d.vdr.part = n → d.posted = 0) →
      ∃ t, exec .partitionTeardown (onEvent s (.num n)) = .next t ∧ t.part? n = none ∧ (∀ r ∈ t.reqs, r.vdr.part ≠ n) ∧
        (∀ d ∈ t.vdevs, d.vdr.part ≠ n) ∧ (∀ q ∈ t.platforms, ∀ k ∈ q.keys, k.2.1 ≠ n) ∧ t.mem = s.mem)

/-! ## Platform, host and ingress -/

/-- Resets and recovery (R21, R262 to R264, R266, R268, R270): a cold reset keeps memory and leaves the package ready or in recovery; a reset of the
compute dies keeps platform, keys and memory but for what it fences; the recovery door boots an acceptable image from flash and else sets RECFAIL; a
reset of the fabric loses only what is in transit, one of the hub erases the keys, and a power loss clears the package's memories, the Sinter store's
when its rail fails. The model's choices it rests on: log 61, log 62. -/
def Obligations.ResetEventsComplete : Prop :=
  ∀ (s : State) (p : Pkg) (bist : BistReport) (flashOk : Bool),
    (p.px < 64 → p.py < 64 → ∃ t q, exec (.coldReset p bist flashOk) s = .next t ∧ t.plat? p = some q ∧ t.mem = s.mem ∧
      ((flashOk = true ∧ q.ready = true ∧ q.recovery = false ∧ q.kiln = true ∧ q.applied = q.bank q.activeB) ∨
        (q.ready = false ∧ q.recovery = true ∧ q.kiln = false))) ∧
    (∀ q, s.plat? p = some q →
      (q.held = false → q.power = true → exec (.computeDieReset p bist) s = .next (((s.loseRaisings p).dropTransit p).fence p bist)) ∧
      (∀ image, q.recovery = true → image = s.readBytes (gaOf p (q.recstack * 0xC00000000)) q.reclen → q.reclen ≤ 0x10000000 → q.recstack < 8 →
        (firmwareOk q.fusedMin image = true →
          exec (.recdoor p bist flashOk) s = .next ((s.updPlat p (fun q => { q with flash := image })).tryBoot p bist flashOk)) ∧
        (firmwareOk q.fusedMin image = false → exec (.recdoor p bist flashOk) s = .next (s.updPlat p (fun q => { q with recfail := true })))) ∧
      (exec .fabricReset (onEvent s (.pkg p)) = .next ((onEvent s (.pkg p)).dropTransit p)) ∧
      (∃ t, exec .hubReset (onEvent s (.pkg p)) = .next t ∧ t.plat? p = some { q with keys := [] } ∧ t.mem = s.mem ∧ t.checkpoints = s.checkpoints) ∧
      (∀ rail, ∃ t q', exec (.powerLoss p rail) s = .next t ∧ t.plat? p = some q' ∧ q'.power = false ∧ q'.ready = false ∧ q'.keys = [] ∧
        t.mem = s.mem.filter (fun c => !(gaPkg c.1 == p && (rail || regionOf (gaPhys c.1) != .sinter))) ∧
        (rail = false → t.checkpoints = s.checkpoints)))

/-- Firmware, layouts and heat (R222, R263, R266, R267, R270): an update goes to flash for the next reset; a confirmed image raises the fused
minimum; a layout that alters a standing partition is refused as busy, and another is committed in two phases, which a watchdog reset of the
management processor completes or discards; 105 °C stops admission, 115 °C powers the dies off, and cooling starts admission again. The model's
choices it rests on: log 62, log 64, log 65. -/
def Obligations.PlatformEventsComplete : Prop :=
  ∀ (s : State) (p : Pkg) (q : Platform), s.plat? p = some q →
    let e := onEvent s (.pkg p)
    (∀ image, q.ready = true → ∃ t, exec (.firmwareUpdate p image) s = .next t ∧ t.plat? p = some { q with flash := image } ∧ t.mem = s.mem) ∧
    (q.kiln = true → ∃ t, exec .bootConfirm e = .next t ∧
      t.plat? p = some { q with fusedMin := Nat.max q.fusedMin (Config.securityVersion q.running) }) ∧
    (∀ lay, q.ready = true → q.intent.valid = false → lay.ok p = true →
      (s.layoutAlters p lay = true → exec (.layoutCommit p lay none) s = .next (s.updPlat p (fun q => { q with layoutBusy := true }))) ∧
      (s.layoutAlters p lay = false → exec (.layoutCommit p lay none) s =
        .next ((s.updPlat p (fun q => { q.phaseOne lay true with layoutBusy := false })).phaseTwo p)) ∧
      (s.layoutAlters p lay = false → exec (.layoutCommit p lay (some 0)) s =
        .next (s.updPlat p (fun q => { q.phaseOne lay false with layoutBusy := false }))) ∧
      (s.layoutAlters p lay = false → exec (.layoutCommit p lay (some 1)) s =
        .next (s.updPlat p (fun q => { q.phaseOne lay true with layoutBusy := false }))) ∧
      (s.layoutAlters p lay = false → exec (.layoutCommit p lay (some 2)) s =
        .next ((s.updPlat p (fun q => { q.phaseOne lay true with layoutBusy := false })).updPlat p (fun q => { q with activeB := q.intent.bankB })))) ∧
    (q.intent.valid = true → Config.sm3 (q.bank q.intent.bankB).bytes = q.intent.digest → exec .mpWatchdogReset e = .next (e.phaseTwo p)) ∧
    (q.intent.valid = false ∨ Config.sm3 (q.bank q.intent.bankB).bytes ≠ q.intent.digest → exec .mpWatchdogReset e = .next (e.updPlat p (fun q => { q with intent := { q.intent with valid := false } }))) ∧
    (∀ es, exec (.thermal95c p es) s = .next ((s.setEnvelopes p es Nat.min).updPlat p (fun q =>
      { q with thermal := if q.thermal == .cool then .warm else q.thermal }))) ∧
    (∃ t q', exec .thermal105c e = .next t ∧ t.plat? p = some q' ∧ q'.admitStop = true ∧ t.mem = s.mem ∧ t.raisings = s.raisings) ∧
    (∃ t q', exec .thermal115c e = .next t ∧ t.plat? p = some q' ∧ q'.power = false ∧ q'.admitStop = true ∧ t.mem = s.mem ∧
      ∀ r ∈ t.raisings, r.bents.any (·.pkg == p) = false) ∧
    (∀ es, q.thermal = .hot → ∃ t, exec (.temperatureFall p es) s = .next t ∧ t.plat? p = some { q with thermal := .warm, admitStop := false })

/-- What the host reads and writes (R259, R186): a byte of its range that the map has is read as it stands there, one that is reserved reads as ones; a
write stores the bytes at the map's addresses alone; and an access that names a reserved byte counts in HOSTBAD. -/
def Sys2Proof.Claims.HostBytes : Prop :=
  ∀ (s : State) (p : Pkg) (q : Platform) (ga : Nat) (bad : Bool), s.plat? p = some q →
    (∃ t, s.hostDo p [none] none bad = t ∧ (t.plat? p).map (·.hostRead) = some [0xFF] ∧ t.mem = s.mem) ∧
    (s.hostDo p [none] none true = (s.updPlat p (fun q => { q with hostRead := [0xFF] })).count .hostbad p 0) ∧
    (∀ b, s.hostDo p [none] (some [b]) true = s.count .hostbad p 0) ∧
    (s.migOf ga = none → s.eccIn ga 1 = false →
      ((s.hostDo p [some ga] none bad).plat? p).map (·.hostRead) = some (s.readBytes ga 1)) ∧
    (s.migOf ga = none → ∀ b, s.hostDo p [some ga] (some [b]) bad = s.writeBytes ga [b]) ∧
    (∀ b, (s.hostDo p [none] (some [b]) bad).mem = s.mem)

/-- The host (R182, R258, R259, R264, R265, R269): a BAR4 or CXL.mem access reads or writes the bytes of its range, a reserved part of it reading as
ones and counted, once no line of it waits for a migration and no access of the package waits before it; a BAR0 register reads; APBASE and RECLEN
take the values their rules allow; a vector is enabled or disabled; CXL is enabled; an attestation request is answered; and a RAS counter is cleared,
an increment in the same cycle surviving. The model's choices it rests on: log 66, log 97, log 114. -/
def Obligations.HostEventsComplete : Prop :=
  Claims.HostBytes ∧
  ∀ (s : State) (p : Pkg) (q : Platform), s.plat? p = some q →
    (∀ off n, off + n ≤ 2 ^ 36 →
      let as := if q.recovery then recoveryAddrs p q.recstack off n else s.hostAddrs p false (q.apbase + off) n
      let held := s.hostWaits.any (·.1 == p) || s.hostBlocked as
      (held = false → exec (.hostMemoryAccess p (.barRead off n)) s = .next (s.hostDo p as none (!q.recovery)) ∧
        ∀ bs, bs.length = n → exec (.hostMemoryAccess p (.barWrite off bs)) s = .next (s.hostDo p as (some bs) (!q.recovery))) ∧
      (held = true → exec (.hostMemoryAccess p (.barRead off n)) s = .next { s with hostWaits := s.hostWaits ++ [(p, .barRead off n)] } ∧
        ∀ bs, bs.length = n → exec (.hostMemoryAccess p (.barWrite off bs)) s =
          .next { s with hostWaits := s.hostWaits ++ [(p, .barWrite off bs)] })) ∧
    (exec (.hostMemoryAccess p .resume) s = .next (s.hostResume q (s.hostWaits.filter (·.1 == p)))) ∧
    (∀ pa n, q.cxl = true → q.recovery = false → s.hostWaits.any (·.1 == p) = false → s.hostBlocked (s.hostAddrs p true pa n) = false →
      exec (.hostMemoryAccess p (.memRead pa n)) s = .next (s.hostDo p (s.hostAddrs p true pa n) none true) ∧
      ∀ bs, bs.length = n → exec (.hostMemoryAccess p (.memWrite pa bs)) s = .next (s.hostDo p (s.hostAddrs p true pa n) (some bs) true)) ∧
    (∀ r, ∃ t, exec (.hostMemoryAccess p (.regRead r)) s = .next t ∧ t.plat? p = some { q with hostRead := bytesOf 8 (s.hostReg q r) }) ∧
    (∀ v, (v % 2 ^ 36 = 0 → v < 0x8000000000000 → q.recovery = false → ∃ t, exec (.hostMemoryAccess p (.setApbase v)) s = .next t ∧
        t.plat? p = some { q with apbase := v }) ∧
      (v % 2 ^ 36 ≠ 0 ∨ 0x8000000000000 ≤ v ∨ q.recovery = true → exec (.hostMemoryAccess p (.setApbase v)) s = .next s)) ∧
    (∀ v, q.recovery = true → ∃ t, exec (.hostMemoryAccess p (.setReclen v)) s = .next t ∧
      t.plat? p = some { q with reclen := v, recfail := q.recfail || decide (0x10000000 < v) }) ∧
    (∀ vec, vec < 2048 → (∃ t q', exec (.msixVectorEnable p vec true) s = .next t ∧ t.plat? p = some q' ∧ vec ∈ q'.msix) ∧
      ∃ t q', exec (.msixVectorEnable p vec false) s = .next t ∧ t.plat? p = some q' ∧ vec ∉ q'.msix) ∧
    (∃ t, exec .cxlEnable (onEvent s (.pkg p)) = .next t ∧ t.plat? p = some { q with cxl := true }) ∧
    (∀ r code bs session, q.respond r.ask = some (code, bs, session) →
      (r.secured = false → ∃ t, exec (.spdmRequest p r) s = .next t ∧ t.plat? p = some { q with spdm := q.spdm ++ [(code, bs)], session := session }) ∧
      (∀ k, r.secured = true → q.session = some k → ∃ t, exec (.spdmRequest p r) s = .next t ∧
        t.plat? p = some { q with spdm := q.spdm ++ [(code, Config.sm4Gcm k bs)], session := session })) ∧
    (∀ name idx, let t := { s with ras := s.ras.filter (fun c => !(c.name == name && c.pkg == p && c.idx == idx)) }
      exec (.rasCounterClear p name idx false) s = .next t ∧ exec (.rasCounterClear p name idx true) s = .next (t.count name p idx))

/-- Ingress windows (R260, R261): the host writes a record into a slot that INGHEAD has passed, and one into a slot that still holds a record is
dropped and counted; the hub consumes an OPEN and binds the window, keeps a TOKEN while the binding holds, and sends a waiting token into the fabric
once its raising is placed. The model's choices it rests on: log 8, log 67, log 110. -/
def Obligations.IngressEventsComplete : Prop :=
  ∀ (s : State) (v : VdRef) (d : Vdev), s.vdev? v = some d →
    let e := onEvent s (.vdev v)
    (∀ slot r q, s.plat? d.home = some q → q.bar2 = true → slot < 1024 → v.part < 16 → v.vd < 64 →
      let off := (64 * v.part + v.vd) * 0x10000 + 64 * slot
      (d.ingress.slots.any (·.1 == slot) = false → exec (.ingressRecordWrite d.home off r) s = .next (s.updVdev v (fun d =>
        { d with ingress := { d.ingress with slots := d.ingress.slots ++ [(slot, r)] } }))) ∧
      (d.ingress.slots.any (·.1 == slot) = true → exec (.ingressRecordWrite d.home off r) s = .next (s.ingDrop d))) ∧
    (∀ n r, d.ingress.slots.find? (·.1 == d.ingress.head) = some (n, r) →
      (recF r 0 2 = 1 → d.ingress.waiting = [] →
        let id := BitVec.ofNat 64 (recF r 32 8)
        let qsel := if 128 ≤ recF r 48 1 then some (recF r 48 1 % 64) else none
        let b : Binding := { image := id, qsel := qsel, rid := e.boundNow d.vdr id qsel, ended := false, rejected := false, since := s.now }
        exec .ingressOpen e = .next (((e.consume d.vdr).updVdev d.vdr (fun d =>
          { d with ingress := { d.ingress with binding := some b } })).askImage d.vdr id (recF r 40 8) none none true)) ∧
      (∀ b, recF r 0 2 = 2 → d.ingress.binding = some b → b.ended = false → b.rejected = false → recF r 10 1 % 4 ≠ 3 → exec .ingressToken e =
        .next ((e.consume d.vdr).updVdev d.vdr (fun d => { d with ingress := { d.ingress with waiting := d.ingress.waiting ++ [r] } }))) ∧
      (recF r 0 2 ≠ 1 → recF r 0 2 ≠ 2 ∨ recF r 10 1 % 4 = 3 → exec .ingressToken e = .next ((e.consume d.vdr).ingDrop d))) ∧
    (∀ r rest b rid x n pl p, d.ingress.waiting = r :: rest → d.ingress.binding = some b → b.ended = false → b.rejected = false → b.rid = some rid →
      s.raising? rid = some x → x.bents[recF r 8 1]? = some n → x.blocks[recF r 2 2]? = some pl → pl.slots[recF r 9 1]? = some p →
      pl.bent = recF r 8 1 →
      ∃ t u m, exec .ingressTokenInject e = .next (State.inject t (.hub d.home 3 (if m.dst.pkg = d.home then m.dst.die else 0)) m) ∧ m.kind = .token ∧
        m.dst = n.cell (s.slotCell n p).1 (s.slotCell n p).2 ∧
        m.unit = .slot rid u ∧ u.blk = recF r 2 2 ∧ m.body = .tok rid u (recToken r) ∧ t.mem = s.mem)

/-! ## The fabric -/

/-- A message on its way (R193 to R196, R198, R204, R208): a router output sends the first message that can go; an ordered message goes to its home
when it is next in its window and nothing of its space is being performed; a SACK acknowledges every SEQ before the store still to be performed, or
before the next one due, and releases every copy it covers; a token outside the range of the partition that owns its destination is dropped at the
die ingress (R224); an error at a link's check counts a retry, and a link that goes down does so in both directions. The model's choices it rests on:
log 7, log 8, log 19, log 68, log 70. -/
def Obligations.FabricEventsComplete : Prop :=
  ∀ s : State,
    (∀ n out t, (vcOrder s.now).findSome? (fun v => ((s.fqueues.filter (fun q => q.node == n && q.out == out)).filter (·.vc == v)).findSome?
      (fun q => s.moveHead q)) = some t → exec (.flitHop n out) s = .next t) ∧
    (∀ n out q m rest, s.fqueues.filter (fun q => q.node == n && q.out == out) = [q] → q.vc < 8 → q.msgs = m :: rest → out ≠ n →
      let s1 := { s with fqueues := (updIf s.fqueues (· == q) (fun q => { q with msgs := rest })).filter (fun q => !q.msgs.isEmpty) }
      let m1 := { m with sub := s1.subAfter n out m.sub }
      (s.hopDown n out = true → exec (.flitHop n out) s = .next (s1.bounce n m)) ∧
      (∀ c, s.hopDown n out = false → s1.ingressDrops n out m1 = some c →
        exec (.flitHop n out) s = .next (s1.ingressRange c.pkg c.die m1.part m1.tag)) ∧
      (s.hopDown n out = false → s1.ingressDrops n out m1 = none → m.isTree = false →
        (s1.nextNode out m.dst m.hubUnit = none → s1.atGoal out m.dst m.hubUnit = false → exec (.flitHop n out) s = .next (s1.bounce out m1)) ∧
        (∀ nx, s1.nextNode out m.dst m.hubUnit = some nx → s1.intoSlot out nx m1 = none → OutputFree s1 out nx m1 →
          ∃ t, s1.toOutput out nx m1 = some t ∧ exec (.flitHop n out) s = .next t) ∧
        (s1.nextNode out m.dst m.hubUnit = none → s1.atGoal out m.dst m.hubUnit = true → m.trim = true → exec (.flitHop n out) s = .next { s1 with inbox := s1.inbox ++ [m1] }) ∧
        (∀ id, s1.nextNode out m.dst m.hubUnit = none → s1.atGoal out m.dst m.hubUnit = true → m.trim = false → m.kind = .rdreq → m.body = .req id → s1.tagLost m1 = false →
          m.space = none → exec (.flitHop n out) s = .next { s1 with inbox := s1.inbox ++ [m1] }))) ∧
    (∀ p die idx w m id r, (s.reorders.filter (fun w => w.space.home.pkg == p && w.space.home.die == die))[idx]? = some w →
      w.held.find? (·.seq == w.next) = some m → s.performing w.space = false → m.body = .req id → s.req? id = some r →
      s.tagInPart p m.part m.tag = true → exec (.orderedMessageDelivery p die idx) s = .next ((s.putWindow
        (({ w with held := w.held.erase m, next := (w.next + 1) % 512 } : Reorder).skip 512)).updReq id (fun r =>
        { r with stage := .home, reply := none }))) ∧
    (∀ i w part sp sd dp dd vc, s.reorders[i]? = some w → w.unsacked ≠ 0 → w.space = .vc part sp sd dp dd vc →
      exec .sackSend (onEvent s (.num i)) = .next (((onEvent s (.num i)).putWindow { w with unsacked := 0 }).sendHeader .sack w.space.home
        (dieCell sp sd) part .egress (some w.space) (s.lastDone w)
        (BitVec.ofNat 32 (part + 16 * vc)) .empty)) ∧
    (∀ p die m sp, s.atIngress p die (fun m => m.kind == .sack && !m.trim) = some m → m.space = some sp → exec (.sackArrival p die) s =
      .next ((s.copies.filter (fun c => c.space == sp && (m.seq + 512 - c.seq) % 512 < 256)).foldl (fun t c => t.sacked c) (s.takeIn m))) ∧
    (∀ n out beat, edgeOut n out = true → exec (.linkCrcRetry n out beat) s = .next (s.count .linkretry n.pkg (retryIdx n))) ∧
    (∀ p e half, ∃ t, exec (.linkDown p e half) s = .next t ∧ ({ pkg := p, edge := e, half := half } : DownLink) ∈ t.down ∧
      ({ pkg := s.neighbour p e, edge := e.opposite, half := half } : DownLink) ∈ t.down ∧ (∀ d ∈ s.down, d ∈ t.down) ∧ t.mem = s.mem)

/-- Requests that are lost or repeated (R201, R202, R205 to R207): a trimmed header is recorded and its message asked for after 64 cycles, doubled
each time, and the ninth ends it; the source sends its copy again; a home accepts a request once, drops the repeat of one it still performs, answers
the repeat of one it has done, and refuses a stale one; an ERROR freezes the instruction whose request it ends. -/
def Obligations.RetransmissionEventsComplete : Prop :=
  ∀ (s : State) (p : Pkg) (die : Nat),
    (∀ m, s.atIngress p die (·.trim) = some m → s.settledMsg m = false →
      let old := s.trims.find? (fun e => e.pkg == p && e.die == die && e.space == m.space && e.seq == m.seq && e.msg.body == m.body)
      let n := old.elim 0 (·.n) + 1
      (old.isSome = true ∨ (s.trims.filter (fun e => e.pkg == p && e.die == die)).length < 1024) →
      (n < 9 → ∃ t e, exec (.trimmedHeaderArrival p die) s = .next t ∧ e ∈ t.trims ∧ e.space = m.space ∧ e.seq = m.seq ∧ e.n = n ∧
        e.due = some (s.now + 64 * 2 ^ (n - 1)) ∧ t.mem = s.mem) ∧
      (9 ≤ n → ∃ t : State, t.mem = s.mem ∧ exec (.trimmedHeaderArrival p die) s = .next (t.exhaust p die { m with trim := false, vc := m.kind.vc }))) ∧
    (∀ idx e d, (s.trims.filter (fun e => e.pkg == p && e.die == die))[idx]? = some e → e.due = some d → d ≤ s.now →
      ∃ unit, exec (.rereqTimer p die idx) s = .next ((({ s with trims := updIf s.trims (· == e) (fun e => { e with due := none }) } : State).count
        .rereq p (portVc die e.msg.vc)).sendHeader .rereq (dieCell p die) e.msg.src e.msg.part unit e.space e.seq e.msg.tag e.msg.body)) ∧
    (∀ m id sp c, s.atIngress p die (fun m => m.kind == .rereq && !m.trim) = some m → m.body = .req id → m.space = some sp →
      s.copies.find? (fun c => c.space == sp && c.seq == m.seq) = some c →
      exec (.rereqArrival p die) s = .next (((s.takeIn m).count .resent p (portVc die c.msg.vc)).resend c.msg)) ∧
    (∀ m id sp r, s.atIngress p die (fun m => m.kind.vc == 1 && !m.trim) = some m → m.body = .req id → m.space = some sp → s.req? id = some r →
      s.tagInPart p m.part m.tag = true →
      let home := fun (t : State) => t.updReq id (fun r => { r with stage := .home, reply := none })
      (s.dedups.find? (·.holds sp) = none → (s.dedups.filter (·.pkg == p)).length < 4096 →
        let d : Dedup := { pkg := p, die := die, part := m.part, spkg := m.src.pkg, sdie := m.src.die, hi := 0, entries := [] }
        exec (.requestDedup p die) s = .next (home ((s.takeIn m).putDedup (d.accept m.seq m.seq id)))) ∧
      (∀ d, s.dedups.find? (·.holds sp) = some d →
        (384 ≤ (d.hi + 512 - m.seq) % 512 → exec (.requestDedup p die) s = .next (home ((s.takeIn m).putDedup (d.accept m.seq m.seq id)))) ∧
        ((d.hi + 512 - m.seq) % 512 ≤ 255 → d.entries.find? (·.seq == m.seq) = none →
          exec (.requestDedup p die) s = .next (home ((s.takeIn m).putDedup (d.accept d.hi m.seq id)))) ∧
        ((d.hi + 512 - m.seq) % 512 ≤ 255 → ∀ x, d.entries.find? (·.seq == m.seq) = some x →
          (x.reply = none → exec (.requestDedup p die) s = .next ((s.takeIn m).count .dupdrop p (portVc die 1))) ∧
          (∀ a, x.reply = some a → exec (.requestDedup p die) s = .next (((((s.takeIn m).count .cached p (portVc die 1)).count .resent p (portVc die 2)).updReq id (fun r =>
            { r with stage := .toIssuer })).sendReply { r with seq := m.seq } sp a))) ∧
        (255 < (d.hi + 512 - m.seq) % 512 → (d.hi + 512 - m.seq) % 512 < 384 → exec (.requestDedup p die) s =
          .next (((s.takeIn m).count .stale p (portVc die 1)).sendError (dieCell p die) m.src m.part (.cont id) (some sp) m.seq m.tag (some id)
            Cause.staleReplay.code 0 r.va)))) ∧
    (∀ n m id req rank code cause addr r part sp sd dp dd vc, s.inbox.find? (fun m => m.mid == n && m.kind == .error) = some m →
      m.body = .err req rank code cause addr → m.unit = .cont id → m.space = some (.vc part sp sd dp dd vc) → s.req? id = some r → r.kind ≠ .rstp →
      r.stage ≠ .frozen → r.stage ≠ .reply → r.lingers = false →
      exec .errorArrival (onEvent s (.num n)) = .next ((((onEvent s (.num n)).takeIn m).release (.vc part sp sd dp dd vc) m.seq).reqError r
        { cause := errorCause code, addr := addr, aux := cause }))

/-! ## What the other instructions leave alone -/

namespace Sys2Proof.Claims

/-- The accesses of an AG whose firings store nothing: what they do in memory is a later step at the home (R60, R65, R95, R395). -/
def accessOps : List (SlotOps → Instr) :=
  [.ld, .xld, .ldi, .sti, .stiClr, .atomAdd, .atomOr, .atomSwap, .atomCas, .xlate, .publ, .gath, .rld, .rst, .rsto, .rstp, .ratmAdd, .ratmOr,
   .ratmSwap, .ratmCas, .wqini, .wqnx, .mfs, .enrg, .trap]

/-- The correctly rounded functions, whose results may wait in the Jointer (R144, R145). -/
def roundedOps : List (SlotOps → Instr) := fnOps.map (·.1) ++ [.pow, .fexpl]

/-- The configurations of tile nodes (R154, R160, R432). -/
def configOps : List (SlotOps → Instr) := [.mma, .scout, .tcvtRing, .tcvtMem, .tred, .tfn, .ttrn]

/-- The instructions whose firings reach no memory: those of token control, streams, copies, groups and status, the accesses, the functions and the
tile configurations. -/
def controlOps : List (SlotOps → Instr) :=
  [.steer, .merge, .gate, .null, .tagiCtx, .tagiNxt, .tagx, .tagxFin, .kbndAdmit, .kbndRetire, .join, .drop, .ctr, .exit, .reord, .read, .write,
   .cmb, .pwin, .srd, .csrd, .scat, .fence, .scrb, .ring, .cpy, .cpys, .mcred, .mcst, .stad, .stsnk, .brk, .mts, .yield, .halt, .clflg,
   .rdtim, .barw, .st, .mmam] ++ accessOps ++ roundedOps ++ configOps

/-- What an element keeps through an access, a function or a tile configuration: all but its incoming links, its rows, FLAGS and WARN, of which no bit
is cleared. -/
def KeepsElem (e e' : Elem) : Prop :=
  e' = { e with link := e'.link, rows := e'.rows, flags := e'.flags, warn := e'.warn } ∧ e'.flags &&& e.flags = e.flags ∧ e'.warn &&& e.warn = e.warn

/-- The leaves that SHDW walks for a range of pages, in order, to the first that stops it (R416). -/
def walkedLeaves (p : Pkg) (v : VdRef) (base : Nat) : Nat → Nat → State → List Nat
  | 0, _, _ => []
  | n + 1, i, s =>
    match s.walk p v (base + i * 2 ^ 16) needBoth with
    | (.bad _, _) => []
    | (.ok w, t) => w.ptea :: if !pteShd w.leaf || pteIst w.leaf || 2 ≤ pteHome w.leaf then [] else walkedLeaves p v base n (i + 1) t

end Sys2Proof.Claims

/-- What an instruction that reaches no memory leaves alone when it fires: every byte of memory outside the fault rings, as any access reads it, its
presence, and every queue and semaphore; what it has to do in memory is a later step of the engine that it started. -/
def Sys2Proof.Claims.FiringsReachNoMemory : Prop :=
  ∀ mk ∈ controlOps, ∀ (o : SlotOps) (s t : State), exec (mk o) s = .next t →
    KeepsMemory s t ∧ t.presence = s.presence ∧ t.queues = s.queues ∧ t.sems = s.sems ∧
    (memWf s.mem = true →
      ∀ a n k, (∀ i, a / 32 * 32 ≤ i → i < (a + n + 31) / 32 * 32 → ¬ InFaultRing s i) → t.readKey a n k = s.readKey a n k)

/-- The registers that an access other than ST, a function or a tile configuration leaves alone: RMODE, NONDET, the windows, counters and every other
part of every element; the pool of contexts and the contexts of every bent, its RMODE and grant, and the g registers of its timelines. -/
def Sys2Proof.Claims.FiringsKeepRegisters : Prop :=
  ∀ mk ∈ accessOps ++ roundedOps ++ configOps, ∀ (o : SlotOps) (s t : State), exec (mk o) s = .next t →
    ∀ br b, s.bent? br = some b → ∃ b', t.bent? br = some b' ∧ b'.pool = b.pool ∧ b'.ctxs = b.ctxs ∧ b'.engRmode = b.engRmode ∧ b'.grant = b.grant ∧
      b'.timelines.map (·.g) = b.timelines.map (·.g) ∧
      ∀ (n : Nat) (e : Elem), b.elems[n]? = some e → ∃ e', b'.elems[n]? = some e' ∧ KeepsElem e e'

/-- The requests that a firing leaves alone: every one but its own, where no error ended an earlier request of the same firing (R185); a function and a
tile configuration make none. -/
def Sys2Proof.Claims.FiringsKeepRequests : Prop :=
  (∀ mk ∈ .st :: accessOps, ∀ (o : SlotOps) (s t : State) (c : Ctx), s.firing? = some c → exec (mk o) s = .next t →
    (∀ q ∈ s.reqs, q.stage = .frozen → ¬ (q.br = c.br ∧ q.blk = c.blk ∧ q.slot = c.slot ∧ q.tag = c.tag)) →
    (∀ q ∈ s.reqs, q.id ≠ s.nextId → q ∈ t.reqs) ∧ (∀ q ∈ t.reqs, q.id ≠ s.nextId → q ∈ s.reqs)) ∧
  (∀ mk ∈ roundedOps ++ configOps, ∀ (o : SlotOps) (s t : State), exec (mk o) s = .next t → t.reqs = s.reqs)

/-- RROT writes its range in the scratchpads of its cluster and no other byte, under whatever key it is read, and leaves requests, queues and
semaphores alone (R70, R409). -/
def Sys2Proof.Claims.RrotKeepsTheRest : Prop :=
  ∀ (o : SlotOps) (s t : State) (c : Ctx) (b : Bent), memWf s.mem = true → s.firing? = some c → s.bent? c.br = some b → exec (.rrot o) s = .next t →
    let pad := fun i => spadGa (b.clusterCell (clusterOf c.u).1 (clusterOf c.u).2 (rotCycle.getD (i % 16) 0)) (32 * o.xf 0 9)
    let unit := fun a => ∀ i, a / 32 * 32 ≤ i → i < a / 32 * 32 + 32 → ¬ InFaultRing s i
    t.reqs = s.reqs ∧ t.queues = s.queues ∧ t.sems = s.sems ∧ t.presence = s.presence ∧
    (∀ a k, unit a → (∀ i, ¬ (pad i ≤ a ∧ a < pad i + 32 * (o.xf 9 9 + 1))) → t.readKey a 1 k = s.readKey a 1 k)

/-- SHDW writes the leaves that it walks, in which it sets A, and no other byte of memory; SHDW.rel writes the leaves whose frames it exchanges, at an
odd generation. Both leave requests, semaphores and presence alone (R172, R416). -/
def Sys2Proof.Claims.ShadowsKeepTheRest : Prop :=
  ∀ (o : SlotOps) (s t : State) (c : Ctx), memWf s.mem = true → s.firing? = some c →
    let v := s.vdOf c.br.rid
    let p := ((s.bent? c.br).map (·.pkg)).getD { px := 0, py := 0 }
    let at_ := fun n => laneAt c.atok.pay 64 n
    let keeps := fun (l : List Nat) => t.reqs = s.reqs ∧ t.sems = s.sems ∧ t.presence = s.presence ∧
      (∀ a, ¬ InFaultRing s a → (∀ x ∈ l, ¬ (gaOf p x ≤ a ∧ a < gaOf p x + 8)) → t.readKey a 1 0 = s.readKey a 1 0)
    (exec (.shdw o) s = .next t →
      keeps (walkedLeaves p v (at_ 0 % 2 ^ 55) (at_ 1 / 2 ^ 16) 0 s ++
        match s.walkPages p v (at_ 0 % 2 ^ 55) (at_ 1 / 2 ^ 16) 0 with
        | .ok u => walkedLeaves p v (at_ 2 % 2 ^ 55) (at_ 1 / 2 ^ 16) 0 u
        | .error _ => [])) ∧
    (exec (.shdwRel o) s = .next t →
      keeps (match (s.vdev? v).bind (fun d => d.shadows.find? (·.vbase == at_ 0 % 2 ^ 55)) with
        | some b => if b.g % 2 = 1 then s.leavesOf p v b.vbase (b.len / 2 ^ 16) ++ s.leavesOf p v b.sbase (b.len / 2 ^ 16) else []
        | none => []))

/-- What the instructions leave alone when they fire: memory, queues and semaphores where they reach none, with the accesses, functions and tile
configurations among them; of these the registers and the requests of others too; RROT, SHDW and SHDW.rel write the bytes that their entries name and
no others. The model's choices it rests on: log 9, log 35, log 112. -/
def Obligations.ControlInstructionsFrame : Prop :=
  Claims.FiringsReachNoMemory ∧
  Claims.FiringsKeepRegisters ∧
  Claims.FiringsKeepRequests ∧
  Claims.RrotKeepsTheRest ∧
  Claims.ShadowsKeepTheRest
end

