-- ==== Sys2Proof/Laws/Mem.lean ====
section
/-! SUPPORT. The laws of memory: every operation keeps the canonical form, a read after a write, and what a write leaves alone. -/

namespace Sys2Proof.Machine

open Sys2Proof

/-! ## The canonical form -/

theorem memWfFrom_mono {lo lo' : Nat} {m : List Host.Cell} (h : lo' ≤ lo) (hm : memWfFrom lo m = true) : memWfFrom lo' m = true := by
  cases m with
  | nil => rfl
  | cons c rest =>
    obtain ⟨k, v⟩ := c
    simp only [memWfFrom, Bool.and_eq_true, decide_eq_true_eq] at hm ⊢
    exact ⟨⟨Nat.le_trans h hm.1.1, hm.1.2⟩, hm.2⟩

theorem memPut_wfFrom {lo : Nat} {m : List Host.Cell} (hm : memWfFrom lo m = true) (a : Nat) (b : Byte) (ha : lo ≤ a) :
    memWfFrom lo (memPut m a b) = true := by
  induction m generalizing lo with
  | nil =>
    simp only [memPut]
    split
    · rfl
    · simp_all [memWfFrom]
  | cons c rest ih =>
    obtain ⟨k, v⟩ := c
    simp only [memWfFrom, Bool.and_eq_true, decide_eq_true_eq] at hm
    simp only [memPut]
    split
    · next h =>
      split
      · simp [memWfFrom, hm]
      · next hb =>
        simp_all [memWfFrom] <;> omega
    · split
      · next h1 h2 =>
        subst h2
        split
        · exact memWfFrom_mono (by omega) hm.2
        · next hb => simp_all [memWfFrom]
      · next h1 h2 =>
        simp only [memWfFrom, Bool.and_eq_true, decide_eq_true_eq]
        exact ⟨hm.1, ih hm.2 (by omega)⟩

/-- Writing a byte keeps the canonical form. -/
theorem memPut_wf {m : List Host.Cell} (hm : memWf m = true) (a : Nat) (b : Byte) : memWf (memPut m a b) = true :=
  memPut_wfFrom hm a b (Nat.zero_le a)

/-- Writing bytes keeps the canonical form. -/
theorem memPutAll_wf {m : List Host.Cell} (hm : memWf m = true) (a : Nat) (bs : List Byte) : memWf (memPutAll m a bs) = true := by
  induction bs generalizing m a with
  | nil => exact hm
  | cons b bs ih => exact ih (memPut_wf hm a b) (a + 1)

/-- The canonical form of any list of cells is canonical. -/
theorem memCanon_wf (m : List Host.Cell) : memWf (memCanon m) = true := by
  induction m with
  | nil => rfl
  | cons c rest ih => exact memPut_wf ih c.1 c.2

theorem memPut_cons {k : Nat} {v : Byte} {rest : List Host.Cell} (h : memWfFrom (k + 1) rest = true) (hv : (v != unlisted) = true) :
    memPut rest k v = (k, v) :: rest := by
  have hv' : v ≠ unlisted := by simpa using hv
  cases rest with
  | nil => simp [memPut, hv']
  | cons c rest =>
    obtain ⟨k', v'⟩ := c
    simp only [memWfFrom, Bool.and_eq_true, decide_eq_true_eq] at h
    simp [memPut, hv', show k < k' by omega]

/-- A canonical list is its own canonical form. -/
theorem memCanon_of_wfFrom {lo : Nat} {m : List Host.Cell} (h : memWfFrom lo m = true) : memCanon m = m := by
  induction m generalizing lo with
  | nil => rfl
  | cons c rest ih =>
    obtain ⟨k, v⟩ := c
    simp only [memWfFrom, Bool.and_eq_true, decide_eq_true_eq] at h
    rw [memCanon, ih h.2, memPut_cons h.2 h.1.2]

theorem memCanon_of_wf {m : List Host.Cell} (h : memWf m = true) : memCanon m = m := memCanon_of_wfFrom h

/-- The memory after reset is canonical. -/
theorem reset_memWf : memWf State.reset.mem = true := rfl

/-! ## Reads after writes -/

theorem memRead_below {lo a : Nat} {m : List Host.Cell} (h : memWfFrom lo m = true) (ha : a < lo) : memRead m a = unlisted := by
  cases m with
  | nil => rfl
  | cons c rest =>
    obtain ⟨k, v⟩ := c
    simp only [memWfFrom, Bool.and_eq_true, decide_eq_true_eq] at h
    simp [memRead, show k ≠ a by omega, show a < k by omega]

theorem memRead_memPut_from {lo : Nat} {m : List Host.Cell} (hm : memWfFrom lo m = true) (a x : Nat) (b : Byte) :
    memRead (memPut m a b) x = if x = a then b else memRead m x := by
  induction m generalizing lo with
  | nil => grind [memPut, memRead]
  | cons c rest ih =>
    obtain ⟨k, v⟩ := c
    simp only [memWfFrom, Bool.and_eq_true, decide_eq_true_eq] at hm
    have below : ∀ y, y < k + 1 → memRead rest y = unlisted := fun y hy => memRead_below hm.2 hy
    have := ih hm.2
    grind [memPut, memRead]

/-- A byte read after a byte written: the byte written at its address, and what was there before everywhere else. -/
theorem memRead_memPut {m : List Host.Cell} (hm : memWf m = true) (a x : Nat) (b : Byte) :
    memRead (memPut m a b) x = if x = a then b else memRead m x := memRead_memPut_from hm a x b

/-- A byte read after bytes written. -/
theorem memRead_memPutAll {m : List Host.Cell} (hm : memWf m = true) (a x : Nat) (bs : List Byte) :
    memRead (memPutAll m a bs) x = if a ≤ x ∧ x < a + bs.length then bs.getD (x - a) 0 else memRead m x := by
  induction bs generalizing m a with
  | nil => simp [memPutAll, show ¬ (a ≤ x ∧ x < a) by omega]
  | cons b bs ih =>
    rw [memPutAll, ih (memPut_wf hm a b), memRead_memPut hm]
    simp only [List.length_cons]
    by_cases h1 : x = a
    · subst h1; simp [show ¬ (x + 1 ≤ x ∧ x < x + 1 + bs.length) by omega]
    · by_cases h2 : a + 1 ≤ x ∧ x < a + 1 + bs.length
      · have : x - a = (x - (a + 1)) + 1 := by omega
        simp [h2, show a ≤ x ∧ x < a + (bs.length + 1) by omega, this]
      · rw [if_neg h2, if_neg h1, if_neg (show ¬ (a ≤ x ∧ x < a + (bs.length + 1)) by omega)]

theorem memGet_length (m : List Host.Cell) (a n : Nat) : (memGet m a n).length = n := by
  induction n generalizing a with
  | zero => rfl
  | succ n ih => simp [memGet, ih]

theorem memGet_getElem? (m : List Host.Cell) (a n i : Nat) (h : i < n) : (memGet m a n)[i]? = some (memRead m (a + i)) := by
  induction n generalizing a i with
  | zero => omega
  | succ n ih =>
    cases i with
    | zero => simp [memGet]
    | succ i => simp only [memGet, List.getElem?_cons_succ]; rw [ih _ _ (by omega)]; congr 2; omega

/-- Reading n bytes where n bytes were written gives those bytes. -/
theorem memGet_memPutAll {m : List Host.Cell} (hm : memWf m = true) (a : Nat) (bs : List Byte) :
    memGet (memPutAll m a bs) a bs.length = bs := by
  apply List.ext_getElem?
  intro i
  by_cases h : i < bs.length
  · rw [memGet_getElem? _ _ _ _ h, memRead_memPutAll hm]
    simp [show a ≤ a + i ∧ a + i < a + bs.length by omega, List.getElem?_eq_getElem h]
  · rw [List.getElem?_eq_none (by rw [memGet_length]; omega), List.getElem?_eq_none (by omega)]

/-- Two memories that agree on a range of bytes are read alike there. -/
theorem memGet_congr {m m' : List Host.Cell} {a n : Nat} (h : ∀ x, a ≤ x → x < a + n → memRead m x = memRead m' x) :
    memGet m a n = memGet m' a n := by
  induction n generalizing a with
  | zero => rfl
  | succ n ih => rw [memGet, memGet, h a (by omega) (by omega), ih (fun x h1 h2 => h x (by omega) (by omega))]

/-! ## Numbers and their bytes -/

theorem bytesOf_length (n v : Nat) : (bytesOf n v).length = n := by
  induction n generalizing v with
  | zero => rfl
  | succ n ih => simp [bytesOf, ih]

theorem natOfBytes_bytesOf (n v : Nat) : natOfBytes (bytesOf n v) = v % 256 ^ n := by
  induction n generalizing v with
  | zero => simp [bytesOf, natOfBytes, Nat.mod_one]
  | succ n ih =>
    have h : (256 : Nat) ^ (n + 1) = 256 * 256 ^ n := by rw [Nat.pow_succ, Nat.mul_comm]
    rw [bytesOf, natOfBytes, ih, BitVec.toNat_ofNat, h, Nat.mod_mul]

theorem bytesOf_natOfBytes (bs : List Byte) : bytesOf bs.length (natOfBytes bs) = bs := by
  induction bs with
  | nil => rfl
  | cons b bs ih =>
    have h1 : (b.toNat + 256 * natOfBytes bs) / 256 = natOfBytes bs := by have := b.isLt; omega
    have h2 : BitVec.ofNat 8 (b.toNat + 256 * natOfBytes bs) = b := by
      apply BitVec.eq_of_toNat_eq; have := b.isLt; simp; omega
    simp only [List.length_cons, bytesOf, natOfBytes, h1, h2, ih]

/-! ## Keys -/

theorem State.unitKey_setUnit (s : State) (u key : Nat) (v : W256) (x : Nat) :
    (s.setUnit u key v).unitKey x = if x = u then key else s.unitKey x := by
  have flt : (s.enc.filter (·.unit != u)).find? (·.unit == u) = none := by
    rw [List.find?_eq_none]; intro e he; simp at he; simp [he.2]
  have oth : ∀ y, y ≠ u → (s.enc.filter (·.unit != u)).find? (·.unit == y) = s.enc.find? (·.unit == y) := by
    intro y hy
    induction s.enc with
    | nil => rfl
    | cons e es ih =>
      by_cases h1 : e.unit = u
      · rw [List.filter_cons_of_neg (by simp [h1]), ih, List.find?_cons_of_neg (by simp [h1, Ne.symm hy])]
      · rw [List.filter_cons_of_pos (by simp [h1])]
        by_cases h2 : e.unit = y
        · rw [List.find?_cons_of_pos (by simp [h2]), List.find?_cons_of_pos (by simp [h2])]
        · rw [List.find?_cons_of_neg (by simp [h2]), List.find?_cons_of_neg (by simp [h2]), ih]
  by_cases hk : key = 0
  · subst hk
    by_cases hx : x = u
    · subst hx; simp [unitKey, setUnit, flt]
    · simp [unitKey, setUnit, hx, oth x hx]
  · by_cases hx : x = u
    · subst hx; simp [unitKey, setUnit, hk]
    · simp [unitKey, setUnit, hk, hx, oth x hx, List.find?_cons_of_neg, Ne.symm hx]

theorem State.unitPlain_congr {s t : State} {u : Nat} (h : ∀ i, i < 32 → memRead s.mem (u * 32 + i) = memRead t.mem (u * 32 + i)) :
    s.unitPlain u = t.unitPlain u := by
  unfold unitPlain
  rw [memGet_congr (m' := t.mem) (fun x h1 h2 => by have := h (x - u * 32) (by omega); rwa [show u * 32 + (x - u * 32) = x by omega] at this)]

theorem State.unitPlain_setUnit {s : State} (hm : memWf s.mem = true) (u key : Nat) (v : W256) (x : Nat) :
    (s.setUnit u key v).unitPlain x = if x = u then v else s.unitPlain x := by
  by_cases hx : x = u
  · subst hx
    have := memGet_memPutAll hm (x * 32) (bytesOf 32 v.toNat)
    rw [bytesOf_length] at this
    simp only [unitPlain, setUnit, this, natOfBytes_bytesOf, if_true]
    apply BitVec.eq_of_toNat_eq; simp; omega
  · simp only [hx, if_false]
    apply unitPlain_congr
    intro i hi
    simp only [setUnit]
    rw [memRead_memPutAll hm, bytesOf_length, if_neg (by omega)]

theorem State.setUnit_wf {s : State} (hm : memWf s.mem = true) (u key : Nat) (v : W256) : memWf (s.setUnit u key v).mem = true := by
  have h := memPutAll_wf hm (u * 32) (bytesOf 32 v.toNat)
  simpa only [setUnit] using h

/-- Bringing a unit under a key leaves what an access under that key reads of any unit. -/
theorem State.unitUnder_setUnit {s : State} (hm : memWf s.mem = true) (u key x : Nat) :
    (s.setUnit u key (s.unitUnder u key)).unitUnder x key = s.unitUnder x key := by
  by_cases hx : x = u
  · subst hx; rw [unitUnder, unitKey_setUnit, unitPlain_setUnit hm]; simp
  · simp only [unitUnder, unitRaw, unitKey_setUnit, unitPlain_setUnit hm, hx, if_false]

theorem State.rekeyOne_spec {s : State} (hm : memWf s.mem = true) (l : List Nat) (key : Nat) :
    let t := l.foldl (fun s u => if s.unitKey u = key then s else s.setUnit u key (s.unitUnder u key)) s
    memWf t.mem = true ∧ (∀ x, t.unitUnder x key = s.unitUnder x key) ∧ (∀ x, x ∈ l ∨ s.unitKey x = key → t.unitKey x = key) ∧
      (∀ x, x ∉ l → t.unitKey x = s.unitKey x ∧ t.unitPlain x = s.unitPlain x) := by
  induction l generalizing s with
  | nil => simp [hm]
  | cons u us ih =>
    simp only [List.foldl_cons]
    by_cases h : s.unitKey u = key
    · rw [if_pos h]
      obtain ⟨h1, h2, h3, h4⟩ := ih hm
      refine ⟨h1, h2, ?_, fun x hx => h4 x (fun h' => hx (List.mem_cons_of_mem _ h'))⟩
      rintro x (hx | hx)
      · rcases List.mem_cons.1 hx with rfl | hx
        · exact h3 _ (.inr h)
        · exact h3 _ (.inl hx)
      · exact h3 _ (.inr hx)
    · rw [if_neg h]
      obtain ⟨h1, h2, h3, h4⟩ := ih (s := s.setUnit u key (s.unitUnder u key)) (setUnit_wf hm _ _ _)
      refine ⟨h1, fun x => (h2 x).trans (unitUnder_setUnit hm u key x), ?_, ?_⟩
      · rintro x hx
        apply h3
        rw [unitKey_setUnit]
        rcases hx with hx | hx
        · rcases List.mem_cons.1 hx with rfl | hx
          · simp
          · exact .inl hx
        · right; split <;> simp [hx]
      · intro x hx
        have hx' : x ≠ u ∧ x ∉ us := by simpa using hx
        obtain ⟨a, b⟩ := h4 x hx'.2
        rw [a, b, unitKey_setUnit, unitPlain_setUnit hm]
        simp [hx'.1]

theorem mem_units (ga n x : Nat) : x ∈ (List.range ((ga + n + 31) / 32 - ga / 32)).map (· + ga / 32) ↔ ga / 32 ≤ x ∧ x < (ga + n + 31) / 32 := by
  simp only [List.mem_map, List.mem_range]
  constructor
  · rintro ⟨y, hy, rfl⟩; omega
  · intro h; exact ⟨x - ga / 32, by omega, by omega⟩

/-- What bringing a range under a key does: memory keeps its form, every unit reads as before under the key, the units of the range hold
their plain bytes under it, and no other unit changes. -/
theorem State.rekey_spec {s : State} (hm : memWf s.mem = true) (ga n key : Nat) :
    memWf (s.rekey ga n key).mem = true ∧ (∀ x, (s.rekey ga n key).unitUnder x key = s.unitUnder x key) ∧
      (∀ x, ga / 32 ≤ x → x < (ga + n + 31) / 32 → (s.rekey ga n key).unitKey x = key) ∧
      (∀ x, ¬ (ga / 32 ≤ x ∧ x < (ga + n + 31) / 32) → (s.rekey ga n key).unitKey x = s.unitKey x ∧
        (s.rekey ga n key).unitPlain x = s.unitPlain x) := by
  obtain ⟨h1, h2, h3, h4⟩ := rekeyOne_spec hm ((List.range ((ga + n + 31) / 32 - ga / 32)).map (· + ga / 32)) key
  exact ⟨h1, h2, fun x a b => h3 x (.inl ((mem_units ga n x).2 ⟨a, b⟩)), fun x hx => h4 x (fun h => hx ((mem_units ga n x).1 h))⟩

/-- One byte of a unit. -/
def unitByte (v : W256) (i : Nat) : Byte := BitVec.ofNat 8 (v.toNat / 256 ^ i)

theorem natOfBytes_getD (bs : List Byte) (i : Nat) (h : i < bs.length) : BitVec.ofNat 8 (natOfBytes bs / 256 ^ i) = bs.getD i 0 := by
  induction bs generalizing i with
  | nil => simp at h
  | cons b bs ih =>
    cases i with
    | zero => simp [natOfBytes]; apply BitVec.eq_of_toNat_eq; have := b.isLt; simp; omega
    | succ i =>
      have e : natOfBytes (b :: bs) / 256 ^ (i + 1) = natOfBytes bs / 256 ^ i := by
        rw [natOfBytes, Nat.pow_succ', ← Nat.div_div_eq_div_mul]; congr 1; have := b.isLt; omega
      rw [e, ih i (by simpa using h)]; simp

theorem natOfBytes_lt (bs : List Byte) : natOfBytes bs < 256 ^ bs.length := by
  induction bs with
  | nil => simp [natOfBytes]
  | cons b bs ih => simp only [natOfBytes, List.length_cons, Nat.pow_succ]; have := b.isLt; omega

/-- A plain byte of a unit is the byte of memory. -/
theorem State.unitByte_unitPlain (s : State) (a : Nat) : unitByte (s.unitPlain (a / 32)) (a % 32) = memRead s.mem a := by
  have hl : (memGet s.mem (a / 32 * 32) 32).length = 32 := memGet_length _ _ _
  have hb := natOfBytes_lt (memGet s.mem (a / 32 * 32) 32)
  rw [hl] at hb
  have e : (s.unitPlain (a / 32)).toNat = natOfBytes (memGet s.mem (a / 32 * 32) 32) := by
    rw [unitPlain, BitVec.toNat_ofNat, Nat.mod_eq_of_lt]; exact Nat.lt_of_lt_of_eq hb (by decide)
  rw [unitByte, e, natOfBytes_getD _ _ (by rw [hl]; omega), List.getD_eq_getElem?_getD, memGet_getElem? _ _ _ _ (by omega)]
  simp [show a / 32 * 32 + a % 32 = a by omega]

/-- What an access under a key reads, byte by byte. -/
theorem State.readKey_getElem? {s : State} (hm : memWf s.mem = true) (a n key i : Nat) (h : i < n) :
    (s.readKey a n key)[i]? = some (unitByte (s.unitUnder ((a + i) / 32) key) ((a + i) % 32)) := by
  obtain ⟨_, h2, h3, _⟩ := rekey_spec hm a n key
  rw [readKey, memGet_getElem? _ _ _ _ h, ← h2, ← unitByte_unitPlain, unitUnder, if_pos (h3 _ (by omega) (by omega))]

theorem State.readKey_length (s : State) (a n key : Nat) : (s.readKey a n key).length = n := memGet_length _ _ _

theorem State.readKey_one {s : State} (hm : memWf s.mem = true) (a key : Nat) :
    s.readKey a 1 key = [unitByte (s.unitUnder (a / 32) key) (a % 32)] := by
  have h := readKey_getElem? hm a 1 key 0 (by omega)
  have l := readKey_length s a 1 key
  match e : s.readKey a 1 key with
  | [x] => simpa [e] using h
  | [] => simp [e] at l
  | _ :: _ :: _ => simp [e] at l

theorem State.writeKey_wf {s : State} (hm : memWf s.mem = true) (ga key : Nat) (bs : List Byte) : memWf (s.writeKey ga key bs).mem = true :=
  memPutAll_wf (rekey_spec hm ga bs.length key).1 _ _

/-- What an access under a key reads of a unit after bytes are written under that key. -/
theorem State.unitByte_writeKey {s : State} (hm : memWf s.mem = true) (ga key : Nat) (bs : List Byte) (a : Nat) :
    unitByte ((s.writeKey ga key bs).unitUnder (a / 32) key) (a % 32) =
      if ga ≤ a ∧ a < ga + bs.length then bs.getD (a - ga) 0 else unitByte (s.unitUnder (a / 32) key) (a % 32) := by
  obtain ⟨h1, h2, h3, h4⟩ := rekey_spec hm ga bs.length key
  have hk : ∀ x, (s.writeKey ga key bs).unitKey x = (s.rekey ga bs.length key).unitKey x := fun _ => rfl
  by_cases hu : ga / 32 ≤ a / 32 ∧ a / 32 < (ga + bs.length + 31) / 32
  · rw [unitUnder, if_pos ((hk _).trans (h3 _ hu.1 hu.2)), unitByte_unitPlain]
    have e : (s.writeKey ga key bs).mem = memPutAll (s.rekey ga bs.length key).mem ga bs := rfl
    rw [e, memRead_memPutAll h1]
    congr 1
    rw [← unitByte_unitPlain, ← h2, unitUnder, if_pos (h3 _ hu.1 hu.2)]
  · rw [if_neg (by omega), ← h2]
    have hp : (s.writeKey ga key bs).unitPlain (a / 32) = (s.rekey ga bs.length key).unitPlain (a / 32) := by
      apply unitPlain_congr
      intro i hi
      have e : (s.writeKey ga key bs).mem = memPutAll (s.rekey ga bs.length key).mem ga bs := rfl
      rw [e, memRead_memPutAll h1, if_neg (by omega)]
    simp only [unitUnder, unitRaw, hk, hp]

/-- The bytes written under a key are read back under it. -/
theorem State.readKey_writeKey {s : State} (hm : memWf s.mem = true) (ga key : Nat) (bs : List Byte) :
    (s.writeKey ga key bs).readKey ga bs.length key = bs := by
  apply List.ext_getElem?
  intro i
  by_cases h : i < bs.length
  · rw [readKey_getElem? (writeKey_wf hm ga key bs) _ _ _ _ h, unitByte_writeKey hm, if_pos (by omega)]
    simp [h]
  · rw [List.getElem?_eq_none (by rw [readKey_length]; omega), List.getElem?_eq_none (by omega)]

/-- Every byte outside those written under a key reads as before under it. -/
theorem State.readKey_writeKey_ne {s : State} (hm : memWf s.mem = true) (ga key : Nat) (bs : List Byte) (a : Nat)
    (h : a < ga ∨ ga + bs.length ≤ a) : (s.writeKey ga key bs).readKey a 1 key = s.readKey a 1 key := by
  rw [readKey_one (writeKey_wf hm ga key bs), readKey_one hm, unitByte_writeKey hm, if_neg (by omega)]

/-- Every byte of a unit that a write does not touch reads as before under every key. -/
theorem State.readKey_writeKey_unit {s : State} (hm : memWf s.mem = true) (ga key : Nat) (bs : List Byte) (a k : Nat)
    (h : ¬ (ga / 32 ≤ a / 32 ∧ a / 32 < (ga + bs.length + 31) / 32)) : (s.writeKey ga key bs).readKey a 1 k = s.readKey a 1 k := by
  obtain ⟨h1, _, _, h4⟩ := rekey_spec hm ga bs.length key
  have hk : (s.writeKey ga key bs).unitKey (a / 32) = s.unitKey (a / 32) := (h4 _ h).1
  have hp : (s.writeKey ga key bs).unitPlain (a / 32) = s.unitPlain (a / 32) := by
    rw [← (h4 _ h).2]
    apply unitPlain_congr
    intro i hi
    have e : (s.writeKey ga key bs).mem = memPutAll (s.rekey ga bs.length key).mem ga bs := rfl
    rw [e, memRead_memPutAll h1, if_neg (by omega)]
  rw [readKey_one (writeKey_wf hm ga key bs), readKey_one hm]
  simp only [unitUnder, unitRaw, hk, hp]

/-- What a read under a key gives depends on memory and its keys alone. -/
theorem State.readKey_congr {s t : State} (hm : memWf s.mem = true) (h1 : t.mem = s.mem) (h2 : t.enc = s.enc) (a n key : Nat) :
    t.readKey a n key = s.readKey a n key := by
  apply List.ext_getElem?
  intro i
  by_cases h : i < n
  · rw [readKey_getElem? (by rw [h1]; exact hm) _ _ _ _ h, readKey_getElem? hm _ _ _ _ h]
    simp only [unitUnder, unitRaw, unitKey, unitPlain, h1, h2]; rfl
  · rw [List.getElem?_eq_none (by rw [readKey_length]; omega), List.getElem?_eq_none (by rw [readKey_length]; omega)]

end Sys2Proof.Machine
end

