-- ==== Sys2Proof/Laws/State.lean ====
section
/-! SUPPORT. What each plain update of the state leaves: one lemma for each update and field it does not write. -/

namespace Sys2Proof.Machine

open Sys2Proof

@[simp] theorem State.updRaising_now (s : State) (rid : Nat) (f : Raising → Raising) : (s.updRaising rid f).now = s.now := rfl
@[simp] theorem State.updRaising_nextId (s : State) (rid : Nat) (f : Raising → Raising) : (s.updRaising rid f).nextId = s.nextId := rfl
@[simp] theorem State.updRaising_nextRid (s : State) (rid : Nat) (f : Raising → Raising) : (s.updRaising rid f).nextRid = s.nextRid := rfl
@[simp] theorem State.updRaising_domW (s : State) (rid : Nat) (f : Raising → Raising) : (s.updRaising rid f).domW = s.domW := rfl
@[simp] theorem State.updRaising_domH (s : State) (rid : Nat) (f : Raising → Raising) : (s.updRaising rid f).domH = s.domH := rfl
@[simp] theorem State.updRaising_sched (s : State) (rid : Nat) (f : Raising → Raising) : (s.updRaising rid f).sched = s.sched := rfl
@[simp] theorem State.updRaising_cur (s : State) (rid : Nat) (f : Raising → Raising) : (s.updRaising rid f).cur = s.cur := rfl
@[simp] theorem State.updRaising_mem (s : State) (rid : Nat) (f : Raising → Raising) : (s.updRaising rid f).mem = s.mem := rfl
@[simp] theorem State.updRaising_presence (s : State) (rid : Nat) (f : Raising → Raising) : (s.updRaising rid f).presence = s.presence := rfl
@[simp] theorem State.updRaising_enc (s : State) (rid : Nat) (f : Raising → Raising) : (s.updRaising rid f).enc = s.enc := rfl
@[simp] theorem State.updRaising_ecc (s : State) (rid : Nat) (f : Raising → Raising) : (s.updRaising rid f).ecc = s.ecc := rfl
@[simp] theorem State.updRaising_deferred (s : State) (rid : Nat) (f : Raising → Raising) : (s.updRaising rid f).deferred = s.deferred := rfl
@[simp] theorem State.updRaising_parts (s : State) (rid : Nat) (f : Raising → Raising) : (s.updRaising rid f).parts = s.parts := rfl
@[simp] theorem State.updRaising_vdevs (s : State) (rid : Nat) (f : Raising → Raising) : (s.updRaising rid f).vdevs = s.vdevs := rfl
@[simp] theorem State.updRaising_queues (s : State) (rid : Nat) (f : Raising → Raising) : (s.updRaising rid f).queues = s.queues := rfl
@[simp] theorem State.updRaising_sems (s : State) (rid : Nat) (f : Raising → Raising) : (s.updRaising rid f).sems = s.sems := rfl
@[simp] theorem State.updRaising_semReqs (s : State) (rid : Nat) (f : Raising → Raising) : (s.updRaising rid f).semReqs = s.semReqs := rfl
@[simp] theorem State.updRaising_reqs (s : State) (rid : Nat) (f : Raising → Raising) : (s.updRaising rid f).reqs = s.reqs := rfl
@[simp] theorem State.updRaising_fences (s : State) (rid : Nat) (f : Raising → Raising) : (s.updRaising rid f).fences = s.fences := rfl
@[simp] theorem State.updRaising_mcops (s : State) (rid : Nat) (f : Raising → Raising) : (s.updRaising rid f).mcops = s.mcops := rfl
@[simp] theorem State.updRaising_groupSets (s : State) (rid : Nat) (f : Raising → Raising) : (s.updRaising rid f).groupSets = s.groupSets := rfl
@[simp] theorem State.updRaising_marks (s : State) (rid : Nat) (f : Raising → Raising) : (s.updRaising rid f).marks = s.marks := rfl
@[simp] theorem State.updRaising_fqueues (s : State) (rid : Nat) (f : Raising → Raising) : (s.updRaising rid f).fqueues = s.fqueues := rfl
@[simp] theorem State.updRaising_inbox (s : State) (rid : Nat) (f : Raising → Raising) : (s.updRaising rid f).inbox = s.inbox := rfl
@[simp] theorem State.updRaising_trimths (s : State) (rid : Nat) (f : Raising → Raising) : (s.updRaising rid f).trimths = s.trimths := rfl
@[simp] theorem State.updRaising_seqs (s : State) (rid : Nat) (f : Raising → Raising) : (s.updRaising rid f).seqs = s.seqs := rfl
@[simp] theorem State.updRaising_copies (s : State) (rid : Nat) (f : Raising → Raising) : (s.updRaising rid f).copies = s.copies := rfl
@[simp] theorem State.updRaising_trims (s : State) (rid : Nat) (f : Raising → Raising) : (s.updRaising rid f).trims = s.trims := rfl
@[simp] theorem State.updRaising_reorders (s : State) (rid : Nat) (f : Raising → Raising) : (s.updRaising rid f).reorders = s.reorders := rfl
@[simp] theorem State.updRaising_dedups (s : State) (rid : Nat) (f : Raising → Raising) : (s.updRaising rid f).dedups = s.dedups := rfl
@[simp] theorem State.updRaising_parked (s : State) (rid : Nat) (f : Raising → Raising) : (s.updRaising rid f).parked = s.parked := rfl
@[simp] theorem State.updRaising_mccopies (s : State) (rid : Nat) (f : Raising → Raising) : (s.updRaising rid f).mccopies = s.mccopies := rfl
@[simp] theorem State.updRaising_groups (s : State) (rid : Nat) (f : Raising → Raising) : (s.updRaising rid f).groups = s.groups := rfl
@[simp] theorem State.updRaising_redslots (s : State) (rid : Nat) (f : Raising → Raising) : (s.updRaising rid f).redslots = s.redslots := rfl
@[simp] theorem State.updRaising_bulks (s : State) (rid : Nat) (f : Raising → Raising) : (s.updRaising rid f).bulks = s.bulks := rfl
@[simp] theorem State.updRaising_down (s : State) (rid : Nat) (f : Raising → Raising) : (s.updRaising rid f).down = s.down := rfl
@[simp] theorem State.updRaising_ras (s : State) (rid : Nat) (f : Raising → Raising) : (s.updRaising rid f).ras = s.ras := rfl
@[simp] theorem State.updRaising_loads (s : State) (rid : Nat) (f : Raising → Raising) : (s.updRaising rid f).loads = s.loads := rfl
@[simp] theorem State.updRaising_reports (s : State) (rid : Nat) (f : Raising → Raising) : (s.updRaising rid f).reports = s.reports := rfl
@[simp] theorem State.updRaising_migs (s : State) (rid : Nat) (f : Raising → Raising) : (s.updRaising rid f).migs = s.migs := rfl
@[simp] theorem State.updRaising_syncs (s : State) (rid : Nat) (f : Raising → Raising) : (s.updRaising rid f).syncs = s.syncs := rfl
@[simp] theorem State.updRaising_ventWins (s : State) (rid : Nat) (f : Raising → Raising) : (s.updRaising rid f).ventWins = s.ventWins := rfl
@[simp] theorem State.updRaising_platforms (s : State) (rid : Nat) (f : Raising → Raising) : (s.updRaising rid f).platforms = s.platforms := rfl
@[simp] theorem State.updRaising_posts (s : State) (rid : Nat) (f : Raising → Raising) : (s.updRaising rid f).posts = s.posts := rfl
@[simp] theorem State.updRaising_checkpoints (s : State) (rid : Nat) (f : Raising → Raising) : (s.updRaising rid f).checkpoints = s.checkpoints := rfl
@[simp] theorem State.updRaising_rangeLogs (s : State) (rid : Nat) (f : Raising → Raising) : (s.updRaising rid f).rangeLogs = s.rangeLogs := rfl
@[simp] theorem State.updRaising_hostWaits (s : State) (rid : Nat) (f : Raising → Raising) : (s.updRaising rid f).hostWaits = s.hostWaits := rfl
@[simp] theorem State.updBent_now (s : State) (br : BentRef) (f : Bent → Bent) : (s.updBent br f).now = s.now := rfl
@[simp] theorem State.updBent_nextId (s : State) (br : BentRef) (f : Bent → Bent) : (s.updBent br f).nextId = s.nextId := rfl
@[simp] theorem State.updBent_nextRid (s : State) (br : BentRef) (f : Bent → Bent) : (s.updBent br f).nextRid = s.nextRid := rfl
@[simp] theorem State.updBent_domW (s : State) (br : BentRef) (f : Bent → Bent) : (s.updBent br f).domW = s.domW := rfl
@[simp] theorem State.updBent_domH (s : State) (br : BentRef) (f : Bent → Bent) : (s.updBent br f).domH = s.domH := rfl
@[simp] theorem State.updBent_sched (s : State) (br : BentRef) (f : Bent → Bent) : (s.updBent br f).sched = s.sched := rfl
@[simp] theorem State.updBent_cur (s : State) (br : BentRef) (f : Bent → Bent) : (s.updBent br f).cur = s.cur := rfl
@[simp] theorem State.updBent_mem (s : State) (br : BentRef) (f : Bent → Bent) : (s.updBent br f).mem = s.mem := rfl
@[simp] theorem State.updBent_presence (s : State) (br : BentRef) (f : Bent → Bent) : (s.updBent br f).presence = s.presence := rfl
@[simp] theorem State.updBent_enc (s : State) (br : BentRef) (f : Bent → Bent) : (s.updBent br f).enc = s.enc := rfl
@[simp] theorem State.updBent_ecc (s : State) (br : BentRef) (f : Bent → Bent) : (s.updBent br f).ecc = s.ecc := rfl
@[simp] theorem State.updBent_deferred (s : State) (br : BentRef) (f : Bent → Bent) : (s.updBent br f).deferred = s.deferred := rfl
@[simp] theorem State.updBent_parts (s : State) (br : BentRef) (f : Bent → Bent) : (s.updBent br f).parts = s.parts := rfl
@[simp] theorem State.updBent_vdevs (s : State) (br : BentRef) (f : Bent → Bent) : (s.updBent br f).vdevs = s.vdevs := rfl
@[simp] theorem State.updBent_queues (s : State) (br : BentRef) (f : Bent → Bent) : (s.updBent br f).queues = s.queues := rfl
@[simp] theorem State.updBent_sems (s : State) (br : BentRef) (f : Bent → Bent) : (s.updBent br f).sems = s.sems := rfl
@[simp] theorem State.updBent_semReqs (s : State) (br : BentRef) (f : Bent → Bent) : (s.updBent br f).semReqs = s.semReqs := rfl
@[simp] theorem State.updBent_reqs (s : State) (br : BentRef) (f : Bent → Bent) : (s.updBent br f).reqs = s.reqs := rfl
@[simp] theorem State.updBent_fences (s : State) (br : BentRef) (f : Bent → Bent) : (s.updBent br f).fences = s.fences := rfl
@[simp] theorem State.updBent_mcops (s : State) (br : BentRef) (f : Bent → Bent) : (s.updBent br f).mcops = s.mcops := rfl
@[simp] theorem State.updBent_groupSets (s : State) (br : BentRef) (f : Bent → Bent) : (s.updBent br f).groupSets = s.groupSets := rfl
@[simp] theorem State.updBent_marks (s : State) (br : BentRef) (f : Bent → Bent) : (s.updBent br f).marks = s.marks := rfl
@[simp] theorem State.updBent_fqueues (s : State) (br : BentRef) (f : Bent → Bent) : (s.updBent br f).fqueues = s.fqueues := rfl
@[simp] theorem State.updBent_inbox (s : State) (br : BentRef) (f : Bent → Bent) : (s.updBent br f).inbox = s.inbox := rfl
@[simp] theorem State.updBent_trimths (s : State) (br : BentRef) (f : Bent → Bent) : (s.updBent br f).trimths = s.trimths := rfl
@[simp] theorem State.updBent_seqs (s : State) (br : BentRef) (f : Bent → Bent) : (s.updBent br f).seqs = s.seqs := rfl
@[simp] theorem State.updBent_copies (s : State) (br : BentRef) (f : Bent → Bent) : (s.updBent br f).copies = s.copies := rfl
@[simp] theorem State.updBent_trims (s : State) (br : BentRef) (f : Bent → Bent) : (s.updBent br f).trims = s.trims := rfl
@[simp] theorem State.updBent_reorders (s : State) (br : BentRef) (f : Bent → Bent) : (s.updBent br f).reorders = s.reorders := rfl
@[simp] theorem State.updBent_dedups (s : State) (br : BentRef) (f : Bent → Bent) : (s.updBent br f).dedups = s.dedups := rfl
@[simp] theorem State.updBent_parked (s : State) (br : BentRef) (f : Bent → Bent) : (s.updBent br f).parked = s.parked := rfl
@[simp] theorem State.updBent_mccopies (s : State) (br : BentRef) (f : Bent → Bent) : (s.updBent br f).mccopies = s.mccopies := rfl
@[simp] theorem State.updBent_groups (s : State) (br : BentRef) (f : Bent → Bent) : (s.updBent br f).groups = s.groups := rfl
@[simp] theorem State.updBent_redslots (s : State) (br : BentRef) (f : Bent → Bent) : (s.updBent br f).redslots = s.redslots := rfl
@[simp] theorem State.updBent_bulks (s : State) (br : BentRef) (f : Bent → Bent) : (s.updBent br f).bulks = s.bulks := rfl
@[simp] theorem State.updBent_down (s : State) (br : BentRef) (f : Bent → Bent) : (s.updBent br f).down = s.down := rfl
@[simp] theorem State.updBent_ras (s : State) (br : BentRef) (f : Bent → Bent) : (s.updBent br f).ras = s.ras := rfl
@[simp] theorem State.updBent_loads (s : State) (br : BentRef) (f : Bent → Bent) : (s.updBent br f).loads = s.loads := rfl
@[simp] theorem State.updBent_reports (s : State) (br : BentRef) (f : Bent → Bent) : (s.updBent br f).reports = s.reports := rfl
@[simp] theorem State.updBent_migs (s : State) (br : BentRef) (f : Bent → Bent) : (s.updBent br f).migs = s.migs := rfl
@[simp] theorem State.updBent_syncs (s : State) (br : BentRef) (f : Bent → Bent) : (s.updBent br f).syncs = s.syncs := rfl
@[simp] theorem State.updBent_ventWins (s : State) (br : BentRef) (f : Bent → Bent) : (s.updBent br f).ventWins = s.ventWins := rfl
@[simp] theorem State.updBent_platforms (s : State) (br : BentRef) (f : Bent → Bent) : (s.updBent br f).platforms = s.platforms := rfl
@[simp] theorem State.updBent_posts (s : State) (br : BentRef) (f : Bent → Bent) : (s.updBent br f).posts = s.posts := rfl
@[simp] theorem State.updBent_checkpoints (s : State) (br : BentRef) (f : Bent → Bent) : (s.updBent br f).checkpoints = s.checkpoints := rfl
@[simp] theorem State.updBent_rangeLogs (s : State) (br : BentRef) (f : Bent → Bent) : (s.updBent br f).rangeLogs = s.rangeLogs := rfl
@[simp] theorem State.updBent_hostWaits (s : State) (br : BentRef) (f : Bent → Bent) : (s.updBent br f).hostWaits = s.hostWaits := rfl
@[simp] theorem State.updElem_now (s : State) (br : BentRef) (cx cy : Nat) (f : Elem → Elem) : (s.updElem br cx cy f).now = s.now := rfl
@[simp] theorem State.updElem_nextId (s : State) (br : BentRef) (cx cy : Nat) (f : Elem → Elem) : (s.updElem br cx cy f).nextId = s.nextId := rfl
@[simp] theorem State.updElem_nextRid (s : State) (br : BentRef) (cx cy : Nat) (f : Elem → Elem) : (s.updElem br cx cy f).nextRid = s.nextRid := rfl
@[simp] theorem State.updElem_domW (s : State) (br : BentRef) (cx cy : Nat) (f : Elem → Elem) : (s.updElem br cx cy f).domW = s.domW := rfl
@[simp] theorem State.updElem_domH (s : State) (br : BentRef) (cx cy : Nat) (f : Elem → Elem) : (s.updElem br cx cy f).domH = s.domH := rfl
@[simp] theorem State.updElem_sched (s : State) (br : BentRef) (cx cy : Nat) (f : Elem → Elem) : (s.updElem br cx cy f).sched = s.sched := rfl
@[simp] theorem State.updElem_cur (s : State) (br : BentRef) (cx cy : Nat) (f : Elem → Elem) : (s.updElem br cx cy f).cur = s.cur := rfl
@[simp] theorem State.updElem_mem (s : State) (br : BentRef) (cx cy : Nat) (f : Elem → Elem) : (s.updElem br cx cy f).mem = s.mem := rfl
@[simp] theorem State.updElem_presence (s : State) (br : BentRef) (cx cy : Nat) (f : Elem → Elem) : (s.updElem br cx cy f).presence = s.presence := rfl
@[simp] theorem State.updElem_enc (s : State) (br : BentRef) (cx cy : Nat) (f : Elem → Elem) : (s.updElem br cx cy f).enc = s.enc := rfl
@[simp] theorem State.updElem_ecc (s : State) (br : BentRef) (cx cy : Nat) (f : Elem → Elem) : (s.updElem br cx cy f).ecc = s.ecc := rfl
@[simp] theorem State.updElem_deferred (s : State) (br : BentRef) (cx cy : Nat) (f : Elem → Elem) : (s.updElem br cx cy f).deferred = s.deferred := rfl
@[simp] theorem State.updElem_parts (s : State) (br : BentRef) (cx cy : Nat) (f : Elem → Elem) : (s.updElem br cx cy f).parts = s.parts := rfl
@[simp] theorem State.updElem_vdevs (s : State) (br : BentRef) (cx cy : Nat) (f : Elem → Elem) : (s.updElem br cx cy f).vdevs = s.vdevs := rfl
@[simp] theorem State.updElem_queues (s : State) (br : BentRef) (cx cy : Nat) (f : Elem → Elem) : (s.updElem br cx cy f).queues = s.queues := rfl
@[simp] theorem State.updElem_sems (s : State) (br : BentRef) (cx cy : Nat) (f : Elem → Elem) : (s.updElem br cx cy f).sems = s.sems := rfl
@[simp] theorem State.updElem_semReqs (s : State) (br : BentRef) (cx cy : Nat) (f : Elem → Elem) : (s.updElem br cx cy f).semReqs = s.semReqs := rfl
@[simp] theorem State.updElem_reqs (s : State) (br : BentRef) (cx cy : Nat) (f : Elem → Elem) : (s.updElem br cx cy f).reqs = s.reqs := rfl
@[simp] theorem State.updElem_fences (s : State) (br : BentRef) (cx cy : Nat) (f : Elem → Elem) : (s.updElem br cx cy f).fences = s.fences := rfl
@[simp] theorem State.updElem_mcops (s : State) (br : BentRef) (cx cy : Nat) (f : Elem → Elem) : (s.updElem br cx cy f).mcops = s.mcops := rfl
@[simp] theorem State.updElem_groupSets (s : State) (br : BentRef) (cx cy : Nat) (f : Elem → Elem) : (s.updElem br cx cy f).groupSets = s.groupSets := rfl
@[simp] theorem State.updElem_marks (s : State) (br : BentRef) (cx cy : Nat) (f : Elem → Elem) : (s.updElem br cx cy f).marks = s.marks := rfl
@[simp] theorem State.updElem_fqueues (s : State) (br : BentRef) (cx cy : Nat) (f : Elem → Elem) : (s.updElem br cx cy f).fqueues = s.fqueues := rfl
@[simp] theorem State.updElem_inbox (s : State) (br : BentRef) (cx cy : Nat) (f : Elem → Elem) : (s.updElem br cx cy f).inbox = s.inbox := rfl
@[simp] theorem State.updElem_trimths (s : State) (br : BentRef) (cx cy : Nat) (f : Elem → Elem) : (s.updElem br cx cy f).trimths = s.trimths := rfl
@[simp] theorem State.updElem_seqs (s : State) (br : BentRef) (cx cy : Nat) (f : Elem → Elem) : (s.updElem br cx cy f).seqs = s.seqs := rfl
@[simp] theorem State.updElem_copies (s : State) (br : BentRef) (cx cy : Nat) (f : Elem → Elem) : (s.updElem br cx cy f).copies = s.copies := rfl
@[simp] theorem State.updElem_trims (s : State) (br : BentRef) (cx cy : Nat) (f : Elem → Elem) : (s.updElem br cx cy f).trims = s.trims := rfl
@[simp] theorem State.updElem_reorders (s : State) (br : BentRef) (cx cy : Nat) (f : Elem → Elem) : (s.updElem br cx cy f).reorders = s.reorders := rfl
@[simp] theorem State.updElem_dedups (s : State) (br : BentRef) (cx cy : Nat) (f : Elem → Elem) : (s.updElem br cx cy f).dedups = s.dedups := rfl
@[simp] theorem State.updElem_parked (s : State) (br : BentRef) (cx cy : Nat) (f : Elem → Elem) : (s.updElem br cx cy f).parked = s.parked := rfl
@[simp] theorem State.updElem_mccopies (s : State) (br : BentRef) (cx cy : Nat) (f : Elem → Elem) : (s.updElem br cx cy f).mccopies = s.mccopies := rfl
@[simp] theorem State.updElem_groups (s : State) (br : BentRef) (cx cy : Nat) (f : Elem → Elem) : (s.updElem br cx cy f).groups = s.groups := rfl
@[simp] theorem State.updElem_redslots (s : State) (br : BentRef) (cx cy : Nat) (f : Elem → Elem) : (s.updElem br cx cy f).redslots = s.redslots := rfl
@[simp] theorem State.updElem_bulks (s : State) (br : BentRef) (cx cy : Nat) (f : Elem → Elem) : (s.updElem br cx cy f).bulks = s.bulks := rfl
@[simp] theorem State.updElem_down (s : State) (br : BentRef) (cx cy : Nat) (f : Elem → Elem) : (s.updElem br cx cy f).down = s.down := rfl
@[simp] theorem State.updElem_ras (s : State) (br : BentRef) (cx cy : Nat) (f : Elem → Elem) : (s.updElem br cx cy f).ras = s.ras := rfl
@[simp] theorem State.updElem_loads (s : State) (br : BentRef) (cx cy : Nat) (f : Elem → Elem) : (s.updElem br cx cy f).loads = s.loads := rfl
@[simp] theorem State.updElem_reports (s : State) (br : BentRef) (cx cy : Nat) (f : Elem → Elem) : (s.updElem br cx cy f).reports = s.reports := rfl
@[simp] theorem State.updElem_migs (s : State) (br : BentRef) (cx cy : Nat) (f : Elem → Elem) : (s.updElem br cx cy f).migs = s.migs := rfl
@[simp] theorem State.updElem_syncs (s : State) (br : BentRef) (cx cy : Nat) (f : Elem → Elem) : (s.updElem br cx cy f).syncs = s.syncs := rfl
@[simp] theorem State.updElem_ventWins (s : State) (br : BentRef) (cx cy : Nat) (f : Elem → Elem) : (s.updElem br cx cy f).ventWins = s.ventWins := rfl
@[simp] theorem State.updElem_platforms (s : State) (br : BentRef) (cx cy : Nat) (f : Elem → Elem) : (s.updElem br cx cy f).platforms = s.platforms := rfl
@[simp] theorem State.updElem_posts (s : State) (br : BentRef) (cx cy : Nat) (f : Elem → Elem) : (s.updElem br cx cy f).posts = s.posts := rfl
@[simp] theorem State.updElem_checkpoints (s : State) (br : BentRef) (cx cy : Nat) (f : Elem → Elem) : (s.updElem br cx cy f).checkpoints = s.checkpoints := rfl
@[simp] theorem State.updElem_rangeLogs (s : State) (br : BentRef) (cx cy : Nat) (f : Elem → Elem) : (s.updElem br cx cy f).rangeLogs = s.rangeLogs := rfl
@[simp] theorem State.updElem_hostWaits (s : State) (br : BentRef) (cx cy : Nat) (f : Elem → Elem) : (s.updElem br cx cy f).hostWaits = s.hostWaits := rfl
@[simp] theorem State.updClus_now (s : State) (br : BentRef) (cX cY : Nat) (f : Cluster → Cluster) : (s.updClus br cX cY f).now = s.now := rfl
@[simp] theorem State.updClus_nextId (s : State) (br : BentRef) (cX cY : Nat) (f : Cluster → Cluster) : (s.updClus br cX cY f).nextId = s.nextId := rfl
@[simp] theorem State.updClus_nextRid (s : State) (br : BentRef) (cX cY : Nat) (f : Cluster → Cluster) : (s.updClus br cX cY f).nextRid = s.nextRid := rfl
@[simp] theorem State.updClus_domW (s : State) (br : BentRef) (cX cY : Nat) (f : Cluster → Cluster) : (s.updClus br cX cY f).domW = s.domW := rfl
@[simp] theorem State.updClus_domH (s : State) (br : BentRef) (cX cY : Nat) (f : Cluster → Cluster) : (s.updClus br cX cY f).domH = s.domH := rfl
@[simp] theorem State.updClus_sched (s : State) (br : BentRef) (cX cY : Nat) (f : Cluster → Cluster) : (s.updClus br cX cY f).sched = s.sched := rfl
@[simp] theorem State.updClus_cur (s : State) (br : BentRef) (cX cY : Nat) (f : Cluster → Cluster) : (s.updClus br cX cY f).cur = s.cur := rfl
@[simp] theorem State.updClus_mem (s : State) (br : BentRef) (cX cY : Nat) (f : Cluster → Cluster) : (s.updClus br cX cY f).mem = s.mem := rfl
@[simp] theorem State.updClus_presence (s : State) (br : BentRef) (cX cY : Nat) (f : Cluster → Cluster) : (s.updClus br cX cY f).presence = s.presence := rfl
@[simp] theorem State.updClus_enc (s : State) (br : BentRef) (cX cY : Nat) (f : Cluster → Cluster) : (s.updClus br cX cY f).enc = s.enc := rfl
@[simp] theorem State.updClus_ecc (s : State) (br : BentRef) (cX cY : Nat) (f : Cluster → Cluster) : (s.updClus br cX cY f).ecc = s.ecc := rfl
@[simp] theorem State.updClus_deferred (s : State) (br : BentRef) (cX cY : Nat) (f : Cluster → Cluster) : (s.updClus br cX cY f).deferred = s.deferred := rfl
@[simp] theorem State.updClus_parts (s : State) (br : BentRef) (cX cY : Nat) (f : Cluster → Cluster) : (s.updClus br cX cY f).parts = s.parts := rfl
@[simp] theorem State.updClus_vdevs (s : State) (br : BentRef) (cX cY : Nat) (f : Cluster → Cluster) : (s.updClus br cX cY f).vdevs = s.vdevs := rfl
@[simp] theorem State.updClus_queues (s : State) (br : BentRef) (cX cY : Nat) (f : Cluster → Cluster) : (s.updClus br cX cY f).queues = s.queues := rfl
@[simp] theorem State.updClus_sems (s : State) (br : BentRef) (cX cY : Nat) (f : Cluster → Cluster) : (s.updClus br cX cY f).sems = s.sems := rfl
@[simp] theorem State.updClus_semReqs (s : State) (br : BentRef) (cX cY : Nat) (f : Cluster → Cluster) : (s.updClus br cX cY f).semReqs = s.semReqs := rfl
@[simp] theorem State.updClus_reqs (s : State) (br : BentRef) (cX cY : Nat) (f : Cluster → Cluster) : (s.updClus br cX cY f).reqs = s.reqs := rfl
@[simp] theorem State.updClus_fences (s : State) (br : BentRef) (cX cY : Nat) (f : Cluster → Cluster) : (s.updClus br cX cY f).fences = s.fences := rfl
@[simp] theorem State.updClus_mcops (s : State) (br : BentRef) (cX cY : Nat) (f : Cluster → Cluster) : (s.updClus br cX cY f).mcops = s.mcops := rfl
@[simp] theorem State.updClus_groupSets (s : State) (br : BentRef) (cX cY : Nat) (f : Cluster → Cluster) : (s.updClus br cX cY f).groupSets = s.groupSets := rfl
@[simp] theorem State.updClus_marks (s : State) (br : BentRef) (cX cY : Nat) (f : Cluster → Cluster) : (s.updClus br cX cY f).marks = s.marks := rfl
@[simp] theorem State.updClus_fqueues (s : State) (br : BentRef) (cX cY : Nat) (f : Cluster → Cluster) : (s.updClus br cX cY f).fqueues = s.fqueues := rfl
@[simp] theorem State.updClus_inbox (s : State) (br : BentRef) (cX cY : Nat) (f : Cluster → Cluster) : (s.updClus br cX cY f).inbox = s.inbox := rfl
@[simp] theorem State.updClus_trimths (s : State) (br : BentRef) (cX cY : Nat) (f : Cluster → Cluster) : (s.updClus br cX cY f).trimths = s.trimths := rfl
@[simp] theorem State.updClus_seqs (s : State) (br : BentRef) (cX cY : Nat) (f : Cluster → Cluster) : (s.updClus br cX cY f).seqs = s.seqs := rfl
@[simp] theorem State.updClus_copies (s : State) (br : BentRef) (cX cY : Nat) (f : Cluster → Cluster) : (s.updClus br cX cY f).copies = s.copies := rfl
@[simp] theorem State.updClus_trims (s : State) (br : BentRef) (cX cY : Nat) (f : Cluster → Cluster) : (s.updClus br cX cY f).trims = s.trims := rfl
@[simp] theorem State.updClus_reorders (s : State) (br : BentRef) (cX cY : Nat) (f : Cluster → Cluster) : (s.updClus br cX cY f).reorders = s.reorders := rfl
@[simp] theorem State.updClus_dedups (s : State) (br : BentRef) (cX cY : Nat) (f : Cluster → Cluster) : (s.updClus br cX cY f).dedups = s.dedups := rfl
@[simp] theorem State.updClus_parked (s : State) (br : BentRef) (cX cY : Nat) (f : Cluster → Cluster) : (s.updClus br cX cY f).parked = s.parked := rfl
@[simp] theorem State.updClus_mccopies (s : State) (br : BentRef) (cX cY : Nat) (f : Cluster → Cluster) : (s.updClus br cX cY f).mccopies = s.mccopies := rfl
@[simp] theorem State.updClus_groups (s : State) (br : BentRef) (cX cY : Nat) (f : Cluster → Cluster) : (s.updClus br cX cY f).groups = s.groups := rfl
@[simp] theorem State.updClus_redslots (s : State) (br : BentRef) (cX cY : Nat) (f : Cluster → Cluster) : (s.updClus br cX cY f).redslots = s.redslots := rfl
@[simp] theorem State.updClus_bulks (s : State) (br : BentRef) (cX cY : Nat) (f : Cluster → Cluster) : (s.updClus br cX cY f).bulks = s.bulks := rfl
@[simp] theorem State.updClus_down (s : State) (br : BentRef) (cX cY : Nat) (f : Cluster → Cluster) : (s.updClus br cX cY f).down = s.down := rfl
@[simp] theorem State.updClus_ras (s : State) (br : BentRef) (cX cY : Nat) (f : Cluster → Cluster) : (s.updClus br cX cY f).ras = s.ras := rfl
@[simp] theorem State.updClus_loads (s : State) (br : BentRef) (cX cY : Nat) (f : Cluster → Cluster) : (s.updClus br cX cY f).loads = s.loads := rfl
@[simp] theorem State.updClus_reports (s : State) (br : BentRef) (cX cY : Nat) (f : Cluster → Cluster) : (s.updClus br cX cY f).reports = s.reports := rfl
@[simp] theorem State.updClus_migs (s : State) (br : BentRef) (cX cY : Nat) (f : Cluster → Cluster) : (s.updClus br cX cY f).migs = s.migs := rfl
@[simp] theorem State.updClus_syncs (s : State) (br : BentRef) (cX cY : Nat) (f : Cluster → Cluster) : (s.updClus br cX cY f).syncs = s.syncs := rfl
@[simp] theorem State.updClus_ventWins (s : State) (br : BentRef) (cX cY : Nat) (f : Cluster → Cluster) : (s.updClus br cX cY f).ventWins = s.ventWins := rfl
@[simp] theorem State.updClus_platforms (s : State) (br : BentRef) (cX cY : Nat) (f : Cluster → Cluster) : (s.updClus br cX cY f).platforms = s.platforms := rfl
@[simp] theorem State.updClus_posts (s : State) (br : BentRef) (cX cY : Nat) (f : Cluster → Cluster) : (s.updClus br cX cY f).posts = s.posts := rfl
@[simp] theorem State.updClus_checkpoints (s : State) (br : BentRef) (cX cY : Nat) (f : Cluster → Cluster) : (s.updClus br cX cY f).checkpoints = s.checkpoints := rfl
@[simp] theorem State.updClus_rangeLogs (s : State) (br : BentRef) (cX cY : Nat) (f : Cluster → Cluster) : (s.updClus br cX cY f).rangeLogs = s.rangeLogs := rfl
@[simp] theorem State.updClus_hostWaits (s : State) (br : BentRef) (cX cY : Nat) (f : Cluster → Cluster) : (s.updClus br cX cY f).hostWaits = s.hostWaits := rfl
@[simp] theorem State.updTl_now (s : State) (br : BentRef) (tl : Nat) (f : Timeline → Timeline) : (s.updTl br tl f).now = s.now := rfl
@[simp] theorem State.updTl_nextId (s : State) (br : BentRef) (tl : Nat) (f : Timeline → Timeline) : (s.updTl br tl f).nextId = s.nextId := rfl
@[simp] theorem State.updTl_nextRid (s : State) (br : BentRef) (tl : Nat) (f : Timeline → Timeline) : (s.updTl br tl f).nextRid = s.nextRid := rfl
@[simp] theorem State.updTl_domW (s : State) (br : BentRef) (tl : Nat) (f : Timeline → Timeline) : (s.updTl br tl f).domW = s.domW := rfl
@[simp] theorem State.updTl_domH (s : State) (br : BentRef) (tl : Nat) (f : Timeline → Timeline) : (s.updTl br tl f).domH = s.domH := rfl
@[simp] theorem State.updTl_sched (s : State) (br : BentRef) (tl : Nat) (f : Timeline → Timeline) : (s.updTl br tl f).sched = s.sched := rfl
@[simp] theorem State.updTl_cur (s : State) (br : BentRef) (tl : Nat) (f : Timeline → Timeline) : (s.updTl br tl f).cur = s.cur := rfl
@[simp] theorem State.updTl_mem (s : State) (br : BentRef) (tl : Nat) (f : Timeline → Timeline) : (s.updTl br tl f).mem = s.mem := rfl
@[simp] theorem State.updTl_presence (s : State) (br : BentRef) (tl : Nat) (f : Timeline → Timeline) : (s.updTl br tl f).presence = s.presence := rfl
@[simp] theorem State.updTl_enc (s : State) (br : BentRef) (tl : Nat) (f : Timeline → Timeline) : (s.updTl br tl f).enc = s.enc := rfl
@[simp] theorem State.updTl_ecc (s : State) (br : BentRef) (tl : Nat) (f : Timeline → Timeline) : (s.updTl br tl f).ecc = s.ecc := rfl
@[simp] theorem State.updTl_deferred (s : State) (br : BentRef) (tl : Nat) (f : Timeline → Timeline) : (s.updTl br tl f).deferred = s.deferred := rfl
@[simp] theorem State.updTl_parts (s : State) (br : BentRef) (tl : Nat) (f : Timeline → Timeline) : (s.updTl br tl f).parts = s.parts := rfl
@[simp] theorem State.updTl_vdevs (s : State) (br : BentRef) (tl : Nat) (f : Timeline → Timeline) : (s.updTl br tl f).vdevs = s.vdevs := rfl
@[simp] theorem State.updTl_queues (s : State) (br : BentRef) (tl : Nat) (f : Timeline → Timeline) : (s.updTl br tl f).queues = s.queues := rfl
@[simp] theorem State.updTl_sems (s : State) (br : BentRef) (tl : Nat) (f : Timeline → Timeline) : (s.updTl br tl f).sems = s.sems := rfl
@[simp] theorem State.updTl_semReqs (s : State) (br : BentRef) (tl : Nat) (f : Timeline → Timeline) : (s.updTl br tl f).semReqs = s.semReqs := rfl
@[simp] theorem State.updTl_reqs (s : State) (br : BentRef) (tl : Nat) (f : Timeline → Timeline) : (s.updTl br tl f).reqs = s.reqs := rfl
@[simp] theorem State.updTl_fences (s : State) (br : BentRef) (tl : Nat) (f : Timeline → Timeline) : (s.updTl br tl f).fences = s.fences := rfl
@[simp] theorem State.updTl_mcops (s : State) (br : BentRef) (tl : Nat) (f : Timeline → Timeline) : (s.updTl br tl f).mcops = s.mcops := rfl
@[simp] theorem State.updTl_groupSets (s : State) (br : BentRef) (tl : Nat) (f : Timeline → Timeline) : (s.updTl br tl f).groupSets = s.groupSets := rfl
@[simp] theorem State.updTl_marks (s : State) (br : BentRef) (tl : Nat) (f : Timeline → Timeline) : (s.updTl br tl f).marks = s.marks := rfl
@[simp] theorem State.updTl_fqueues (s : State) (br : BentRef) (tl : Nat) (f : Timeline → Timeline) : (s.updTl br tl f).fqueues = s.fqueues := rfl
@[simp] theorem State.updTl_inbox (s : State) (br : BentRef) (tl : Nat) (f : Timeline → Timeline) : (s.updTl br tl f).inbox = s.inbox := rfl
@[simp] theorem State.updTl_trimths (s : State) (br : BentRef) (tl : Nat) (f : Timeline → Timeline) : (s.updTl br tl f).trimths = s.trimths := rfl
@[simp] theorem State.updTl_seqs (s : State) (br : BentRef) (tl : Nat) (f : Timeline → Timeline) : (s.updTl br tl f).seqs = s.seqs := rfl
@[simp] theorem State.updTl_copies (s : State) (br : BentRef) (tl : Nat) (f : Timeline → Timeline) : (s.updTl br tl f).copies = s.copies := rfl
@[simp] theorem State.updTl_trims (s : State) (br : BentRef) (tl : Nat) (f : Timeline → Timeline) : (s.updTl br tl f).trims = s.trims := rfl
@[simp] theorem State.updTl_reorders (s : State) (br : BentRef) (tl : Nat) (f : Timeline → Timeline) : (s.updTl br tl f).reorders = s.reorders := rfl
@[simp] theorem State.updTl_dedups (s : State) (br : BentRef) (tl : Nat) (f : Timeline → Timeline) : (s.updTl br tl f).dedups = s.dedups := rfl
@[simp] theorem State.updTl_parked (s : State) (br : BentRef) (tl : Nat) (f : Timeline → Timeline) : (s.updTl br tl f).parked = s.parked := rfl
@[simp] theorem State.updTl_mccopies (s : State) (br : BentRef) (tl : Nat) (f : Timeline → Timeline) : (s.updTl br tl f).mccopies = s.mccopies := rfl
@[simp] theorem State.updTl_groups (s : State) (br : BentRef) (tl : Nat) (f : Timeline → Timeline) : (s.updTl br tl f).groups = s.groups := rfl
@[simp] theorem State.updTl_redslots (s : State) (br : BentRef) (tl : Nat) (f : Timeline → Timeline) : (s.updTl br tl f).redslots = s.redslots := rfl
@[simp] theorem State.updTl_bulks (s : State) (br : BentRef) (tl : Nat) (f : Timeline → Timeline) : (s.updTl br tl f).bulks = s.bulks := rfl
@[simp] theorem State.updTl_down (s : State) (br : BentRef) (tl : Nat) (f : Timeline → Timeline) : (s.updTl br tl f).down = s.down := rfl
@[simp] theorem State.updTl_ras (s : State) (br : BentRef) (tl : Nat) (f : Timeline → Timeline) : (s.updTl br tl f).ras = s.ras := rfl
@[simp] theorem State.updTl_loads (s : State) (br : BentRef) (tl : Nat) (f : Timeline → Timeline) : (s.updTl br tl f).loads = s.loads := rfl
@[simp] theorem State.updTl_reports (s : State) (br : BentRef) (tl : Nat) (f : Timeline → Timeline) : (s.updTl br tl f).reports = s.reports := rfl
@[simp] theorem State.updTl_migs (s : State) (br : BentRef) (tl : Nat) (f : Timeline → Timeline) : (s.updTl br tl f).migs = s.migs := rfl
@[simp] theorem State.updTl_syncs (s : State) (br : BentRef) (tl : Nat) (f : Timeline → Timeline) : (s.updTl br tl f).syncs = s.syncs := rfl
@[simp] theorem State.updTl_ventWins (s : State) (br : BentRef) (tl : Nat) (f : Timeline → Timeline) : (s.updTl br tl f).ventWins = s.ventWins := rfl
@[simp] theorem State.updTl_platforms (s : State) (br : BentRef) (tl : Nat) (f : Timeline → Timeline) : (s.updTl br tl f).platforms = s.platforms := rfl
@[simp] theorem State.updTl_posts (s : State) (br : BentRef) (tl : Nat) (f : Timeline → Timeline) : (s.updTl br tl f).posts = s.posts := rfl
@[simp] theorem State.updTl_checkpoints (s : State) (br : BentRef) (tl : Nat) (f : Timeline → Timeline) : (s.updTl br tl f).checkpoints = s.checkpoints := rfl
@[simp] theorem State.updTl_rangeLogs (s : State) (br : BentRef) (tl : Nat) (f : Timeline → Timeline) : (s.updTl br tl f).rangeLogs = s.rangeLogs := rfl
@[simp] theorem State.updTl_hostWaits (s : State) (br : BentRef) (tl : Nat) (f : Timeline → Timeline) : (s.updTl br tl f).hostWaits = s.hostWaits := rfl
@[simp] theorem State.updVdev_now (s : State) (v : VdRef) (f : Vdev → Vdev) : (s.updVdev v f).now = s.now := rfl
@[simp] theorem State.updVdev_nextId (s : State) (v : VdRef) (f : Vdev → Vdev) : (s.updVdev v f).nextId = s.nextId := rfl
@[simp] theorem State.updVdev_nextRid (s : State) (v : VdRef) (f : Vdev → Vdev) : (s.updVdev v f).nextRid = s.nextRid := rfl
@[simp] theorem State.updVdev_domW (s : State) (v : VdRef) (f : Vdev → Vdev) : (s.updVdev v f).domW = s.domW := rfl
@[simp] theorem State.updVdev_domH (s : State) (v : VdRef) (f : Vdev → Vdev) : (s.updVdev v f).domH = s.domH := rfl
@[simp] theorem State.updVdev_sched (s : State) (v : VdRef) (f : Vdev → Vdev) : (s.updVdev v f).sched = s.sched := rfl
@[simp] theorem State.updVdev_cur (s : State) (v : VdRef) (f : Vdev → Vdev) : (s.updVdev v f).cur = s.cur := rfl
@[simp] theorem State.updVdev_mem (s : State) (v : VdRef) (f : Vdev → Vdev) : (s.updVdev v f).mem = s.mem := rfl
@[simp] theorem State.updVdev_presence (s : State) (v : VdRef) (f : Vdev → Vdev) : (s.updVdev v f).presence = s.presence := rfl
@[simp] theorem State.updVdev_enc (s : State) (v : VdRef) (f : Vdev → Vdev) : (s.updVdev v f).enc = s.enc := rfl
@[simp] theorem State.updVdev_ecc (s : State) (v : VdRef) (f : Vdev → Vdev) : (s.updVdev v f).ecc = s.ecc := rfl
@[simp] theorem State.updVdev_deferred (s : State) (v : VdRef) (f : Vdev → Vdev) : (s.updVdev v f).deferred = s.deferred := rfl
@[simp] theorem State.updVdev_parts (s : State) (v : VdRef) (f : Vdev → Vdev) : (s.updVdev v f).parts = s.parts := rfl
@[simp] theorem State.updVdev_raisings (s : State) (v : VdRef) (f : Vdev → Vdev) : (s.updVdev v f).raisings = s.raisings := rfl
@[simp] theorem State.updVdev_queues (s : State) (v : VdRef) (f : Vdev → Vdev) : (s.updVdev v f).queues = s.queues := rfl
@[simp] theorem State.updVdev_sems (s : State) (v : VdRef) (f : Vdev → Vdev) : (s.updVdev v f).sems = s.sems := rfl
@[simp] theorem State.updVdev_semReqs (s : State) (v : VdRef) (f : Vdev → Vdev) : (s.updVdev v f).semReqs = s.semReqs := rfl
@[simp] theorem State.updVdev_reqs (s : State) (v : VdRef) (f : Vdev → Vdev) : (s.updVdev v f).reqs = s.reqs := rfl
@[simp] theorem State.updVdev_fences (s : State) (v : VdRef) (f : Vdev → Vdev) : (s.updVdev v f).fences = s.fences := rfl
@[simp] theorem State.updVdev_mcops (s : State) (v : VdRef) (f : Vdev → Vdev) : (s.updVdev v f).mcops = s.mcops := rfl
@[simp] theorem State.updVdev_groupSets (s : State) (v : VdRef) (f : Vdev → Vdev) : (s.updVdev v f).groupSets = s.groupSets := rfl
@[simp] theorem State.updVdev_marks (s : State) (v : VdRef) (f : Vdev → Vdev) : (s.updVdev v f).marks = s.marks := rfl
@[simp] theorem State.updVdev_fqueues (s : State) (v : VdRef) (f : Vdev → Vdev) : (s.updVdev v f).fqueues = s.fqueues := rfl
@[simp] theorem State.updVdev_inbox (s : State) (v : VdRef) (f : Vdev → Vdev) : (s.updVdev v f).inbox = s.inbox := rfl
@[simp] theorem State.updVdev_trimths (s : State) (v : VdRef) (f : Vdev → Vdev) : (s.updVdev v f).trimths = s.trimths := rfl
@[simp] theorem State.updVdev_seqs (s : State) (v : VdRef) (f : Vdev → Vdev) : (s.updVdev v f).seqs = s.seqs := rfl
@[simp] theorem State.updVdev_copies (s : State) (v : VdRef) (f : Vdev → Vdev) : (s.updVdev v f).copies = s.copies := rfl
@[simp] theorem State.updVdev_trims (s : State) (v : VdRef) (f : Vdev → Vdev) : (s.updVdev v f).trims = s.trims := rfl
@[simp] theorem State.updVdev_reorders (s : State) (v : VdRef) (f : Vdev → Vdev) : (s.updVdev v f).reorders = s.reorders := rfl
@[simp] theorem State.updVdev_dedups (s : State) (v : VdRef) (f : Vdev → Vdev) : (s.updVdev v f).dedups = s.dedups := rfl
@[simp] theorem State.updVdev_parked (s : State) (v : VdRef) (f : Vdev → Vdev) : (s.updVdev v f).parked = s.parked := rfl
@[simp] theorem State.updVdev_mccopies (s : State) (v : VdRef) (f : Vdev → Vdev) : (s.updVdev v f).mccopies = s.mccopies := rfl
@[simp] theorem State.updVdev_groups (s : State) (v : VdRef) (f : Vdev → Vdev) : (s.updVdev v f).groups = s.groups := rfl
@[simp] theorem State.updVdev_redslots (s : State) (v : VdRef) (f : Vdev → Vdev) : (s.updVdev v f).redslots = s.redslots := rfl
@[simp] theorem State.updVdev_bulks (s : State) (v : VdRef) (f : Vdev → Vdev) : (s.updVdev v f).bulks = s.bulks := rfl
@[simp] theorem State.updVdev_down (s : State) (v : VdRef) (f : Vdev → Vdev) : (s.updVdev v f).down = s.down := rfl
@[simp] theorem State.updVdev_ras (s : State) (v : VdRef) (f : Vdev → Vdev) : (s.updVdev v f).ras = s.ras := rfl
@[simp] theorem State.updVdev_loads (s : State) (v : VdRef) (f : Vdev → Vdev) : (s.updVdev v f).loads = s.loads := rfl
@[simp] theorem State.updVdev_reports (s : State) (v : VdRef) (f : Vdev → Vdev) : (s.updVdev v f).reports = s.reports := rfl
@[simp] theorem State.updVdev_migs (s : State) (v : VdRef) (f : Vdev → Vdev) : (s.updVdev v f).migs = s.migs := rfl
@[simp] theorem State.updVdev_syncs (s : State) (v : VdRef) (f : Vdev → Vdev) : (s.updVdev v f).syncs = s.syncs := rfl
@[simp] theorem State.updVdev_ventWins (s : State) (v : VdRef) (f : Vdev → Vdev) : (s.updVdev v f).ventWins = s.ventWins := rfl
@[simp] theorem State.updVdev_platforms (s : State) (v : VdRef) (f : Vdev → Vdev) : (s.updVdev v f).platforms = s.platforms := rfl
@[simp] theorem State.updVdev_posts (s : State) (v : VdRef) (f : Vdev → Vdev) : (s.updVdev v f).posts = s.posts := rfl
@[simp] theorem State.updVdev_checkpoints (s : State) (v : VdRef) (f : Vdev → Vdev) : (s.updVdev v f).checkpoints = s.checkpoints := rfl
@[simp] theorem State.updVdev_rangeLogs (s : State) (v : VdRef) (f : Vdev → Vdev) : (s.updVdev v f).rangeLogs = s.rangeLogs := rfl
@[simp] theorem State.updVdev_hostWaits (s : State) (v : VdRef) (f : Vdev → Vdev) : (s.updVdev v f).hostWaits = s.hostWaits := rfl
@[simp] theorem State.updPart_now (s : State) (p : Nat) (f : Partition → Partition) : (s.updPart p f).now = s.now := rfl
@[simp] theorem State.updPart_nextId (s : State) (p : Nat) (f : Partition → Partition) : (s.updPart p f).nextId = s.nextId := rfl
@[simp] theorem State.updPart_nextRid (s : State) (p : Nat) (f : Partition → Partition) : (s.updPart p f).nextRid = s.nextRid := rfl
@[simp] theorem State.updPart_domW (s : State) (p : Nat) (f : Partition → Partition) : (s.updPart p f).domW = s.domW := rfl
@[simp] theorem State.updPart_domH (s : State) (p : Nat) (f : Partition → Partition) : (s.updPart p f).domH = s.domH := rfl
@[simp] theorem State.updPart_sched (s : State) (p : Nat) (f : Partition → Partition) : (s.updPart p f).sched = s.sched := rfl
@[simp] theorem State.updPart_cur (s : State) (p : Nat) (f : Partition → Partition) : (s.updPart p f).cur = s.cur := rfl
@[simp] theorem State.updPart_mem (s : State) (p : Nat) (f : Partition → Partition) : (s.updPart p f).mem = s.mem := rfl
@[simp] theorem State.updPart_presence (s : State) (p : Nat) (f : Partition → Partition) : (s.updPart p f).presence = s.presence := rfl
@[simp] theorem State.updPart_enc (s : State) (p : Nat) (f : Partition → Partition) : (s.updPart p f).enc = s.enc := rfl
@[simp] theorem State.updPart_ecc (s : State) (p : Nat) (f : Partition → Partition) : (s.updPart p f).ecc = s.ecc := rfl
@[simp] theorem State.updPart_deferred (s : State) (p : Nat) (f : Partition → Partition) : (s.updPart p f).deferred = s.deferred := rfl
@[simp] theorem State.updPart_vdevs (s : State) (p : Nat) (f : Partition → Partition) : (s.updPart p f).vdevs = s.vdevs := rfl
@[simp] theorem State.updPart_raisings (s : State) (p : Nat) (f : Partition → Partition) : (s.updPart p f).raisings = s.raisings := rfl
@[simp] theorem State.updPart_queues (s : State) (p : Nat) (f : Partition → Partition) : (s.updPart p f).queues = s.queues := rfl
@[simp] theorem State.updPart_sems (s : State) (p : Nat) (f : Partition → Partition) : (s.updPart p f).sems = s.sems := rfl
@[simp] theorem State.updPart_semReqs (s : State) (p : Nat) (f : Partition → Partition) : (s.updPart p f).semReqs = s.semReqs := rfl
@[simp] theorem State.updPart_reqs (s : State) (p : Nat) (f : Partition → Partition) : (s.updPart p f).reqs = s.reqs := rfl
@[simp] theorem State.updPart_fences (s : State) (p : Nat) (f : Partition → Partition) : (s.updPart p f).fences = s.fences := rfl
@[simp] theorem State.updPart_mcops (s : State) (p : Nat) (f : Partition → Partition) : (s.updPart p f).mcops = s.mcops := rfl
@[simp] theorem State.updPart_groupSets (s : State) (p : Nat) (f : Partition → Partition) : (s.updPart p f).groupSets = s.groupSets := rfl
@[simp] theorem State.updPart_marks (s : State) (p : Nat) (f : Partition → Partition) : (s.updPart p f).marks = s.marks := rfl
@[simp] theorem State.updPart_fqueues (s : State) (p : Nat) (f : Partition → Partition) : (s.updPart p f).fqueues = s.fqueues := rfl
@[simp] theorem State.updPart_inbox (s : State) (p : Nat) (f : Partition → Partition) : (s.updPart p f).inbox = s.inbox := rfl
@[simp] theorem State.updPart_trimths (s : State) (p : Nat) (f : Partition → Partition) : (s.updPart p f).trimths = s.trimths := rfl
@[simp] theorem State.updPart_seqs (s : State) (p : Nat) (f : Partition → Partition) : (s.updPart p f).seqs = s.seqs := rfl
@[simp] theorem State.updPart_copies (s : State) (p : Nat) (f : Partition → Partition) : (s.updPart p f).copies = s.copies := rfl
@[simp] theorem State.updPart_trims (s : State) (p : Nat) (f : Partition → Partition) : (s.updPart p f).trims = s.trims := rfl
@[simp] theorem State.updPart_reorders (s : State) (p : Nat) (f : Partition → Partition) : (s.updPart p f).reorders = s.reorders := rfl
@[simp] theorem State.updPart_dedups (s : State) (p : Nat) (f : Partition → Partition) : (s.updPart p f).dedups = s.dedups := rfl
@[simp] theorem State.updPart_parked (s : State) (p : Nat) (f : Partition → Partition) : (s.updPart p f).parked = s.parked := rfl
@[simp] theorem State.updPart_mccopies (s : State) (p : Nat) (f : Partition → Partition) : (s.updPart p f).mccopies = s.mccopies := rfl
@[simp] theorem State.updPart_groups (s : State) (p : Nat) (f : Partition → Partition) : (s.updPart p f).groups = s.groups := rfl
@[simp] theorem State.updPart_redslots (s : State) (p : Nat) (f : Partition → Partition) : (s.updPart p f).redslots = s.redslots := rfl
@[simp] theorem State.updPart_bulks (s : State) (p : Nat) (f : Partition → Partition) : (s.updPart p f).bulks = s.bulks := rfl
@[simp] theorem State.updPart_down (s : State) (p : Nat) (f : Partition → Partition) : (s.updPart p f).down = s.down := rfl
@[simp] theorem State.updPart_ras (s : State) (p : Nat) (f : Partition → Partition) : (s.updPart p f).ras = s.ras := rfl
@[simp] theorem State.updPart_loads (s : State) (p : Nat) (f : Partition → Partition) : (s.updPart p f).loads = s.loads := rfl
@[simp] theorem State.updPart_reports (s : State) (p : Nat) (f : Partition → Partition) : (s.updPart p f).reports = s.reports := rfl
@[simp] theorem State.updPart_migs (s : State) (p : Nat) (f : Partition → Partition) : (s.updPart p f).migs = s.migs := rfl
@[simp] theorem State.updPart_syncs (s : State) (p : Nat) (f : Partition → Partition) : (s.updPart p f).syncs = s.syncs := rfl
@[simp] theorem State.updPart_ventWins (s : State) (p : Nat) (f : Partition → Partition) : (s.updPart p f).ventWins = s.ventWins := rfl
@[simp] theorem State.updPart_platforms (s : State) (p : Nat) (f : Partition → Partition) : (s.updPart p f).platforms = s.platforms := rfl
@[simp] theorem State.updPart_posts (s : State) (p : Nat) (f : Partition → Partition) : (s.updPart p f).posts = s.posts := rfl
@[simp] theorem State.updPart_checkpoints (s : State) (p : Nat) (f : Partition → Partition) : (s.updPart p f).checkpoints = s.checkpoints := rfl
@[simp] theorem State.updPart_rangeLogs (s : State) (p : Nat) (f : Partition → Partition) : (s.updPart p f).rangeLogs = s.rangeLogs := rfl
@[simp] theorem State.updPart_hostWaits (s : State) (p : Nat) (f : Partition → Partition) : (s.updPart p f).hostWaits = s.hostWaits := rfl
@[simp] theorem State.updQueue_now (s : State) (v : VdRef) (q : Nat) (f : Queue → Queue) : (s.updQueue v q f).now = s.now := rfl
@[simp] theorem State.updQueue_nextId (s : State) (v : VdRef) (q : Nat) (f : Queue → Queue) : (s.updQueue v q f).nextId = s.nextId := rfl
@[simp] theorem State.updQueue_nextRid (s : State) (v : VdRef) (q : Nat) (f : Queue → Queue) : (s.updQueue v q f).nextRid = s.nextRid := rfl
@[simp] theorem State.updQueue_domW (s : State) (v : VdRef) (q : Nat) (f : Queue → Queue) : (s.updQueue v q f).domW = s.domW := rfl
@[simp] theorem State.updQueue_domH (s : State) (v : VdRef) (q : Nat) (f : Queue → Queue) : (s.updQueue v q f).domH = s.domH := rfl
@[simp] theorem State.updQueue_sched (s : State) (v : VdRef) (q : Nat) (f : Queue → Queue) : (s.updQueue v q f).sched = s.sched := rfl
@[simp] theorem State.updQueue_cur (s : State) (v : VdRef) (q : Nat) (f : Queue → Queue) : (s.updQueue v q f).cur = s.cur := rfl
@[simp] theorem State.updQueue_mem (s : State) (v : VdRef) (q : Nat) (f : Queue → Queue) : (s.updQueue v q f).mem = s.mem := rfl
@[simp] theorem State.updQueue_presence (s : State) (v : VdRef) (q : Nat) (f : Queue → Queue) : (s.updQueue v q f).presence = s.presence := rfl
@[simp] theorem State.updQueue_enc (s : State) (v : VdRef) (q : Nat) (f : Queue → Queue) : (s.updQueue v q f).enc = s.enc := rfl
@[simp] theorem State.updQueue_ecc (s : State) (v : VdRef) (q : Nat) (f : Queue → Queue) : (s.updQueue v q f).ecc = s.ecc := rfl
@[simp] theorem State.updQueue_deferred (s : State) (v : VdRef) (q : Nat) (f : Queue → Queue) : (s.updQueue v q f).deferred = s.deferred := rfl
@[simp] theorem State.updQueue_parts (s : State) (v : VdRef) (q : Nat) (f : Queue → Queue) : (s.updQueue v q f).parts = s.parts := rfl
@[simp] theorem State.updQueue_vdevs (s : State) (v : VdRef) (q : Nat) (f : Queue → Queue) : (s.updQueue v q f).vdevs = s.vdevs := rfl
@[simp] theorem State.updQueue_raisings (s : State) (v : VdRef) (q : Nat) (f : Queue → Queue) : (s.updQueue v q f).raisings = s.raisings := rfl
@[simp] theorem State.updQueue_sems (s : State) (v : VdRef) (q : Nat) (f : Queue → Queue) : (s.updQueue v q f).sems = s.sems := rfl
@[simp] theorem State.updQueue_semReqs (s : State) (v : VdRef) (q : Nat) (f : Queue → Queue) : (s.updQueue v q f).semReqs = s.semReqs := rfl
@[simp] theorem State.updQueue_reqs (s : State) (v : VdRef) (q : Nat) (f : Queue → Queue) : (s.updQueue v q f).reqs = s.reqs := rfl
@[simp] theorem State.updQueue_fences (s : State) (v : VdRef) (q : Nat) (f : Queue → Queue) : (s.updQueue v q f).fences = s.fences := rfl
@[simp] theorem State.updQueue_mcops (s : State) (v : VdRef) (q : Nat) (f : Queue → Queue) : (s.updQueue v q f).mcops = s.mcops := rfl
@[simp] theorem State.updQueue_groupSets (s : State) (v : VdRef) (q : Nat) (f : Queue → Queue) : (s.updQueue v q f).groupSets = s.groupSets := rfl
@[simp] theorem State.updQueue_marks (s : State) (v : VdRef) (q : Nat) (f : Queue → Queue) : (s.updQueue v q f).marks = s.marks := rfl
@[simp] theorem State.updQueue_fqueues (s : State) (v : VdRef) (q : Nat) (f : Queue → Queue) : (s.updQueue v q f).fqueues = s.fqueues := rfl
@[simp] theorem State.updQueue_inbox (s : State) (v : VdRef) (q : Nat) (f : Queue → Queue) : (s.updQueue v q f).inbox = s.inbox := rfl
@[simp] theorem State.updQueue_trimths (s : State) (v : VdRef) (q : Nat) (f : Queue → Queue) : (s.updQueue v q f).trimths = s.trimths := rfl
@[simp] theorem State.updQueue_seqs (s : State) (v : VdRef) (q : Nat) (f : Queue → Queue) : (s.updQueue v q f).seqs = s.seqs := rfl
@[simp] theorem State.updQueue_copies (s : State) (v : VdRef) (q : Nat) (f : Queue → Queue) : (s.updQueue v q f).copies = s.copies := rfl
@[simp] theorem State.updQueue_trims (s : State) (v : VdRef) (q : Nat) (f : Queue → Queue) : (s.updQueue v q f).trims = s.trims := rfl
@[simp] theorem State.updQueue_reorders (s : State) (v : VdRef) (q : Nat) (f : Queue → Queue) : (s.updQueue v q f).reorders = s.reorders := rfl
@[simp] theorem State.updQueue_dedups (s : State) (v : VdRef) (q : Nat) (f : Queue → Queue) : (s.updQueue v q f).dedups = s.dedups := rfl
@[simp] theorem State.updQueue_parked (s : State) (v : VdRef) (q : Nat) (f : Queue → Queue) : (s.updQueue v q f).parked = s.parked := rfl
@[simp] theorem State.updQueue_mccopies (s : State) (v : VdRef) (q : Nat) (f : Queue → Queue) : (s.updQueue v q f).mccopies = s.mccopies := rfl
@[simp] theorem State.updQueue_groups (s : State) (v : VdRef) (q : Nat) (f : Queue → Queue) : (s.updQueue v q f).groups = s.groups := rfl
@[simp] theorem State.updQueue_redslots (s : State) (v : VdRef) (q : Nat) (f : Queue → Queue) : (s.updQueue v q f).redslots = s.redslots := rfl
@[simp] theorem State.updQueue_bulks (s : State) (v : VdRef) (q : Nat) (f : Queue → Queue) : (s.updQueue v q f).bulks = s.bulks := rfl
@[simp] theorem State.updQueue_down (s : State) (v : VdRef) (q : Nat) (f : Queue → Queue) : (s.updQueue v q f).down = s.down := rfl
@[simp] theorem State.updQueue_ras (s : State) (v : VdRef) (q : Nat) (f : Queue → Queue) : (s.updQueue v q f).ras = s.ras := rfl
@[simp] theorem State.updQueue_loads (s : State) (v : VdRef) (q : Nat) (f : Queue → Queue) : (s.updQueue v q f).loads = s.loads := rfl
@[simp] theorem State.updQueue_reports (s : State) (v : VdRef) (q : Nat) (f : Queue → Queue) : (s.updQueue v q f).reports = s.reports := rfl
@[simp] theorem State.updQueue_migs (s : State) (v : VdRef) (q : Nat) (f : Queue → Queue) : (s.updQueue v q f).migs = s.migs := rfl
@[simp] theorem State.updQueue_syncs (s : State) (v : VdRef) (q : Nat) (f : Queue → Queue) : (s.updQueue v q f).syncs = s.syncs := rfl
@[simp] theorem State.updQueue_ventWins (s : State) (v : VdRef) (q : Nat) (f : Queue → Queue) : (s.updQueue v q f).ventWins = s.ventWins := rfl
@[simp] theorem State.updQueue_platforms (s : State) (v : VdRef) (q : Nat) (f : Queue → Queue) : (s.updQueue v q f).platforms = s.platforms := rfl
@[simp] theorem State.updQueue_posts (s : State) (v : VdRef) (q : Nat) (f : Queue → Queue) : (s.updQueue v q f).posts = s.posts := rfl
@[simp] theorem State.updQueue_checkpoints (s : State) (v : VdRef) (q : Nat) (f : Queue → Queue) : (s.updQueue v q f).checkpoints = s.checkpoints := rfl
@[simp] theorem State.updQueue_rangeLogs (s : State) (v : VdRef) (q : Nat) (f : Queue → Queue) : (s.updQueue v q f).rangeLogs = s.rangeLogs := rfl
@[simp] theorem State.updQueue_hostWaits (s : State) (v : VdRef) (q : Nat) (f : Queue → Queue) : (s.updQueue v q f).hostWaits = s.hostWaits := rfl
@[simp] theorem State.updPlat_now (s : State) (p : Pkg) (f : Platform → Platform) : (s.updPlat p f).now = s.now := rfl
@[simp] theorem State.updPlat_nextId (s : State) (p : Pkg) (f : Platform → Platform) : (s.updPlat p f).nextId = s.nextId := rfl
@[simp] theorem State.updPlat_nextRid (s : State) (p : Pkg) (f : Platform → Platform) : (s.updPlat p f).nextRid = s.nextRid := rfl
@[simp] theorem State.updPlat_domW (s : State) (p : Pkg) (f : Platform → Platform) : (s.updPlat p f).domW = s.domW := rfl
@[simp] theorem State.updPlat_domH (s : State) (p : Pkg) (f : Platform → Platform) : (s.updPlat p f).domH = s.domH := rfl
@[simp] theorem State.updPlat_sched (s : State) (p : Pkg) (f : Platform → Platform) : (s.updPlat p f).sched = s.sched := rfl
@[simp] theorem State.updPlat_cur (s : State) (p : Pkg) (f : Platform → Platform) : (s.updPlat p f).cur = s.cur := rfl
@[simp] theorem State.updPlat_mem (s : State) (p : Pkg) (f : Platform → Platform) : (s.updPlat p f).mem = s.mem := rfl
@[simp] theorem State.updPlat_presence (s : State) (p : Pkg) (f : Platform → Platform) : (s.updPlat p f).presence = s.presence := rfl
@[simp] theorem State.updPlat_enc (s : State) (p : Pkg) (f : Platform → Platform) : (s.updPlat p f).enc = s.enc := rfl
@[simp] theorem State.updPlat_ecc (s : State) (p : Pkg) (f : Platform → Platform) : (s.updPlat p f).ecc = s.ecc := rfl
@[simp] theorem State.updPlat_deferred (s : State) (p : Pkg) (f : Platform → Platform) : (s.updPlat p f).deferred = s.deferred := rfl
@[simp] theorem State.updPlat_parts (s : State) (p : Pkg) (f : Platform → Platform) : (s.updPlat p f).parts = s.parts := rfl
@[simp] theorem State.updPlat_vdevs (s : State) (p : Pkg) (f : Platform → Platform) : (s.updPlat p f).vdevs = s.vdevs := rfl
@[simp] theorem State.updPlat_raisings (s : State) (p : Pkg) (f : Platform → Platform) : (s.updPlat p f).raisings = s.raisings := rfl
@[simp] theorem State.updPlat_queues (s : State) (p : Pkg) (f : Platform → Platform) : (s.updPlat p f).queues = s.queues := rfl
@[simp] theorem State.updPlat_sems (s : State) (p : Pkg) (f : Platform → Platform) : (s.updPlat p f).sems = s.sems := rfl
@[simp] theorem State.updPlat_semReqs (s : State) (p : Pkg) (f : Platform → Platform) : (s.updPlat p f).semReqs = s.semReqs := rfl
@[simp] theorem State.updPlat_reqs (s : State) (p : Pkg) (f : Platform → Platform) : (s.updPlat p f).reqs = s.reqs := rfl
@[simp] theorem State.updPlat_fences (s : State) (p : Pkg) (f : Platform → Platform) : (s.updPlat p f).fences = s.fences := rfl
@[simp] theorem State.updPlat_mcops (s : State) (p : Pkg) (f : Platform → Platform) : (s.updPlat p f).mcops = s.mcops := rfl
@[simp] theorem State.updPlat_groupSets (s : State) (p : Pkg) (f : Platform → Platform) : (s.updPlat p f).groupSets = s.groupSets := rfl
@[simp] theorem State.updPlat_marks (s : State) (p : Pkg) (f : Platform → Platform) : (s.updPlat p f).marks = s.marks := rfl
@[simp] theorem State.updPlat_fqueues (s : State) (p : Pkg) (f : Platform → Platform) : (s.updPlat p f).fqueues = s.fqueues := rfl
@[simp] theorem State.updPlat_inbox (s : State) (p : Pkg) (f : Platform → Platform) : (s.updPlat p f).inbox = s.inbox := rfl
@[simp] theorem State.updPlat_trimths (s : State) (p : Pkg) (f : Platform → Platform) : (s.updPlat p f).trimths = s.trimths := rfl
@[simp] theorem State.updPlat_seqs (s : State) (p : Pkg) (f : Platform → Platform) : (s.updPlat p f).seqs = s.seqs := rfl
@[simp] theorem State.updPlat_copies (s : State) (p : Pkg) (f : Platform → Platform) : (s.updPlat p f).copies = s.copies := rfl
@[simp] theorem State.updPlat_trims (s : State) (p : Pkg) (f : Platform → Platform) : (s.updPlat p f).trims = s.trims := rfl
@[simp] theorem State.updPlat_reorders (s : State) (p : Pkg) (f : Platform → Platform) : (s.updPlat p f).reorders = s.reorders := rfl
@[simp] theorem State.updPlat_dedups (s : State) (p : Pkg) (f : Platform → Platform) : (s.updPlat p f).dedups = s.dedups := rfl
@[simp] theorem State.updPlat_parked (s : State) (p : Pkg) (f : Platform → Platform) : (s.updPlat p f).parked = s.parked := rfl
@[simp] theorem State.updPlat_mccopies (s : State) (p : Pkg) (f : Platform → Platform) : (s.updPlat p f).mccopies = s.mccopies := rfl
@[simp] theorem State.updPlat_groups (s : State) (p : Pkg) (f : Platform → Platform) : (s.updPlat p f).groups = s.groups := rfl
@[simp] theorem State.updPlat_redslots (s : State) (p : Pkg) (f : Platform → Platform) : (s.updPlat p f).redslots = s.redslots := rfl
@[simp] theorem State.updPlat_bulks (s : State) (p : Pkg) (f : Platform → Platform) : (s.updPlat p f).bulks = s.bulks := rfl
@[simp] theorem State.updPlat_down (s : State) (p : Pkg) (f : Platform → Platform) : (s.updPlat p f).down = s.down := rfl
@[simp] theorem State.updPlat_ras (s : State) (p : Pkg) (f : Platform → Platform) : (s.updPlat p f).ras = s.ras := rfl
@[simp] theorem State.updPlat_loads (s : State) (p : Pkg) (f : Platform → Platform) : (s.updPlat p f).loads = s.loads := rfl
@[simp] theorem State.updPlat_reports (s : State) (p : Pkg) (f : Platform → Platform) : (s.updPlat p f).reports = s.reports := rfl
@[simp] theorem State.updPlat_migs (s : State) (p : Pkg) (f : Platform → Platform) : (s.updPlat p f).migs = s.migs := rfl
@[simp] theorem State.updPlat_syncs (s : State) (p : Pkg) (f : Platform → Platform) : (s.updPlat p f).syncs = s.syncs := rfl
@[simp] theorem State.updPlat_ventWins (s : State) (p : Pkg) (f : Platform → Platform) : (s.updPlat p f).ventWins = s.ventWins := rfl
@[simp] theorem State.updPlat_posts (s : State) (p : Pkg) (f : Platform → Platform) : (s.updPlat p f).posts = s.posts := rfl
@[simp] theorem State.updPlat_checkpoints (s : State) (p : Pkg) (f : Platform → Platform) : (s.updPlat p f).checkpoints = s.checkpoints := rfl
@[simp] theorem State.updPlat_rangeLogs (s : State) (p : Pkg) (f : Platform → Platform) : (s.updPlat p f).rangeLogs = s.rangeLogs := rfl
@[simp] theorem State.updPlat_hostWaits (s : State) (p : Pkg) (f : Platform → Platform) : (s.updPlat p f).hostWaits = s.hostWaits := rfl
@[simp] theorem State.updReq_now (s : State) (id : Nat) (f : Req → Req) : (s.updReq id f).now = s.now := rfl
@[simp] theorem State.updReq_nextId (s : State) (id : Nat) (f : Req → Req) : (s.updReq id f).nextId = s.nextId := rfl
@[simp] theorem State.updReq_nextRid (s : State) (id : Nat) (f : Req → Req) : (s.updReq id f).nextRid = s.nextRid := rfl
@[simp] theorem State.updReq_domW (s : State) (id : Nat) (f : Req → Req) : (s.updReq id f).domW = s.domW := rfl
@[simp] theorem State.updReq_domH (s : State) (id : Nat) (f : Req → Req) : (s.updReq id f).domH = s.domH := rfl
@[simp] theorem State.updReq_sched (s : State) (id : Nat) (f : Req → Req) : (s.updReq id f).sched = s.sched := rfl
@[simp] theorem State.updReq_cur (s : State) (id : Nat) (f : Req → Req) : (s.updReq id f).cur = s.cur := rfl
@[simp] theorem State.updReq_mem (s : State) (id : Nat) (f : Req → Req) : (s.updReq id f).mem = s.mem := rfl
@[simp] theorem State.updReq_presence (s : State) (id : Nat) (f : Req → Req) : (s.updReq id f).presence = s.presence := rfl
@[simp] theorem State.updReq_enc (s : State) (id : Nat) (f : Req → Req) : (s.updReq id f).enc = s.enc := rfl
@[simp] theorem State.updReq_ecc (s : State) (id : Nat) (f : Req → Req) : (s.updReq id f).ecc = s.ecc := rfl
@[simp] theorem State.updReq_deferred (s : State) (id : Nat) (f : Req → Req) : (s.updReq id f).deferred = s.deferred := rfl
@[simp] theorem State.updReq_parts (s : State) (id : Nat) (f : Req → Req) : (s.updReq id f).parts = s.parts := rfl
@[simp] theorem State.updReq_vdevs (s : State) (id : Nat) (f : Req → Req) : (s.updReq id f).vdevs = s.vdevs := rfl
@[simp] theorem State.updReq_raisings (s : State) (id : Nat) (f : Req → Req) : (s.updReq id f).raisings = s.raisings := rfl
@[simp] theorem State.updReq_queues (s : State) (id : Nat) (f : Req → Req) : (s.updReq id f).queues = s.queues := rfl
@[simp] theorem State.updReq_sems (s : State) (id : Nat) (f : Req → Req) : (s.updReq id f).sems = s.sems := rfl
@[simp] theorem State.updReq_semReqs (s : State) (id : Nat) (f : Req → Req) : (s.updReq id f).semReqs = s.semReqs := rfl
@[simp] theorem State.updReq_fences (s : State) (id : Nat) (f : Req → Req) : (s.updReq id f).fences = s.fences := rfl
@[simp] theorem State.updReq_mcops (s : State) (id : Nat) (f : Req → Req) : (s.updReq id f).mcops = s.mcops := rfl
@[simp] theorem State.updReq_groupSets (s : State) (id : Nat) (f : Req → Req) : (s.updReq id f).groupSets = s.groupSets := rfl
@[simp] theorem State.updReq_marks (s : State) (id : Nat) (f : Req → Req) : (s.updReq id f).marks = s.marks := rfl
@[simp] theorem State.updReq_fqueues (s : State) (id : Nat) (f : Req → Req) : (s.updReq id f).fqueues = s.fqueues := rfl
@[simp] theorem State.updReq_inbox (s : State) (id : Nat) (f : Req → Req) : (s.updReq id f).inbox = s.inbox := rfl
@[simp] theorem State.updReq_trimths (s : State) (id : Nat) (f : Req → Req) : (s.updReq id f).trimths = s.trimths := rfl
@[simp] theorem State.updReq_seqs (s : State) (id : Nat) (f : Req → Req) : (s.updReq id f).seqs = s.seqs := rfl
@[simp] theorem State.updReq_copies (s : State) (id : Nat) (f : Req → Req) : (s.updReq id f).copies = s.copies := rfl
@[simp] theorem State.updReq_trims (s : State) (id : Nat) (f : Req → Req) : (s.updReq id f).trims = s.trims := rfl
@[simp] theorem State.updReq_reorders (s : State) (id : Nat) (f : Req → Req) : (s.updReq id f).reorders = s.reorders := rfl
@[simp] theorem State.updReq_dedups (s : State) (id : Nat) (f : Req → Req) : (s.updReq id f).dedups = s.dedups := rfl
@[simp] theorem State.updReq_parked (s : State) (id : Nat) (f : Req → Req) : (s.updReq id f).parked = s.parked := rfl
@[simp] theorem State.updReq_mccopies (s : State) (id : Nat) (f : Req → Req) : (s.updReq id f).mccopies = s.mccopies := rfl
@[simp] theorem State.updReq_groups (s : State) (id : Nat) (f : Req → Req) : (s.updReq id f).groups = s.groups := rfl
@[simp] theorem State.updReq_redslots (s : State) (id : Nat) (f : Req → Req) : (s.updReq id f).redslots = s.redslots := rfl
@[simp] theorem State.updReq_bulks (s : State) (id : Nat) (f : Req → Req) : (s.updReq id f).bulks = s.bulks := rfl
@[simp] theorem State.updReq_down (s : State) (id : Nat) (f : Req → Req) : (s.updReq id f).down = s.down := rfl
@[simp] theorem State.updReq_ras (s : State) (id : Nat) (f : Req → Req) : (s.updReq id f).ras = s.ras := rfl
@[simp] theorem State.updReq_loads (s : State) (id : Nat) (f : Req → Req) : (s.updReq id f).loads = s.loads := rfl
@[simp] theorem State.updReq_reports (s : State) (id : Nat) (f : Req → Req) : (s.updReq id f).reports = s.reports := rfl
@[simp] theorem State.updReq_migs (s : State) (id : Nat) (f : Req → Req) : (s.updReq id f).migs = s.migs := rfl
@[simp] theorem State.updReq_syncs (s : State) (id : Nat) (f : Req → Req) : (s.updReq id f).syncs = s.syncs := rfl
@[simp] theorem State.updReq_ventWins (s : State) (id : Nat) (f : Req → Req) : (s.updReq id f).ventWins = s.ventWins := rfl
@[simp] theorem State.updReq_platforms (s : State) (id : Nat) (f : Req → Req) : (s.updReq id f).platforms = s.platforms := rfl
@[simp] theorem State.updReq_posts (s : State) (id : Nat) (f : Req → Req) : (s.updReq id f).posts = s.posts := rfl
@[simp] theorem State.updReq_checkpoints (s : State) (id : Nat) (f : Req → Req) : (s.updReq id f).checkpoints = s.checkpoints := rfl
@[simp] theorem State.updReq_rangeLogs (s : State) (id : Nat) (f : Req → Req) : (s.updReq id f).rangeLogs = s.rangeLogs := rfl
@[simp] theorem State.updReq_hostWaits (s : State) (id : Nat) (f : Req → Req) : (s.updReq id f).hostWaits = s.hostWaits := rfl
@[simp] theorem State.dropReq_now (s : State) (id : Nat) : (s.dropReq id).now = s.now := rfl
@[simp] theorem State.dropReq_nextId (s : State) (id : Nat) : (s.dropReq id).nextId = s.nextId := rfl
@[simp] theorem State.dropReq_nextRid (s : State) (id : Nat) : (s.dropReq id).nextRid = s.nextRid := rfl
@[simp] theorem State.dropReq_domW (s : State) (id : Nat) : (s.dropReq id).domW = s.domW := rfl
@[simp] theorem State.dropReq_domH (s : State) (id : Nat) : (s.dropReq id).domH = s.domH := rfl
@[simp] theorem State.dropReq_sched (s : State) (id : Nat) : (s.dropReq id).sched = s.sched := rfl
@[simp] theorem State.dropReq_cur (s : State) (id : Nat) : (s.dropReq id).cur = s.cur := rfl
@[simp] theorem State.dropReq_mem (s : State) (id : Nat) : (s.dropReq id).mem = s.mem := rfl
@[simp] theorem State.dropReq_presence (s : State) (id : Nat) : (s.dropReq id).presence = s.presence := rfl
@[simp] theorem State.dropReq_enc (s : State) (id : Nat) : (s.dropReq id).enc = s.enc := rfl
@[simp] theorem State.dropReq_ecc (s : State) (id : Nat) : (s.dropReq id).ecc = s.ecc := rfl
@[simp] theorem State.dropReq_deferred (s : State) (id : Nat) : (s.dropReq id).deferred = s.deferred := rfl
@[simp] theorem State.dropReq_parts (s : State) (id : Nat) : (s.dropReq id).parts = s.parts := rfl
@[simp] theorem State.dropReq_vdevs (s : State) (id : Nat) : (s.dropReq id).vdevs = s.vdevs := rfl
@[simp] theorem State.dropReq_raisings (s : State) (id : Nat) : (s.dropReq id).raisings = s.raisings := rfl
@[simp] theorem State.dropReq_queues (s : State) (id : Nat) : (s.dropReq id).queues = s.queues := rfl
@[simp] theorem State.dropReq_sems (s : State) (id : Nat) : (s.dropReq id).sems = s.sems := rfl
@[simp] theorem State.dropReq_semReqs (s : State) (id : Nat) : (s.dropReq id).semReqs = s.semReqs := rfl
@[simp] theorem State.dropReq_fences (s : State) (id : Nat) : (s.dropReq id).fences = s.fences := rfl
@[simp] theorem State.dropReq_mcops (s : State) (id : Nat) : (s.dropReq id).mcops = s.mcops := rfl
@[simp] theorem State.dropReq_groupSets (s : State) (id : Nat) : (s.dropReq id).groupSets = s.groupSets := rfl
@[simp] theorem State.dropReq_marks (s : State) (id : Nat) : (s.dropReq id).marks = s.marks := rfl
@[simp] theorem State.dropReq_fqueues (s : State) (id : Nat) : (s.dropReq id).fqueues = s.fqueues := rfl
@[simp] theorem State.dropReq_inbox (s : State) (id : Nat) : (s.dropReq id).inbox = s.inbox := rfl
@[simp] theorem State.dropReq_trimths (s : State) (id : Nat) : (s.dropReq id).trimths = s.trimths := rfl
@[simp] theorem State.dropReq_seqs (s : State) (id : Nat) : (s.dropReq id).seqs = s.seqs := rfl
@[simp] theorem State.dropReq_copies (s : State) (id : Nat) : (s.dropReq id).copies = s.copies := rfl
@[simp] theorem State.dropReq_trims (s : State) (id : Nat) : (s.dropReq id).trims = s.trims := rfl
@[simp] theorem State.dropReq_reorders (s : State) (id : Nat) : (s.dropReq id).reorders = s.reorders := rfl
@[simp] theorem State.dropReq_dedups (s : State) (id : Nat) : (s.dropReq id).dedups = s.dedups := rfl
@[simp] theorem State.dropReq_parked (s : State) (id : Nat) : (s.dropReq id).parked = s.parked := rfl
@[simp] theorem State.dropReq_mccopies (s : State) (id : Nat) : (s.dropReq id).mccopies = s.mccopies := rfl
@[simp] theorem State.dropReq_groups (s : State) (id : Nat) : (s.dropReq id).groups = s.groups := rfl
@[simp] theorem State.dropReq_redslots (s : State) (id : Nat) : (s.dropReq id).redslots = s.redslots := rfl
@[simp] theorem State.dropReq_bulks (s : State) (id : Nat) : (s.dropReq id).bulks = s.bulks := rfl
@[simp] theorem State.dropReq_down (s : State) (id : Nat) : (s.dropReq id).down = s.down := rfl
@[simp] theorem State.dropReq_ras (s : State) (id : Nat) : (s.dropReq id).ras = s.ras := rfl
@[simp] theorem State.dropReq_loads (s : State) (id : Nat) : (s.dropReq id).loads = s.loads := rfl
@[simp] theorem State.dropReq_reports (s : State) (id : Nat) : (s.dropReq id).reports = s.reports := rfl
@[simp] theorem State.dropReq_migs (s : State) (id : Nat) : (s.dropReq id).migs = s.migs := rfl
@[simp] theorem State.dropReq_syncs (s : State) (id : Nat) : (s.dropReq id).syncs = s.syncs := rfl
@[simp] theorem State.dropReq_ventWins (s : State) (id : Nat) : (s.dropReq id).ventWins = s.ventWins := rfl
@[simp] theorem State.dropReq_platforms (s : State) (id : Nat) : (s.dropReq id).platforms = s.platforms := rfl
@[simp] theorem State.dropReq_posts (s : State) (id : Nat) : (s.dropReq id).posts = s.posts := rfl
@[simp] theorem State.dropReq_checkpoints (s : State) (id : Nat) : (s.dropReq id).checkpoints = s.checkpoints := rfl
@[simp] theorem State.dropReq_rangeLogs (s : State) (id : Nat) : (s.dropReq id).rangeLogs = s.rangeLogs := rfl
@[simp] theorem State.dropReq_hostWaits (s : State) (id : Nat) : (s.dropReq id).hostWaits = s.hostWaits := rfl
@[simp] theorem State.newId_now (s : State) : s.newId.2.now = s.now := rfl
@[simp] theorem State.newId_nextRid (s : State) : s.newId.2.nextRid = s.nextRid := rfl
@[simp] theorem State.newId_domW (s : State) : s.newId.2.domW = s.domW := rfl
@[simp] theorem State.newId_domH (s : State) : s.newId.2.domH = s.domH := rfl
@[simp] theorem State.newId_sched (s : State) : s.newId.2.sched = s.sched := rfl
@[simp] theorem State.newId_cur (s : State) : s.newId.2.cur = s.cur := rfl
@[simp] theorem State.newId_mem (s : State) : s.newId.2.mem = s.mem := rfl
@[simp] theorem State.newId_presence (s : State) : s.newId.2.presence = s.presence := rfl
@[simp] theorem State.newId_enc (s : State) : s.newId.2.enc = s.enc := rfl
@[simp] theorem State.newId_ecc (s : State) : s.newId.2.ecc = s.ecc := rfl
@[simp] theorem State.newId_deferred (s : State) : s.newId.2.deferred = s.deferred := rfl
@[simp] theorem State.newId_parts (s : State) : s.newId.2.parts = s.parts := rfl
@[simp] theorem State.newId_vdevs (s : State) : s.newId.2.vdevs = s.vdevs := rfl
@[simp] theorem State.newId_raisings (s : State) : s.newId.2.raisings = s.raisings := rfl
@[simp] theorem State.newId_queues (s : State) : s.newId.2.queues = s.queues := rfl
@[simp] theorem State.newId_sems (s : State) : s.newId.2.sems = s.sems := rfl
@[simp] theorem State.newId_semReqs (s : State) : s.newId.2.semReqs = s.semReqs := rfl
@[simp] theorem State.newId_reqs (s : State) : s.newId.2.reqs = s.reqs := rfl
@[simp] theorem State.newId_fences (s : State) : s.newId.2.fences = s.fences := rfl
@[simp] theorem State.newId_mcops (s : State) : s.newId.2.mcops = s.mcops := rfl
@[simp] theorem State.newId_groupSets (s : State) : s.newId.2.groupSets = s.groupSets := rfl
@[simp] theorem State.newId_marks (s : State) : s.newId.2.marks = s.marks := rfl
@[simp] theorem State.newId_fqueues (s : State) : s.newId.2.fqueues = s.fqueues := rfl
@[simp] theorem State.newId_inbox (s : State) : s.newId.2.inbox = s.inbox := rfl
@[simp] theorem State.newId_trimths (s : State) : s.newId.2.trimths = s.trimths := rfl
@[simp] theorem State.newId_seqs (s : State) : s.newId.2.seqs = s.seqs := rfl
@[simp] theorem State.newId_copies (s : State) : s.newId.2.copies = s.copies := rfl
@[simp] theorem State.newId_trims (s : State) : s.newId.2.trims = s.trims := rfl
@[simp] theorem State.newId_reorders (s : State) : s.newId.2.reorders = s.reorders := rfl
@[simp] theorem State.newId_dedups (s : State) : s.newId.2.dedups = s.dedups := rfl
@[simp] theorem State.newId_parked (s : State) : s.newId.2.parked = s.parked := rfl
@[simp] theorem State.newId_mccopies (s : State) : s.newId.2.mccopies = s.mccopies := rfl
@[simp] theorem State.newId_groups (s : State) : s.newId.2.groups = s.groups := rfl
@[simp] theorem State.newId_redslots (s : State) : s.newId.2.redslots = s.redslots := rfl
@[simp] theorem State.newId_bulks (s : State) : s.newId.2.bulks = s.bulks := rfl
@[simp] theorem State.newId_down (s : State) : s.newId.2.down = s.down := rfl
@[simp] theorem State.newId_ras (s : State) : s.newId.2.ras = s.ras := rfl
@[simp] theorem State.newId_loads (s : State) : s.newId.2.loads = s.loads := rfl
@[simp] theorem State.newId_reports (s : State) : s.newId.2.reports = s.reports := rfl
@[simp] theorem State.newId_migs (s : State) : s.newId.2.migs = s.migs := rfl
@[simp] theorem State.newId_syncs (s : State) : s.newId.2.syncs = s.syncs := rfl
@[simp] theorem State.newId_ventWins (s : State) : s.newId.2.ventWins = s.ventWins := rfl
@[simp] theorem State.newId_platforms (s : State) : s.newId.2.platforms = s.platforms := rfl
@[simp] theorem State.newId_posts (s : State) : s.newId.2.posts = s.posts := rfl
@[simp] theorem State.newId_checkpoints (s : State) : s.newId.2.checkpoints = s.checkpoints := rfl
@[simp] theorem State.newId_rangeLogs (s : State) : s.newId.2.rangeLogs = s.rangeLogs := rfl
@[simp] theorem State.newId_hostWaits (s : State) : s.newId.2.hostWaits = s.hostWaits := rfl

end Sys2Proof.Machine
end

