-- ==== Sys2Proof/Laws/Ops.lean ====
section
/-! SUPPORT. What the shared operations can do, said once each: finding after changing, sending and emitting tokens, raising flags. -/

namespace Sys2Proof.Machine

open Sys2Proof

/-! ## Lists changed in place -/

theorem updIf_map_eq {α β : Type} (l : List α) (c : α → Bool) (f : α → α) (g : α → β) (h : ∀ x, g (f x) = g x) :
    (updIf l c f).map g = l.map g := by
  simp only [updIf, List.map_map]
  refine List.map_congr_left fun x _ => ?_
  simp only [Function.comp]
  split <;> simp [h]

theorem modify_map_eq {α β : Type} (l : List α) (n : Nat) (f : α → α) (g : α → β) (h : ∀ x, g (f x) = g x) :
    (l.modify n f).map g = l.map g := by
  apply List.ext_getElem?
  intro i
  simp only [List.getElem?_map, List.getElem?_modify]
  split <;> cases l[i]? <;> simp [h]

/-- Finding by a key after changing what has that key. -/
theorem find?_updIf {α : Type} (l : List α) (c d : α → Bool) (f : α → α) (hd : ∀ x, d (f x) = d x) :
    (updIf l c f).find? d = (l.find? d).map (fun x => if c x then f x else x) := by
  induction l with
  | nil => rfl
  | cons x xs ih =>
    simp only [updIf, List.map_cons, List.find?_cons] at ih ⊢
    have : d (if c x then f x else x) = d x := by split <;> simp [hd]
    rw [this]
    cases d x <;> simp [ih]

/-! ## Finding a part after changing a part -/

theorem State.raising?_updRaising (s : State) (rid id : Nat) (f : Raising → Raising) (hf : ∀ r, (f r).rid = r.rid) :
    (s.updRaising rid f).raising? id = if id = rid then (s.raising? id).map f else s.raising? id := by
  simp only [State.raising?, State.updRaising]
  rw [find?_updIf _ _ _ _ (fun x => by rw [hf])]
  cases h' : s.raisings.find? (fun x => x.rid == id) with
  | none => split <;> rfl
  | some r =>
    have := List.find?_some h'
    simp only [beq_iff_eq] at this
    simp only [Option.map_some, this, beq_iff_eq]
    split <;> simp_all

theorem State.bent?_updBent (s : State) (br b : BentRef) (f : Bent → Bent) :
    (s.updBent br f).bent? b = if b = br then (s.bent? b).map f else s.bent? b := by
  simp only [State.bent?, State.updBent]
  rw [State.raising?_updRaising]
  · split
    · next h =>
      split
      · next h2 => subst h2; cases s.raising? b.rid <;> simp
      · next h2 => cases h3 : s.raising? b.rid with
        | none => rfl
        | some r =>
          have : br.bent ≠ b.bent := fun e => h2 (by cases b; cases br; simp_all)
          simp [List.getElem?_modify, this]
    · next h =>
      split
      · next h2 => exact absurd (by rw [h2]) h
      · rfl
  · intro r; rfl

theorem State.elem?_updElem (s : State) (br b : BentRef) (cx cy x y : Nat) (f : Elem → Elem)
    (hf : ∀ e, (f e).cx = e.cx ∧ (f e).cy = e.cy) :
    (s.updElem br cx cy f).elem? b x y = if b = br ∧ x = cx ∧ y = cy then (s.elem? b x y).map f else s.elem? b x y := by
  simp only [State.elem?, State.updElem, State.bent?_updBent]
  by_cases h : b = br
  · subst h
    simp only [if_true, true_and]
    cases h1 : s.bent? b with
    | none => simp
    | some k =>
      simp only [Option.map_some, Option.bind_some, Bent.elem?]
      rw [find?_updIf _ _ _ _ (fun e => by rw [(hf e).1, (hf e).2])]
      cases h' : k.elems.find? (fun e => e.cx == x && e.cy == y) with
      | none => simp
      | some e =>
        have := List.find?_some h'
        simp only [Bool.and_eq_true, beq_iff_eq] at this
        simp only [Option.map_some, this.1, this.2, Bool.and_eq_true, beq_iff_eq]
        split <;> simp_all
  · simp [h]

theorem State.elem?_updBent (s : State) (br b : BentRef) (x y : Nat) (f : Bent → Bent) (hf : ∀ k, (f k).elems = k.elems) :
    (s.updBent br f).elem? b x y = s.elem? b x y := by
  simp only [State.elem?, State.bent?_updBent]
  split
  · cases s.bent? b <;> simp [Bent.elem?, hf]
  · rfl

theorem State.vdev?_updVdev (s : State) (v w : VdRef) (f : Vdev → Vdev) (hf : ∀ d, (f d).vdr = d.vdr) :
    (s.updVdev v f).vdev? w = if w = v then (s.vdev? w).map f else s.vdev? w := by
  simp only [State.vdev?, State.updVdev]
  rw [find?_updIf _ _ _ _ (fun x => by rw [hf])]
  cases h' : s.vdevs.find? (fun x => x.vdr == w) with
  | none => split <;> rfl
  | some r =>
    have := List.find?_some h'
    simp only [beq_iff_eq] at this
    simp only [Option.map_some, this, beq_iff_eq]
    split <;> simp_all

theorem State.plat?_updPlat (s : State) (p q : Pkg) (f : Platform → Platform) (hf : ∀ d, (f d).pkg = d.pkg) :
    (s.updPlat p f).plat? q = if q = p then (s.plat? q).map f else s.plat? q := by
  simp only [State.plat?, State.updPlat]
  rw [find?_updIf _ _ _ _ (fun x => by rw [hf])]
  cases h' : s.platforms.find? (fun x => x.pkg == q) with
  | none => split <;> rfl
  | some r =>
    have := List.find?_some h'
    simp only [beq_iff_eq] at this
    simp only [Option.map_some, this, beq_iff_eq]
    split <;> simp_all

theorem State.part?_updPart (s : State) (p q : Nat) (f : Partition → Partition) (hf : ∀ d, (f d).lay = d.lay) :
    (s.updPart p f).part? q = if q = p then (s.part? q).map f else s.part? q := by
  simp only [State.part?, State.updPart]
  rw [find?_updIf _ _ _ _ (fun x => by rw [hf])]
  cases h' : s.parts.find? (fun x => x.lay.part == q) with
  | none => split <;> rfl
  | some r =>
    have := List.find?_some h'
    simp only [beq_iff_eq] at this
    simp only [Option.map_some, this, beq_iff_eq]
    split <;> simp_all

theorem State.queue?_updQueue (s : State) (v w : VdRef) (q r : Nat) (f : Queue → Queue) (hf : ∀ d, (f d).vdr = d.vdr ∧ (f d).q = d.q) :
    (s.updQueue v q f).queue? w r = if w = v ∧ r = q then (s.queue? w r).map f else s.queue? w r := by
  simp only [State.queue?, State.updQueue]
  rw [find?_updIf _ _ _ _ (fun x => by rw [(hf x).1, (hf x).2])]
  cases h' : s.queues.find? (fun x => x.vdr == w && x.q == r) with
  | none => split <;> rfl
  | some x =>
    have := List.find?_some h'
    simp only [Bool.and_eq_true, beq_iff_eq] at this
    simp only [Option.map_some, this.1, this.2, Bool.and_eq_true, beq_iff_eq]
    split <;> simp_all

theorem State.req?_updReq (s : State) (i j : Nat) (f : Req → Req) (hf : ∀ d, (f d).id = d.id) :
    (s.updReq i f).req? j = if j = i then (s.req? j).map f else s.req? j := by
  simp only [State.req?, State.updReq]
  rw [find?_updIf _ _ _ _ (fun x => by rw [hf])]
  cases h' : s.reqs.find? (fun x => x.id == j) with
  | none => split <;> rfl
  | some r =>
    have := List.find?_some h'
    simp only [beq_iff_eq] at this
    simp only [Option.map_some, this, beq_iff_eq]
    split <;> simp_all

theorem State.req?_dropReq (s : State) (i j : Nat) : (s.dropReq i).req? j = if j = i then none else s.req? j := by
  simp only [State.req?, State.dropReq, List.find?_filter]
  split
  · next h => subst h; simp
  · next h =>
    congr 1
    funext r
    cases hj : r.id == j
    · simp
    · simp only [beq_iff_eq] at hj; simp [hj, h]

/-! ## Emission -/

/-- A bent without what emission writes: tokens on links, and tokens that the Sill holds. -/
def Bent.core (b : Bent) : Bent :=
  { b with
    elems := b.elems.map (fun e => { e with link := [] })
    clus := b.clus.map (fun c => { c with link := [] })
    timelines := b.timelines.map (fun t => { t with win := t.win.map (fun e => { e with held := [] }) }) }

/-- A raising without what emission writes. -/
def Raising.core (r : Raising) : Raising := { r with bents := r.bents.map Bent.core }

/-- What emission leaves: every field but the raisings, the catch buffers, the router queues and the message numbers; and of the raisings
all but links and held tokens. -/
def EmitKeeps (s t : State) : Prop :=
  (∃ r p q n, t = { s with raisings := r, parts := p, fqueues := q, nextId := n }) ∧
  t.raisings.map Raising.core = s.raisings.map Raising.core

theorem EmitKeeps.rfl (s : State) : EmitKeeps s s := ⟨⟨s.raisings, s.parts, s.fqueues, s.nextId, by cases s; rfl⟩, by rfl⟩

theorem EmitKeeps.trans {s t u : State} (h : EmitKeeps s t) (k : EmitKeeps t u) : EmitKeeps s u := by
  obtain ⟨⟨r, p, q, n, rfl⟩, h2⟩ := h
  obtain ⟨⟨r', p', q', n', rfl⟩, k2⟩ := k
  exact ⟨⟨r', p', q', n', by rfl⟩, k2.trans h2⟩

theorem updBent_emitKeeps (s : State) (br : BentRef) (f : Bent → Bent) (h : ∀ b, (f b).core = b.core) : EmitKeeps s (s.updBent br f) := by
  refine ⟨⟨_, s.parts, s.fqueues, s.nextId, by rfl⟩, ?_⟩
  simp only [State.updBent, State.updRaising]
  refine updIf_map_eq _ _ _ _ fun r => ?_
  simp only [Raising.core]
  congr 1
  exact modify_map_eq _ _ _ _ h

theorem updElem_emitKeeps (s : State) (br : BentRef) (cx cy : Nat) (f : Elem → Elem)
    (h : ∀ e, ({ (f e) with link := [] } : Elem) = { e with link := [] }) : EmitKeeps s (s.updElem br cx cy f) := by
  refine updBent_emitKeeps _ _ _ fun b => ?_
  simp only [Bent.core]
  congr 1
  exact updIf_map_eq _ _ _ _ h

theorem updClus_emitKeeps (s : State) (br : BentRef) (cX cY : Nat) (f : Cluster → Cluster)
    (h : ∀ c, ({ (f c) with link := [] } : Cluster) = { c with link := [] }) : EmitKeeps s (s.updClus br cX cY f) := by
  refine updBent_emitKeeps _ _ _ fun b => ?_
  simp only [Bent.core]
  congr 1
  exact updIf_map_eq _ _ _ _ h

theorem intoLink_emitKeeps (s : State) (rid link : Nat) (d : Dest) (t : Token) : EmitKeeps s (s.intoLink rid link d t) := by
  unfold State.intoLink
  repeat' split
  all_goals first
    | exact EmitKeeps.rfl s
    | exact ⟨⟨s.raisings, _, s.fqueues, s.nextId, by rfl⟩, by rfl⟩
    | exact updElem_emitKeeps _ _ _ _ _ fun _ => by rfl
    | exact updClus_emitKeeps _ _ _ _ _ fun _ => by rfl
    | (dsimp only; split
       · exact updElem_emitKeeps _ _ _ _ _ fun _ => by rfl
       · exact updClus_emitKeeps _ _ _ _ _ fun _ => by rfl)

theorem inject_emitKeeps (s : State) (n : Node) (m : Msg) : EmitKeeps s (s.inject n m) := by
  unfold State.inject State.enqueue
  dsimp only
  split <;> exact ⟨⟨s.raisings, s.parts, _, s.nextId, by rfl⟩, by rfl⟩

theorem injectNew_emitKeeps (s : State) (n : Node) (m : Msg) : EmitKeeps s (s.injectNew n m) :=
  EmitKeeps.trans ⟨⟨s.raisings, s.parts, s.fqueues, s.nextId + 1, by rfl⟩, by rfl⟩ (inject_emitKeeps ..)

theorem sendTok_emitKeeps (s : State) (rid : Nat) (src : CellId) (d : Dest) (t : Token) : EmitKeeps s (s.sendTok rid src d t) := by
  have injects : ∀ (ms : List Msg) (s : State), EmitKeeps s (ms.foldl (fun s m => s.injectNew (.cell src) m) s) := by
    intro ms
    induction ms with
    | nil => exact EmitKeeps.rfl
    | cons m ms ih => intro s; exact (injectNew_emitKeeps s _ m).trans (ih _)
  unfold State.sendTok
  split
  · split
    · dsimp only
      split
      · exact intoLink_emitKeeps ..
      · exact injects _ _
    · exact EmitKeeps.rfl s
  · exact EmitKeeps.rfl s

theorem updEntry_emitKeeps (s : State) (c : Ctx) (f : WinEntry → WinEntry)
    (h : ∀ e, ({ (f e) with held := [] } : WinEntry) = { e with held := [] }) : EmitKeeps s (s.updEntry c f) := by
  unfold State.updEntry
  split
  · refine updBent_emitKeeps _ _ _ fun b => ?_
    simp only [Bent.core]
    congr 1
    refine modify_map_eq _ _ _ _ fun t => ?_
    simp only [Timeline.updEntry]
    congr 1
    exact updIf_map_eq _ _ _ _ h
  · exact EmitKeeps.rfl s

theorem emitTo_emitKeeps (s : State) (c : Ctx) (d : Dest) (t : Token) : EmitKeeps s (s.emitTo c d t) := by
  unfold State.emitTo
  split
  · exact updEntry_emitKeeps _ _ _ fun _ => by rfl
  · exact sendTok_emitKeeps ..

theorem emit_emitKeeps (s : State) (c : Ctx) (t : BitVec 9) (k : Token) : EmitKeeps s (s.emit c t k) := by
  have fold : ∀ (ds : List Dest) (s : State), EmitKeeps s (ds.foldl (fun s d => s.emitTo c d k) s) := by
    intro ds
    induction ds with
    | nil => exact EmitKeeps.rfl
    | cons d ds ih => intro s; exact (emitTo_emitKeeps s c d k).trans (ih _)
  exact fold _ s

/-- Everything that emission to both targets can do. -/
theorem emit2_emitKeeps (s : State) (c : Ctx) (o : SlotOps) (k : Token) : EmitKeeps s (s.emit2 c o k) :=
  (emit_emitKeeps ..).trans (emit_emitKeeps ..)

/-! ## What a state looks like through the core -/

theorem EmitKeeps.raising? {s t : State} (h : EmitKeeps s t) (rid : Nat) :
    (t.raising? rid).map Raising.core = (s.raising? rid).map Raising.core := by
  have e : ∀ l : List Raising, (l.find? (·.rid == rid)).map Raising.core = (l.map Raising.core).find? (·.rid == rid) := by
    intro l
    rw [List.find?_map]; rfl
  simp only [State.raising?, e, h.2]

theorem EmitKeeps.bent? {s t : State} (h : EmitKeeps s t) (br : BentRef) :
    (t.bent? br).map Bent.core = (s.bent? br).map Bent.core := by
  have e : ∀ o : Option Raising, (o.bind (fun r => r.bents[br.bent]?)).map Bent.core =
      (o.map Raising.core).bind (fun r => r.bents[br.bent]?) := by
    intro o; cases o <;> simp [Raising.core]
  simp only [State.bent?, e, h.raising?]

theorem EmitKeeps.elem? {s t : State} (h : EmitKeeps s t) (br : BentRef) (cx cy : Nat) :
    (t.elem? br cx cy).map (fun e => ({ e with link := [] } : Elem)) = (s.elem? br cx cy).map (fun e => ({ e with link := [] } : Elem)) := by
  have e : ∀ o : Option Bent, (o.bind (·.elem? cx cy)).map (fun e => ({ e with link := [] } : Elem)) =
      (o.map Bent.core).bind (·.elem? cx cy) := by
    intro o
    cases o with
    | none => rfl
    | some b => simp only [Option.bind_some, Option.map_some, Bent.elem?, Bent.core, List.find?_map]; rfl
  simp only [State.elem?, e, h.bent?]

end Sys2Proof.Machine
end

