-- ==== Sys2Proof/Laws/PerInstr.lean ====
section
/-! SUPPORT. The encoding of each element instruction, one lemma per constructor. -/

namespace Sys2Proof.Laws

open Sys2Proof

/-- The fields of a word built from fields are those fields. -/
theorem ofWord_word (o : SlotOps) (n : Nat) : SlotOps.ofWord (o.word n) = o := by
  cases o
  simp only [SlotOps.ofWord, SlotOps.word, SlotOps.mk.injEq]
  refine ⟨?_, ?_, ?_, ?_, ?_, ?_⟩ <;> (ext i hi; simp [BitVec.getElem_extractLsb']; grind)

/-- The OPC of a word built from an OPC is that OPC. -/
theorem slotOpc_word (o : SlotOps) (n : Nat) (h : n < 256) : slotOpc (o.word n) = n := by
  have : (o.word n).extractLsb' 56 8 = BitVec.ofNat 8 n := by
    ext i hi
    simp [SlotOps.word, BitVec.getElem_extractLsb']
    grind
  simp [slotOpc, this, Nat.mod_eq_of_lt h]

/-- A word built from an OPC and fields decodes to the instruction of that OPC. -/
theorem decodeSlot_word (o : SlotOps) (n : Nat) (i : Instr) (hn : n < 256) (h : ofOpcode n o = some i) :
    decodeSlot (o.word n) = .ok i := by
  simp only [decodeSlot, slotOpc_word o n hn, ofWord_word, h]

end Sys2Proof.Laws

namespace Sys2Proof.Laws.SlotWord

open Sys2Proof.Machine

/-- An instruction with slot fields encodes to one word that decodes to it; the retirement of KBND shares the word of the admission
(R34). -/
def Statement (i : Instr) : Prop :=
  i.ops? ≠ none → WellFormed i = true → (∀ p, i ≠ .kbndRetire p) → ∃ w, encode i = [w] ∧ decodeSlot w = .ok i

theorem coldReset (p : Pkg) (bist : BistReport) (flashOk : Bool) : Statement (.coldReset p bist flashOk) := fun h _ _ => absurd rfl h
theorem computeDieReset (p : Pkg) (bist : BistReport) : Statement (.computeDieReset p bist) := fun h _ _ => absurd rfl h
theorem recdoor (p : Pkg) (bist : BistReport) (flashOk : Bool) : Statement (.recdoor p bist flashOk) := fun h _ _ => absurd rfl h
theorem firmwareUpdate (p : Pkg) (image : List Byte) : Statement (.firmwareUpdate p image) := fun h _ _ => absurd rfl h
theorem layoutCommit (p : Pkg) (lay : Layout) (cut : Option Nat) : Statement (.layoutCommit p lay cut) := fun h _ _ => absurd rfl h
theorem thermal95c (p : Pkg) (envelopes : List (Nat × Nat)) : Statement (.thermal95c p envelopes) := fun h _ _ => absurd rfl h
theorem powerLoss (p : Pkg) (rail : Bool) : Statement (.powerLoss p rail) := fun h _ _ => absurd rfl h
theorem rasCounterClear (p : Pkg) (name : RasName) (idx : Nat) (racing : Bool) : Statement (.rasCounterClear p name idx racing) := fun h _ _ => absurd rfl h
theorem hostMemoryAccess (p : Pkg) (acc : HostAccess) : Statement (.hostMemoryAccess p acc) := fun h _ _ => absurd rfl h
theorem spdmRequest (p : Pkg) (r : SpdmReq) : Statement (.spdmRequest p r) := fun h _ _ => absurd rfl h
theorem kilnRegisterWrite (r : KilnReg) : Statement (.kilnRegisterWrite r) := fun h _ _ => absurd rfl h
theorem pageTableSyncPoint (p : Pkg) (v : VdRef) : Statement (.pageTableSyncPoint p v) := fun h _ _ => absurd rfl h
theorem migrationStart (p : Pkg) (new_ old : Nat) : Statement (.migrationStart p new_ old) := fun h _ _ => absurd rfl h
theorem migrationLinePull (p : Pkg) (new_ line : Nat) : Statement (.migrationLinePull p new_ line) := fun h _ _ => absurd rfl h
theorem kilnReplay (w : WorkRef) : Statement (.kilnReplay w) := fun h _ _ => absurd rfl h
theorem kilnResumeSpill (br : BentRef) (size : Nat) : Statement (.kilnResumeSpill br size) := fun h _ _ => absurd rfl h
theorem trapReply (req : Nat) (pay : W256) : Statement (.trapReply req pay) := fun h _ _ => absurd rfl h
theorem remoteFaultRepair (p : Pkg) (idx : Nat) (repaired : Bool) : Statement (.remoteFaultRepair p idx repaired) := fun h _ _ => absurd rfl h
theorem imageLoad (v : VdRef) (kilnReads : Bool) : Statement (.imageLoad v kilnReads) := fun h _ _ => absurd rfl h
theorem clusterImageSaveDone (part : Nat) (c : Clu) : Statement (.clusterImageSaveDone part c) := fun h _ _ => absurd rfl h
theorem clusterRestore (part : Nat) (moves : List (BentRef × Origin)) : Statement (.clusterRestore part moves) := fun h _ _ => absurd rfl h
theorem tokenArrival (br : BentRef) (u : UnitLoc) : Statement (.tokenArrival br u) := fun h _ _ => absurd rfl h
theorem spillReinject (br : BentRef) (idx : Nat) : Statement (.spillReinject br idx) := fun h _ _ => absurd rfl h
theorem gateRelease (br : BentRef) (cx cy : Nat) (blk slot ctx : Nat) : Statement (.gateRelease br cx cy blk slot ctx) := fun h _ _ => absurd rfl h
theorem activationCommit (br : BentRef) (tl : Nat) : Statement (.activationCommit br tl) := fun h _ _ => absurd rfl h
theorem abortRedeliver (br : BentRef) (tl : Nat) : Statement (.abortRedeliver br tl) := fun h _ _ => absurd rfl h
theorem blockStall (br : BentRef) (idx : Nat) : Statement (.blockStall br idx) := fun h _ _ => absurd rfl h
theorem jointerLaneResult (br : BentRef) (cX cY : Nat) : Statement (.jointerLaneResult br cX cY) := fun h _ _ => absurd rfl h
theorem eccUncorrectable (t : EccTarget) : Statement (.eccUncorrectable t) := fun h _ _ => absurd rfl h
theorem memoryAccessAtHome (w : HomeRef) : Statement (.memoryAccessAtHome w) := fun h _ _ => absurd rfl h
theorem ringFreedSlotNotice (br : BentRef) (cX cY : Nat) (k : Nat) : Statement (.ringFreedSlotNotice br cX cY k) := fun h _ _ => absurd rfl h
theorem ringSlotFull (br : BentRef) (cX cY : Nat) (k : Nat) : Statement (.ringSlotFull br cX cY k) := fun h _ _ => absurd rfl h
theorem trussFiringBegin (br : BentRef) (cX cY : Nat) : Statement (.trussFiringBegin br cX cY) := fun h _ _ => absurd rfl h
theorem trussFiringRetire (br : BentRef) (cX cY : Nat) : Statement (.trussFiringRetire br cX cY) := fun h _ _ => absurd rfl h
theorem laharTileStart (br : BentRef) (cX cY : Nat) (id : Nat) : Statement (.laharTileStart br cX cY id) := fun h _ _ => absurd rfl h
theorem copyComplete (br : BentRef) (cX cY : Nat) (id : Nat) : Statement (.copyComplete br cX cY id) := fun h _ _ => absurd rfl h
theorem scatBatchApply (br : BentRef) (cx cy : Nat) (id : Nat) : Statement (.scatBatchApply br cx cy id) := fun h _ _ => absurd rfl h
theorem streamElement (br : BentRef) (cx cy : Nat) (id j : Nat) : Statement (.streamElement br cx cy id j) := fun h _ _ => absurd rfl h
theorem queueTimerExpiry (v : VdRef) (q tid : Nat) : Statement (.queueTimerExpiry v q tid) := fun h _ _ => absurd rfl h
theorem stsnkUpdate (br : BentRef) (cx cy : Nat) (blk slot : Nat) : Statement (.stsnkUpdate br cx cy blk slot) := fun h _ _ => absurd rfl h
theorem flitHop (n out : Node) : Statement (.flitHop n out) := fun h _ _ => absurd rfl h
theorem trimmedHeaderArrival (p : Pkg) (die : Nat) : Statement (.trimmedHeaderArrival p die) := fun h _ _ => absurd rfl h
theorem rereqTimer (p : Pkg) (die idx : Nat) : Statement (.rereqTimer p die idx) := fun h _ _ => absurd rfl h
theorem rereqArrival (p : Pkg) (die : Nat) : Statement (.rereqArrival p die) := fun h _ _ => absurd rfl h
theorem orderedMessageDelivery (p : Pkg) (die idx : Nat) : Statement (.orderedMessageDelivery p die idx) := fun h _ _ => absurd rfl h
theorem sackArrival (p : Pkg) (die : Nat) : Statement (.sackArrival p die) := fun h _ _ => absurd rfl h
theorem requestDedup (p : Pkg) (die : Nat) : Statement (.requestDedup p die) := fun h _ _ => absurd rfl h
theorem keepWaitTimer (p : Pkg) (idx : Nat) : Statement (.keepWaitTimer p idx) := fun h _ _ => absurd rfl h
theorem memberAbsentTimeout (op rank : Nat) : Statement (.memberAbsentTimeout op rank) := fun h _ _ => absurd rfl h
theorem groupInstallAck (req : Nat) (n : Node) : Statement (.groupInstallAck req n) := fun h _ _ => absurd rfl h
theorem linkCrcRetry (n out : Node) (idx : Nat) : Statement (.linkCrcRetry n out idx) := fun h _ _ => absurd rfl h
theorem add (o : SlotOps) : Statement (.add o) := fun _ _ _ => ⟨_, rfl, decodeSlot_word o 0x00 _ (by decide) rfl⟩
theorem sub (o : SlotOps) : Statement (.sub o) := fun _ _ _ => ⟨_, rfl, decodeSlot_word o 0x01 _ (by decide) rfl⟩
theorem mul (o : SlotOps) : Statement (.mul o) := fun _ _ _ => ⟨_, rfl, decodeSlot_word o 0x02 _ (by decide) rfl⟩
theorem mulh (o : SlotOps) : Statement (.mulh o) := fun _ _ _ => ⟨_, rfl, decodeSlot_word o 0x03 _ (by decide) rfl⟩
theorem mad (o : SlotOps) : Statement (.mad o) := fun _ _ _ => ⟨_, rfl, decodeSlot_word o 0x04 _ (by decide) rfl⟩
theorem div (o : SlotOps) : Statement (.div o) := fun _ _ _ => ⟨_, rfl, decodeSlot_word o 0x05 _ (by decide) rfl⟩
theorem rem (o : SlotOps) : Statement (.rem o) := fun _ _ _ => ⟨_, rfl, decodeSlot_word o 0x06 _ (by decide) rfl⟩
theorem neg (o : SlotOps) : Statement (.neg o) := fun _ _ _ => ⟨_, rfl, decodeSlot_word o 0x07 _ (by decide) rfl⟩
theorem abs (o : SlotOps) : Statement (.abs o) := fun _ _ _ => ⟨_, rfl, decodeSlot_word o 0x08 _ (by decide) rfl⟩
theorem min (o : SlotOps) : Statement (.min o) := fun _ _ _ => ⟨_, rfl, decodeSlot_word o 0x09 _ (by decide) rfl⟩
theorem max (o : SlotOps) : Statement (.max o) := fun _ _ _ => ⟨_, rfl, decodeSlot_word o 0x0A _ (by decide) rfl⟩
theorem and (o : SlotOps) : Statement (.and o) := fun _ _ _ => ⟨_, rfl, decodeSlot_word o 0x0B _ (by decide) rfl⟩
theorem or (o : SlotOps) : Statement (.or o) := fun _ _ _ => ⟨_, rfl, decodeSlot_word o 0x0C _ (by decide) rfl⟩
theorem xor (o : SlotOps) : Statement (.xor o) := fun _ _ _ => ⟨_, rfl, decodeSlot_word o 0x0D _ (by decide) rfl⟩
theorem andn (o : SlotOps) : Statement (.andn o) := fun _ _ _ => ⟨_, rfl, decodeSlot_word o 0x0E _ (by decide) rfl⟩
theorem shl (o : SlotOps) : Statement (.shl o) := fun _ _ _ => ⟨_, rfl, decodeSlot_word o 0x0F _ (by decide) rfl⟩
theorem shr (o : SlotOps) : Statement (.shr o) := fun _ _ _ => ⟨_, rfl, decodeSlot_word o 0x10 _ (by decide) rfl⟩
theorem sar (o : SlotOps) : Statement (.sar o) := fun _ _ _ => ⟨_, rfl, decodeSlot_word o 0x11 _ (by decide) rfl⟩
theorem rot (o : SlotOps) : Statement (.rot o) := fun _ _ _ => ⟨_, rfl, decodeSlot_word o 0x12 _ (by decide) rfl⟩
theorem clz (o : SlotOps) : Statement (.clz o) := fun _ _ _ => ⟨_, rfl, decodeSlot_word o 0x13 _ (by decide) rfl⟩
theorem popc (o : SlotOps) : Statement (.popc o) := fun _ _ _ => ⟨_, rfl, decodeSlot_word o 0x14 _ (by decide) rfl⟩
theorem sext (o : SlotOps) : Statement (.sext o) := fun _ _ _ => ⟨_, rfl, decodeSlot_word o 0x15 _ (by decide) rfl⟩
theorem zext (o : SlotOps) : Statement (.zext o) := fun _ _ _ => ⟨_, rfl, decodeSlot_word o 0x16 _ (by decide) rfl⟩
theorem adds (o : SlotOps) : Statement (.adds o) := fun _ _ _ => ⟨_, rfl, decodeSlot_word o 0x17 _ (by decide) rfl⟩
theorem subs (o : SlotOps) : Statement (.subs o) := fun _ _ _ => ⟨_, rfl, decodeSlot_word o 0x18 _ (by decide) rfl⟩
theorem cmp (o : SlotOps) : Statement (.cmp o) := fun _ _ _ => ⟨_, rfl, decodeSlot_word o 0x19 _ (by decide) rfl⟩
theorem sel (o : SlotOps) : Statement (.sel o) := fun _ _ _ => ⟨_, rfl, decodeSlot_word o 0x1A _ (by decide) rfl⟩
theorem mov (o : SlotOps) : Statement (.mov o) := fun _ _ _ => ⟨_, rfl, decodeSlot_word o 0x1B _ (by decide) rfl⟩
theorem movi (o : SlotOps) : Statement (.movi o) := fun _ _ _ => ⟨_, rfl, decodeSlot_word o 0x1C _ (by decide) rfl⟩
theorem lea (o : SlotOps) : Statement (.lea o) := fun _ _ _ => ⟨_, rfl, decodeSlot_word o 0x1D _ (by decide) rfl⟩
theorem fadd (o : SlotOps) : Statement (.fadd o) := fun _ _ _ => ⟨_, rfl, decodeSlot_word o 0x20 _ (by decide) rfl⟩
theorem fsub (o : SlotOps) : Statement (.fsub o) := fun _ _ _ => ⟨_, rfl, decodeSlot_word o 0x21 _ (by decide) rfl⟩
theorem fmul (o : SlotOps) : Statement (.fmul o) := fun _ _ _ => ⟨_, rfl, decodeSlot_word o 0x22 _ (by decide) rfl⟩
theorem ffma (o : SlotOps) : Statement (.ffma o) := fun _ _ _ => ⟨_, rfl, decodeSlot_word o 0x23 _ (by decide) rfl⟩
theorem fdiv (o : SlotOps) : Statement (.fdiv o) := fun _ _ _ => ⟨_, rfl, decodeSlot_word o 0x24 _ (by decide) rfl⟩
theorem fsqrt (o : SlotOps) : Statement (.fsqrt o) := fun _ _ _ => ⟨_, rfl, decodeSlot_word o 0x25 _ (by decide) rfl⟩
theorem fmin (o : SlotOps) : Statement (.fmin o) := fun _ _ _ => ⟨_, rfl, decodeSlot_word o 0x26 _ (by decide) rfl⟩
theorem fmax (o : SlotOps) : Statement (.fmax o) := fun _ _ _ => ⟨_, rfl, decodeSlot_word o 0x27 _ (by decide) rfl⟩
theorem fabs (o : SlotOps) : Statement (.fabs o) := fun _ _ _ => ⟨_, rfl, decodeSlot_word o 0x28 _ (by decide) rfl⟩
theorem fneg (o : SlotOps) : Statement (.fneg o) := fun _ _ _ => ⟨_, rfl, decodeSlot_word o 0x29 _ (by decide) rfl⟩
theorem fcmp (o : SlotOps) : Statement (.fcmp o) := fun _ _ _ => ⟨_, rfl, decodeSlot_word o 0x2A _ (by decide) rfl⟩
theorem fclas (o : SlotOps) : Statement (.fclas o) := fun _ _ _ => ⟨_, rfl, decodeSlot_word o 0x2B _ (by decide) rfl⟩
theorem cvt (o : SlotOps) : Statement (.cvt o) := fun _ _ _ => ⟨_, rfl, decodeSlot_word o 0x2C _ (by decide) rfl⟩
theorem frnd (o : SlotOps) : Statement (.frnd o) := fun _ _ _ => ⟨_, rfl, decodeSlot_word o 0x2D _ (by decide) rfl⟩
theorem fscl (o : SlotOps) : Statement (.fscl o) := fun _ _ _ => ⟨_, rfl, decodeSlot_word o 0x2E _ (by decide) rfl⟩
theorem exp (o : SlotOps) : Statement (.exp o) := fun _ _ _ => ⟨_, rfl, decodeSlot_word o 0x30 _ (by decide) rfl⟩
theorem exp2 (o : SlotOps) : Statement (.exp2 o) := fun _ _ _ => ⟨_, rfl, decodeSlot_word o 0x31 _ (by decide) rfl⟩
theorem expm1 (o : SlotOps) : Statement (.expm1 o) := fun _ _ _ => ⟨_, rfl, decodeSlot_word o 0x32 _ (by decide) rfl⟩
theorem log (o : SlotOps) : Statement (.log o) := fun _ _ _ => ⟨_, rfl, decodeSlot_word o 0x33 _ (by decide) rfl⟩
theorem log2 (o : SlotOps) : Statement (.log2 o) := fun _ _ _ => ⟨_, rfl, decodeSlot_word o 0x34 _ (by decide) rfl⟩
theorem log1p (o : SlotOps) : Statement (.log1p o) := fun _ _ _ => ⟨_, rfl, decodeSlot_word o 0x35 _ (by decide) rfl⟩
theorem sin (o : SlotOps) : Statement (.sin o) := fun _ _ _ => ⟨_, rfl, decodeSlot_word o 0x36 _ (by decide) rfl⟩
theorem cos (o : SlotOps) : Statement (.cos o) := fun _ _ _ => ⟨_, rfl, decodeSlot_word o 0x37 _ (by decide) rfl⟩
theorem sinpi (o : SlotOps) : Statement (.sinpi o) := fun _ _ _ => ⟨_, rfl, decodeSlot_word o 0x38 _ (by decide) rfl⟩
theorem cospi (o : SlotOps) : Statement (.cospi o) := fun _ _ _ => ⟨_, rfl, decodeSlot_word o 0x39 _ (by decide) rfl⟩
theorem tanh (o : SlotOps) : Statement (.tanh o) := fun _ _ _ => ⟨_, rfl, decodeSlot_word o 0x3A _ (by decide) rfl⟩
theorem atan (o : SlotOps) : Statement (.atan o) := fun _ _ _ => ⟨_, rfl, decodeSlot_word o 0x3B _ (by decide) rfl⟩
theorem erf (o : SlotOps) : Statement (.erf o) := fun _ _ _ => ⟨_, rfl, decodeSlot_word o 0x3C _ (by decide) rfl⟩
theorem sigm (o : SlotOps) : Statement (.sigm o) := fun _ _ _ => ⟨_, rfl, decodeSlot_word o 0x3D _ (by decide) rfl⟩
theorem rsqrt (o : SlotOps) : Statement (.rsqrt o) := fun _ _ _ => ⟨_, rfl, decodeSlot_word o 0x3E _ (by decide) rfl⟩
theorem pow (o : SlotOps) : Statement (.pow o) := fun _ _ _ => ⟨_, rfl, decodeSlot_word o 0x3F _ (by decide) rfl⟩
theorem expa (o : SlotOps) : Statement (.expa o) := fun _ _ _ => ⟨_, rfl, decodeSlot_word o 0x40 _ (by decide) rfl⟩
theorem exp2a (o : SlotOps) : Statement (.exp2a o) := fun _ _ _ => ⟨_, rfl, decodeSlot_word o 0x41 _ (by decide) rfl⟩
theorem loga (o : SlotOps) : Statement (.loga o) := fun _ _ _ => ⟨_, rfl, decodeSlot_word o 0x42 _ (by decide) rfl⟩
theorem log2a (o : SlotOps) : Statement (.log2a o) := fun _ _ _ => ⟨_, rfl, decodeSlot_word o 0x43 _ (by decide) rfl⟩
theorem sina (o : SlotOps) : Statement (.sina o) := fun _ _ _ => ⟨_, rfl, decodeSlot_word o 0x44 _ (by decide) rfl⟩
theorem cosa (o : SlotOps) : Statement (.cosa o) := fun _ _ _ => ⟨_, rfl, decodeSlot_word o 0x45 _ (by decide) rfl⟩
theorem tanha (o : SlotOps) : Statement (.tanha o) := fun _ _ _ => ⟨_, rfl, decodeSlot_word o 0x46 _ (by decide) rfl⟩
theorem sigma (o : SlotOps) : Statement (.sigma o) := fun _ _ _ => ⟨_, rfl, decodeSlot_word o 0x47 _ (by decide) rfl⟩
theorem rcpa (o : SlotOps) : Statement (.rcpa o) := fun _ _ _ => ⟨_, rfl, decodeSlot_word o 0x48 _ (by decide) rfl⟩
theorem rsqa (o : SlotOps) : Statement (.rsqa o) := fun _ _ _ => ⟨_, rfl, decodeSlot_word o 0x49 _ (by decide) rfl⟩
theorem shuf (o : SlotOps) : Statement (.shuf o) := fun _ _ _ => ⟨_, rfl, decodeSlot_word o 0x50 _ (by decide) rfl⟩
theorem bcst (o : SlotOps) : Statement (.bcst o) := fun _ _ _ => ⟨_, rfl, decodeSlot_word o 0x51 _ (by decide) rfl⟩
theorem redl (o : SlotOps) : Statement (.redl o) := fun _ _ _ => ⟨_, rfl, decodeSlot_word o 0x52 _ (by decide) rfl⟩
theorem scan (o : SlotOps) : Statement (.scan o) := fun _ _ _ => ⟨_, rfl, decodeSlot_word o 0x53 _ (by decide) rfl⟩
theorem pack (o : SlotOps) : Statement (.pack o) := fun _ _ _ => ⟨_, rfl, decodeSlot_word o 0x54 _ (by decide) rfl⟩
theorem unpk (o : SlotOps) : Statement (.unpk o) := fun _ _ _ => ⟨_, rfl, decodeSlot_word o 0x55 _ (by decide) rfl⟩
theorem steer (o : SlotOps) : Statement (.steer o) := fun _ _ _ => ⟨_, rfl, decodeSlot_word o 0x58 _ (by decide) rfl⟩
theorem merge (o : SlotOps) : Statement (.merge o) := fun _ _ _ => ⟨_, rfl, decodeSlot_word o 0x59 _ (by decide) rfl⟩
theorem gate (o : SlotOps) : Statement (.gate o) := fun _ _ _ => ⟨_, rfl, decodeSlot_word o 0x5A _ (by decide) rfl⟩
theorem null (o : SlotOps) : Statement (.null o) := fun _ _ _ => ⟨_, rfl, decodeSlot_word o 0x5B _ (by decide) rfl⟩
theorem tagiCtx (o : SlotOps) : Statement (.tagiCtx o) := by
  intro _ hw _
  refine ⟨_, rfl, decodeSlot_word _ _ _ (by decide) ?_⟩
  have h := (Bool.and_eq_true_iff.mp hw).1
  simp only [formOk] at h
  change some _ = some _
  simp_all [atomForm]
theorem tagiNxt (o : SlotOps) : Statement (.tagiNxt o) := by
  intro _ hw _
  refine ⟨_, rfl, decodeSlot_word _ _ _ (by decide) ?_⟩
  have h := (Bool.and_eq_true_iff.mp hw).1
  simp only [formOk] at h
  change some _ = some _
  simp_all [atomForm]
theorem tagx (o : SlotOps) : Statement (.tagx o) := by
  intro _ hw _
  refine ⟨_, rfl, decodeSlot_word _ _ _ (by decide) ?_⟩
  have h := (Bool.and_eq_true_iff.mp hw).1
  simp only [formOk] at h
  change some _ = some _
  simp_all [atomForm]
theorem tagxFin (o : SlotOps) : Statement (.tagxFin o) := by
  intro _ hw _
  refine ⟨_, rfl, decodeSlot_word _ _ _ (by decide) ?_⟩
  have h := (Bool.and_eq_true_iff.mp hw).1
  simp only [formOk] at h
  change some _ = some _
  simp_all [atomForm]
theorem contextReturn (br : BentRef) (ctx : Nat) : Statement (.contextReturn br ctx) := fun h _ _ => absurd rfl h
theorem kbndAdmit (o : SlotOps) : Statement (.kbndAdmit o) := fun _ _ _ => ⟨_, rfl, decodeSlot_word o 0x5E _ (by decide) rfl⟩
theorem kbndRetire (o : SlotOps) : Statement (.kbndRetire o) := fun _ _ h => absurd rfl (h o)
theorem join (o : SlotOps) : Statement (.join o) := fun _ _ _ => ⟨_, rfl, decodeSlot_word o 0x5F _ (by decide) rfl⟩
theorem drop (o : SlotOps) : Statement (.drop o) := fun _ _ _ => ⟨_, rfl, decodeSlot_word o 0x60 _ (by decide) rfl⟩
theorem ctr (o : SlotOps) : Statement (.ctr o) := fun _ _ _ => ⟨_, rfl, decodeSlot_word o 0x61 _ (by decide) rfl⟩
theorem exit (o : SlotOps) : Statement (.exit o) := fun _ _ _ => ⟨_, rfl, decodeSlot_word o 0x62 _ (by decide) rfl⟩
theorem reord (o : SlotOps) : Statement (.reord o) := fun _ _ _ => ⟨_, rfl, decodeSlot_word o 0x63 _ (by decide) rfl⟩
theorem read (o : SlotOps) : Statement (.read o) := fun _ _ _ => ⟨_, rfl, decodeSlot_word o 0x68 _ (by decide) rfl⟩
theorem write (o : SlotOps) : Statement (.write o) := fun _ _ _ => ⟨_, rfl, decodeSlot_word o 0x69 _ (by decide) rfl⟩
theorem ld (o : SlotOps) : Statement (.ld o) := fun _ _ _ => ⟨_, rfl, decodeSlot_word o 0x70 _ (by decide) rfl⟩
theorem st (o : SlotOps) : Statement (.st o) := fun _ _ _ => ⟨_, rfl, decodeSlot_word o 0x71 _ (by decide) rfl⟩
theorem ldi (o : SlotOps) : Statement (.ldi o) := fun _ _ _ => ⟨_, rfl, decodeSlot_word o 0x72 _ (by decide) rfl⟩
theorem sti (o : SlotOps) : Statement (.sti o) := by
  intro _ hw _
  refine ⟨_, rfl, decodeSlot_word _ _ _ (by decide) ?_⟩
  have h := (Bool.and_eq_true_iff.mp hw).1
  simp only [formOk] at h
  change some _ = some _
  simp_all [atomForm]
theorem stiClr (o : SlotOps) : Statement (.stiClr o) := by
  intro _ hw _
  refine ⟨_, rfl, decodeSlot_word _ _ _ (by decide) ?_⟩
  have h := (Bool.and_eq_true_iff.mp hw).1
  simp only [formOk] at h
  change some _ = some _
  simp_all [atomForm]
theorem atomAdd (o : SlotOps) : Statement (.atomAdd o) := by
  intro _ hw _
  refine ⟨_, rfl, decodeSlot_word _ _ _ (by decide) ?_⟩
  have h := (Bool.and_eq_true_iff.mp hw).1
  simp only [formOk] at h
  change some _ = some _
  simp_all [atomForm]
theorem atomOr (o : SlotOps) : Statement (.atomOr o) := by
  intro _ hw _
  refine ⟨_, rfl, decodeSlot_word _ _ _ (by decide) ?_⟩
  have h := (Bool.and_eq_true_iff.mp hw).1
  simp only [formOk] at h
  change some _ = some _
  simp_all [atomForm]
theorem atomSwap (o : SlotOps) : Statement (.atomSwap o) := by
  intro _ hw _
  refine ⟨_, rfl, decodeSlot_word _ _ _ (by decide) ?_⟩
  have h := (Bool.and_eq_true_iff.mp hw).1
  simp only [formOk] at h
  change some _ = some _
  simp_all [atomForm]
theorem atomCas (o : SlotOps) : Statement (.atomCas o) := by
  intro _ hw _
  refine ⟨_, rfl, decodeSlot_word _ _ _ (by decide) ?_⟩
  have h := (Bool.and_eq_true_iff.mp hw).1
  simp only [formOk] at h
  change some _ = some _
  simp_all [atomForm]
theorem xlate (o : SlotOps) : Statement (.xlate o) := fun _ _ _ => ⟨_, rfl, decodeSlot_word o 0x75 _ (by decide) rfl⟩
theorem pwin (o : SlotOps) : Statement (.pwin o) := fun _ _ _ => ⟨_, rfl, decodeSlot_word o 0x76 _ (by decide) rfl⟩
theorem srd (o : SlotOps) : Statement (.srd o) := fun _ _ _ => ⟨_, rfl, decodeSlot_word o 0x77 _ (by decide) rfl⟩
theorem swr (o : SlotOps) : Statement (.swr o) := fun _ _ _ => ⟨_, rfl, decodeSlot_word o 0x78 _ (by decide) rfl⟩
theorem gath (o : SlotOps) : Statement (.gath o) := fun _ _ _ => ⟨_, rfl, decodeSlot_word o 0x79 _ (by decide) rfl⟩
theorem scat (o : SlotOps) : Statement (.scat o) := fun _ _ _ => ⟨_, rfl, decodeSlot_word o 0x7A _ (by decide) rfl⟩
theorem csrd (o : SlotOps) : Statement (.csrd o) := fun _ _ _ => ⟨_, rfl, decodeSlot_word o 0x7B _ (by decide) rfl⟩
theorem fence (o : SlotOps) : Statement (.fence o) := fun _ _ _ => ⟨_, rfl, decodeSlot_word o 0x7C _ (by decide) rfl⟩
theorem publ (o : SlotOps) : Statement (.publ o) := fun _ _ _ => ⟨_, rfl, decodeSlot_word o 0x7D _ (by decide) rfl⟩
theorem shdw (o : SlotOps) : Statement (.shdw o) := by
  intro _ hw _
  refine ⟨_, rfl, decodeSlot_word _ _ _ (by decide) ?_⟩
  have h := (Bool.and_eq_true_iff.mp hw).1
  simp only [formOk] at h
  change some _ = some _
  simp_all [atomForm]
theorem shdwRel (o : SlotOps) : Statement (.shdwRel o) := by
  intro _ hw _
  refine ⟨_, rfl, decodeSlot_word _ _ _ (by decide) ?_⟩
  have h := (Bool.and_eq_true_iff.mp hw).1
  simp only [formOk] at h
  change some _ = some _
  simp_all [atomForm]
theorem cmb (o : SlotOps) : Statement (.cmb o) := fun _ _ _ => ⟨_, rfl, decodeSlot_word o 0x80 _ (by decide) rfl⟩
theorem mma (o : SlotOps) : Statement (.mma o) := fun _ _ _ => ⟨_, rfl, decodeSlot_word o 0x88 _ (by decide) rfl⟩
theorem mmam (o : SlotOps) : Statement (.mmam o) := fun _ _ _ => ⟨_, rfl, decodeSlot_word o 0x89 _ (by decide) rfl⟩
theorem scout (o : SlotOps) : Statement (.scout o) := fun _ _ _ => ⟨_, rfl, decodeSlot_word o 0x8A _ (by decide) rfl⟩
theorem scrb (o : SlotOps) : Statement (.scrb o) := fun _ _ _ => ⟨_, rfl, decodeSlot_word o 0x8B _ (by decide) rfl⟩
theorem ring (o : SlotOps) : Statement (.ring o) := fun _ _ _ => ⟨_, rfl, decodeSlot_word o 0x8C _ (by decide) rfl⟩
theorem rrot (o : SlotOps) : Statement (.rrot o) := fun _ _ _ => ⟨_, rfl, decodeSlot_word o 0x8D _ (by decide) rfl⟩
theorem tcvtRing (o : SlotOps) : Statement (.tcvtRing o) := by
  intro _ hw _
  refine ⟨_, rfl, decodeSlot_word _ _ _ (by decide) ?_⟩
  have h := (Bool.and_eq_true_iff.mp hw).1
  simp only [formOk] at h
  change some _ = some _
  simp_all [atomForm]
theorem tcvtMem (o : SlotOps) : Statement (.tcvtMem o) := by
  intro _ hw _
  refine ⟨_, rfl, decodeSlot_word _ _ _ (by decide) ?_⟩
  have h := (Bool.and_eq_true_iff.mp hw).1
  simp only [formOk] at h
  change some _ = some _
  simp_all [atomForm]
theorem tred (o : SlotOps) : Statement (.tred o) := fun _ _ _ => ⟨_, rfl, decodeSlot_word o 0x8F _ (by decide) rfl⟩
theorem tfn (o : SlotOps) : Statement (.tfn o) := fun _ _ _ => ⟨_, rfl, decodeSlot_word o 0x90 _ (by decide) rfl⟩
theorem ttrn (o : SlotOps) : Statement (.ttrn o) := fun _ _ _ => ⟨_, rfl, decodeSlot_word o 0x91 _ (by decide) rfl⟩
theorem cpy (o : SlotOps) : Statement (.cpy o) := fun _ _ _ => ⟨_, rfl, decodeSlot_word o 0x98 _ (by decide) rfl⟩
theorem cpys (o : SlotOps) : Statement (.cpys o) := fun _ _ _ => ⟨_, rfl, decodeSlot_word o 0x99 _ (by decide) rfl⟩
theorem rld (o : SlotOps) : Statement (.rld o) := fun _ _ _ => ⟨_, rfl, decodeSlot_word o 0xA0 _ (by decide) rfl⟩
theorem rst (o : SlotOps) : Statement (.rst o) := fun _ _ _ => ⟨_, rfl, decodeSlot_word o 0xA1 _ (by decide) rfl⟩
theorem rstp (o : SlotOps) : Statement (.rstp o) := fun _ _ _ => ⟨_, rfl, decodeSlot_word o 0xA2 _ (by decide) rfl⟩
theorem ratmAdd (o : SlotOps) : Statement (.ratmAdd o) := by
  intro _ hw _
  refine ⟨_, rfl, decodeSlot_word _ _ _ (by decide) ?_⟩
  have h := (Bool.and_eq_true_iff.mp hw).1
  simp only [formOk] at h
  change some _ = some _
  simp_all [atomForm]
theorem ratmOr (o : SlotOps) : Statement (.ratmOr o) := by
  intro _ hw _
  refine ⟨_, rfl, decodeSlot_word _ _ _ (by decide) ?_⟩
  have h := (Bool.and_eq_true_iff.mp hw).1
  simp only [formOk] at h
  change some _ = some _
  simp_all [atomForm]
theorem ratmSwap (o : SlotOps) : Statement (.ratmSwap o) := by
  intro _ hw _
  refine ⟨_, rfl, decodeSlot_word _ _ _ (by decide) ?_⟩
  have h := (Bool.and_eq_true_iff.mp hw).1
  simp only [formOk] at h
  change some _ = some _
  simp_all [atomForm]
theorem ratmCas (o : SlotOps) : Statement (.ratmCas o) := by
  intro _ hw _
  refine ⟨_, rfl, decodeSlot_word _ _ _ (by decide) ?_⟩
  have h := (Bool.and_eq_true_iff.mp hw).1
  simp only [formOk] at h
  change some _ = some _
  simp_all [atomForm]
theorem mcred (o : SlotOps) : Statement (.mcred o) := fun _ _ _ => ⟨_, rfl, decodeSlot_word o 0xA4 _ (by decide) rfl⟩
theorem mcst (o : SlotOps) : Statement (.mcst o) := fun _ _ _ => ⟨_, rfl, decodeSlot_word o 0xA5 _ (by decide) rfl⟩
theorem agrp (o : SlotOps) : Statement (.agrp o) := fun _ _ _ => ⟨_, rfl, decodeSlot_word o 0xA6 _ (by decide) rfl⟩
theorem wqini (o : SlotOps) : Statement (.wqini o) := fun _ _ _ => ⟨_, rfl, decodeSlot_word o 0xA8 _ (by decide) rfl⟩
theorem wqnx (o : SlotOps) : Statement (.wqnx o) := fun _ _ _ => ⟨_, rfl, decodeSlot_word o 0xA9 _ (by decide) rfl⟩
theorem stad (o : SlotOps) : Statement (.stad o) := fun _ _ _ => ⟨_, rfl, decodeSlot_word o 0xAC _ (by decide) rfl⟩
theorem stsnk (o : SlotOps) : Statement (.stsnk o) := fun _ _ _ => ⟨_, rfl, decodeSlot_word o 0xAD _ (by decide) rfl⟩
theorem trap (o : SlotOps) : Statement (.trap o) := fun _ _ _ => ⟨_, rfl, decodeSlot_word o 0xB0 _ (by decide) rfl⟩
theorem brk (o : SlotOps) : Statement (.brk o) := fun _ _ _ => ⟨_, rfl, decodeSlot_word o 0xB1 _ (by decide) rfl⟩
theorem mfs (o : SlotOps) : Statement (.mfs o) := fun _ _ _ => ⟨_, rfl, decodeSlot_word o 0xB2 _ (by decide) rfl⟩
theorem mts (o : SlotOps) : Statement (.mts o) := fun _ _ _ => ⟨_, rfl, decodeSlot_word o 0xB3 _ (by decide) rfl⟩
theorem yield (o : SlotOps) : Statement (.yield o) := fun _ _ _ => ⟨_, rfl, decodeSlot_word o 0xB4 _ (by decide) rfl⟩
theorem halt (o : SlotOps) : Statement (.halt o) := fun _ _ _ => ⟨_, rfl, decodeSlot_word o 0xB5 _ (by decide) rfl⟩
theorem clflg (o : SlotOps) : Statement (.clflg o) := fun _ _ _ => ⟨_, rfl, decodeSlot_word o 0xB6 _ (by decide) rfl⟩
theorem rdtim (o : SlotOps) : Statement (.rdtim o) := fun _ _ _ => ⟨_, rfl, decodeSlot_word o 0xB7 _ (by decide) rfl⟩
theorem enrg (o : SlotOps) : Statement (.enrg o) := fun _ _ _ => ⟨_, rfl, decodeSlot_word o 0xB8 _ (by decide) rfl⟩
theorem xld (o : SlotOps) : Statement (.xld o) := fun _ _ _ => ⟨_, rfl, decodeSlot_word o 0xE0 _ (by decide) rfl⟩
theorem barw (o : SlotOps) : Statement (.barw o) := fun _ _ _ => ⟨_, rfl, decodeSlot_word o 0xE1 _ (by decide) rfl⟩
theorem fexpl (o : SlotOps) : Statement (.fexpl o) := fun _ _ _ => ⟨_, rfl, decodeSlot_word o 0xE2 _ (by decide) rfl⟩
theorem rsto (o : SlotOps) : Statement (.rsto o) := fun _ _ _ => ⟨_, rfl, decodeSlot_word o 0xE3 _ (by decide) rfl⟩
theorem qnop : Statement (.qnop) := fun h _ _ => absurd rfl h
theorem qlnch (sem : BitVec 10) (sg : Bool) (addv : BitVec 32) (img : BitVec 64) (va arg : BitVec 55) : Statement (.qlnch sem sg addv img va arg) := fun h _ _ => absurd rfl h
theorem qcopy (sem : BitVec 10) (sg sh : Bool) (addv : BitVec 32) (src dst : BitVec 55) (len : BitVec 40) : Statement (.qcopy sem sg sh addv src dst len) := fun h _ _ => absurd rfl h
theorem qwge (sem : BitVec 10) (val : BitVec 64) : Statement (.qwge sem val) := fun h _ _ => absurd rfl h
theorem qweq (sem : BitVec 10) (val : BitVec 64) : Statement (.qweq sem val) := fun h _ _ => absurd rfl h
theorem qsig (sem : BitVec 10) (scope : BitVec 4) (val : BitVec 64) : Statement (.qsig sem scope val) := fun h _ _ => absurd rfl h
theorem qset (sem : BitVec 10) (val : BitVec 64) : Statement (.qset sem val) := fun h _ _ => absurd rfl h
theorem qintr (vec : BitVec 11) (code : BitVec 32) : Statement (.qintr vec code) := fun h _ _ => absurd rfl h
theorem qjmp (target : BitVec 16) : Statement (.qjmp target) := fun h _ _ => absurd rfl h
theorem qjnz (sem : BitVec 10) (dec : Bool) (target : BitVec 16) : Statement (.qjnz sem dec target) := fun h _ _ => absurd rfl h
theorem qfnc (scope : BitVec 4) : Statement (.qfnc scope) := fun h _ _ => absurd rfl h
theorem qload (sem : BitVec 10) (sg : Bool) (addv : BitVec 32) (img : BitVec 64) (va report : BitVec 55) : Statement (.qload sem sg addv img va report) := fun h _ _ => absurd rfl h
theorem qend (code : BitVec 32) : Statement (.qend code) := fun h _ _ => absurd rfl h
theorem qtmr (sem : BitVec 10) (tid : BitVec 3) (delay : BitVec 40) : Statement (.qtmr sem tid delay) := fun h _ _ => absurd rfl h
theorem qeng (e : BitVec 48) : Statement (.qeng e) := fun h _ _ => absurd rfl h
theorem qsave (sem : BitVec 10) (sg : Bool) (qn : BitVec 6) (addv : BitVec 32) : Statement (.qsave sem sg qn addv) := fun h _ _ => absurd rfl h
theorem qrest (sem : BitVec 10) (sg : Bool) (qn : BitVec 6) (addv : BitVec 32) : Statement (.qrest sem sg qn addv) := fun h _ _ => absurd rfl h
theorem kilnQueueStart (v : VdRef) (q : Nat) : Statement (.kilnQueueStart v q) := fun h _ _ => absurd rfl h
theorem kilnQueueStop (v : VdRef) (q : Nat) : Statement (.kilnQueueStop v q) := fun h _ _ => absurd rfl h
theorem ingressRecordWrite (p : Pkg) (off : Nat) (record : BitVec 512) : Statement (.ingressRecordWrite p off record) := fun h _ _ => absurd rfl h
theorem jointerLaneEntry (br : BentRef) (cX cY : Nat) : Statement (.jointerLaneEntry br cX cY) := fun h _ _ => absurd rfl h
theorem reordRelease (br : BentRef) (cx cy : Nat) (blk slot ctx : Nat) : Statement (.reordRelease br cx cy blk slot ctx) := fun h _ _ => absurd rfl h
theorem linkDown (p : Pkg) (e : Edge) (half : Nat) : Statement (.linkDown p e half) := fun h _ _ => absurd rfl h
theorem msixVectorEnable (p : Pkg) (vec : Nat) (on : Bool) : Statement (.msixVectorEnable p vec on) := fun h _ _ => absurd rfl h
theorem temperatureFall (p : Pkg) (envelopes : List (Nat × Nat)) : Statement (.temperatureFall p envelopes) := fun h _ _ => absurd rfl h
theorem eccCorrected (p : Pkg) (idx : Nat) : Statement (.eccCorrected p idx) := fun h _ _ => absurd rfl h
theorem mpWatchdogReset : Statement (.mpWatchdogReset) := fun h _ _ => absurd rfl h
theorem thermal105c : Statement (.thermal105c) := fun h _ _ => absurd rfl h
theorem thermal115c : Statement (.thermal115c) := fun h _ _ => absurd rfl h
theorem hubReset : Statement (.hubReset) := fun h _ _ => absurd rfl h
theorem partitionTeardown : Statement (.partitionTeardown) := fun h _ _ => absurd rfl h
theorem virtualDeviceTeardown : Statement (.virtualDeviceTeardown) := fun h _ _ => absurd rfl h
theorem ingressOpen : Statement (.ingressOpen) := fun h _ _ => absurd rfl h
theorem ingressToken : Statement (.ingressToken) := fun h _ _ => absurd rfl h
theorem ingressTokenInject : Statement (.ingressTokenInject) := fun h _ _ => absurd rfl h
theorem kilnEndRaising : Statement (.kilnEndRaising) := fun h _ _ => absurd rfl h
theorem brkResume : Statement (.brkResume) := fun h _ _ => absurd rfl h
theorem checkpoint : Statement (.checkpoint) := fun h _ _ => absurd rfl h
theorem launchAdmit : Statement (.launchAdmit) := fun h _ _ => absurd rfl h
theorem phaseComplete : Statement (.phaseComplete) := fun h _ _ => absurd rfl h
theorem quantumEnd : Statement (.quantumEnd) := fun h _ _ => absurd rfl h
theorem graceWindowEnd : Statement (.graceWindowEnd) := fun h _ _ => absurd rfl h
theorem slotStart : Statement (.slotStart) := fun h _ _ => absurd rfl h
theorem walk : Statement (.walk) := fun h _ _ => absurd rfl h
theorem dirtyLoggerSet : Statement (.dirtyLoggerSet) := fun h _ _ => absurd rfl h
theorem memoryReply : Statement (.memoryReply) := fun h _ _ => absurd rfl h
theorem augerServe : Statement (.augerServe) := fun h _ _ => absurd rfl h
theorem augerRangeSet : Statement (.augerRangeSet) := fun h _ _ => absurd rfl h
theorem semaphoreOperation : Statement (.semaphoreOperation) := fun h _ _ => absurd rfl h
theorem hubHalt : Statement (.hubHalt) := fun h _ _ => absurd rfl h
theorem sackSend : Statement (.sackSend) := fun h _ _ => absurd rfl h
theorem errorArrival : Statement (.errorArrival) := fun h _ _ => absurd rfl h
theorem remoteFaultPark : Statement (.remoteFaultPark) := fun h _ _ => absurd rfl h
theorem keepWaitArrival : Statement (.keepWaitArrival) := fun h _ _ => absurd rfl h
theorem busyResend : Statement (.busyResend) := fun h _ _ => absurd rfl h
theorem remoteTimeout : Statement (.remoteTimeout) := fun h _ _ => absurd rfl h
theorem multicastForward : Statement (.multicastForward) := fun h _ _ => absurd rfl h
theorem mcupCombine : Statement (.mcupCombine) := fun h _ _ => absurd rfl h
theorem mcupSlotTimeout : Statement (.mcupSlotTimeout) := fun h _ _ => absurd rfl h
theorem interruptMailboxDrain : Statement (.interruptMailboxDrain) := fun h _ _ => absurd rfl h
theorem cxlEnable : Statement (.cxlEnable) := fun h _ _ => absurd rfl h
theorem fabricReset : Statement (.fabricReset) := fun h _ _ => absurd rfl h
theorem bootConfirm : Statement (.bootConfirm) := fun h _ _ => absurd rfl h

end Sys2Proof.Laws.SlotWord
end

