-- ==== Sys2Proof/Tests/Slice0.lean ====
section
/-! SUPPORT. The model's own tests: words of the spec's examples and the instructions they stand for, terms that the loader's checks refuse,
worked examples of the entries, and, for each statement with hypotheses, states and operands that meet them. -/

namespace Sys2Proof.Tests

open Sys2Proof Sys2Proof.Machine Sys2Proof.Claims

/-- The fields of a slot word, in the order of R273. -/
def mk (ty mod pr t0 t1 x : Nat) : SlotOps where
  ty := BitVec.ofNat 4 ty
  mod := BitVec.ofNat 3 mod
  pr := BitVec.ofNat 2 pr
  t0 := BitVec.ofNat 9 t0
  t1 := BitVec.ofNat 9 t1
  x := BitVec.ofNat 29 x

/-! ## Decoding: each word stands in the entry of its instruction, and its fields are laid out by R273 -/

theorem test_decode_integer :
    decodeTableWord 64 0x006000BFE0000001 = some (.add (mk 6 0 0 0x002 0x1FF 0x1)) ∧
    decodeTableWord 64 0x170000FFE0000032 = some (.adds (mk 0 0 0 0x003 0x1FF 0x32)) ∧
    decodeTableWord 64 0x1940413FE0000002 = some (.cmp (mk 4 0 0 0x104 0x1FF 0x2)) ∧
    decodeTableWord 64 0x1C6000BFFFFFFFFB = some (.movi (mk 6 0 0 0x002 0x1FF 0x1FFFFFFB)) ∧
    decodeTableWord 64 0x034000FFE0000002 = some (.mulh (mk 4 0 0 0x003 0x1FF 0x2)) ∧
    decodeTableWord 64 0x1D70017FE0000003 = some (.lea (mk 7 0 0 0x005 0x1FF 0x3)) ∧
    decodeTableWord 64 0x110000FFFFFFFFFF = some (.sar (mk 0 0 0 0x003 0x1FF 0x1FFFFFFF)) ∧
    decodeTableWord 64 0x121000FFFFFFFFFF = some (.rot (mk 1 0 0 0x003 0x1FF 0x1FFFFFFF)) ∧
    decodeTableWord 64 0x165000FFE000000B = some (.zext (mk 5 0 0 0x003 0x1FF 0xB)) ∧
    decodeTableWord 64 0x0840013FE0000000 = some (.abs (mk 4 0 0 0x004 0x1FF 0x0)) := by decide

theorem test_decode_floating_point :
    decodeTableWord 64 0x229420FFE8040000 = some (.fmul (mk 9 2 0 0x083 0x1FF 0x8040000)) ∧
    decodeTableWord 64 0x2C00023FE0000009 = some (.cvt (mk 0 0 0 0x008 0x1FF 0x9)) ∧
    decodeTableWord 64 0x2A9041FFE0000002 = some (.fcmp (mk 9 0 0 0x107 0x1FF 0x2)) ∧
    decodeTableWord 64 0x2E90013FF7F00000 = some (.fscl (mk 9 0 0 0x004 0x1FF 0x17F00000)) := by decide

theorem test_decode_functions :
    decodeTableWord 64 0x3094017FE0000000 = some (.exp (mk 9 2 0 0x005 0x1FF 0x0)) ∧
    decodeTableWord 64 0x3F8000FFE0000000 = some (.pow (mk 8 0 0 0x003 0x1FF 0x0)) ∧
    decodeTableWord 64 0x3E8601BFE0000000 = some (.rsqrt (mk 8 3 0 0x006 0x1FF 0x0)) ∧
    decodeTableWord 64 0x3AA800FFE0000000 = some (.tanh (mk 10 4 0 0x003 0x1FF 0x0)) := by decide

theorem test_decode_lanes :
    decodeTableWord 64 0x505200FFE0000000 = some (.shuf (mk 5 1 0 0x003 0x1FF 0x0)) ∧
    decodeTableWord 64 0x5390017FE0000006 = some (.scan (mk 9 0 0 0x005 0x1FF 0x6)) ∧
    decodeTableWord 64 0x5402017FE0000000 = some (.pack (mk 0 1 0 0x005 0x1FF 0x0)) ∧
    decodeTableWord 64 0x5502017FE0000000 = some (.unpk (mk 0 1 0 0x005 0x1FF 0x0)) := by decide

theorem test_decode_token_control :
    decodeTableWord 64 0x58000180E0000000 = some (.steer (mk 0 0 0 0x006 0x007 0x0)) ∧
    decodeTableWord 64 0x5A00607FE0000000 = some (.gate (mk 0 0 0 0x181 0x1FF 0x0)) ∧
    decodeTableWord 64 0x5C00007FE0000000 = some (.tagiCtx (mk 0 0 0 0x001 0x1FF 0x0)) ∧
    decodeTableWord 64 0x5D02023FE0000000 = some (.tagxFin (mk 0 1 0 0x008 0x1FF 0x0)) ∧
    decodeTableWord 64 0x5E0000A120000002 = some (.kbndAdmit (mk 0 0 0 0x002 0x109 0x2)) ∧
    decodeTableWord 64 0x5F0060BFE0000042 = some (.join (mk 0 0 0 0x182 0x1FF 0x42)) ∧
    decodeTableWord 64 0x610000A0E00003FF = some (.ctr (mk 0 0 0 0x002 0x107 0x3FF)) ∧
    decodeTableWord 64 0x62007FFFE0001000 = some (.exit (mk 0 0 0 0x1FF 0x1FF 0x1000)) ∧
    decodeTableWord 64 0x630002BFE0000000 = some (.reord (mk 0 0 0 0x00A 0x1FF 0x0)) ∧
    decodeTableWord 64 0x809002BFE0063007 = some (.cmb (mk 9 0 0 0x00A 0x1FF 0x63007)) := by decide

theorem test_decode_registers :
    decodeTableWord 64 0x6800007FE0000005 = some (.read (mk 0 0 0 0x001 0x1FF 0x5)) ∧
    decodeTableWord 64 0x690000FFE0000005 = some (.write (mk 0 0 0 0x003 0x1FF 0x5)) := by decide

theorem test_decode_memory :
    decodeTableWord 64 0x709000BFE0200040 = some (.ld (mk 9 0 0 0x002 0x1FF 0x200040)) ∧
    decodeTableWord 64 0x7190013FE0500080 = some (.st (mk 9 0 0 0x004 0x1FF 0x500080)) ∧
    decodeTableWord 64 0x727203FFE0100108 = some (.ldi (mk 7 1 0 0x00F 0x1FF 0x100108)) ∧
    decodeTableWord 64 0x73727FFFE0100100 = some (.sti (mk 7 1 0 0x1FF 0x1FF 0x100100)) ∧
    decodeTableWord 64 0x747401BFE0500010 = some (.atomOr (mk 7 2 0 0x006 0x1FF 0x500010)) ∧
    decodeTableWord 64 0x750400C0E0000040 = some (.xlate (mk 0 2 0 0x003 0x007 0x40)) ∧
    decodeTableWord 64 0x7600013FE0000002 = some (.pwin (mk 0 0 0 0x004 0x1FF 0x2)) ∧
    decodeTableWord 64 0x7C00017FE0700000 = some (.fence (mk 0 0 0 0x005 0x1FF 0x700000)) ∧
    decodeTableWord 64 0x7D0002BFE0500000 = some (.publ (mk 0 0 0 0x00A 0x1FF 0x500000)) ∧
    decodeTableWord 64 0x7E0000FFE0500000 = some (.shdw (mk 0 0 0 0x003 0x1FF 0x500000)) := by decide

theorem test_decode_streams :
    decodeTableWord 64 0x77000080C0100000 = some (.srd (mk 0 0 0 0x002 0x006 0x100000)) ∧
    decodeTableWord 64 0x7800027FE0500001 = some (.swr (mk 0 0 0 0x009 0x1FF 0x500001)) ∧
    decodeTableWord 64 0x7900013FE0000001 = some (.gath (mk 0 0 0 0x004 0x1FF 0x1)) ∧
    decodeTableWord 64 0x7A0001FFE0500002 = some (.scat (mk 0 0 0 0x007 0x1FF 0x500002)) := by decide

theorem test_decode_tiles :
    decodeTableWord 64 0x88A0027FE0088000 = some (.mma (mk 10 0 0 0x009 0x1FF 0x88000)) ∧
    decodeTableWord 64 0x89A0020120088000 = some (.mmam (mk 10 0 0 0x008 0x009 0x88000)) ∧
    decodeTableWord 64 0x8AA001BFE00A8000 = some (.scout (mk 10 0 0 0x006 0x1FF 0xA8000)) ∧
    decodeTableWord 64 0x8B9221FFE60F0000 = some (.scrb (mk 9 1 0 0x087 0x1FF 0x60F0000)) ∧
    decodeTableWord 64 0x8C00007FE0000004 = some (.ring (mk 0 0 0 0x001 0x1FF 0x4)) ∧
    decodeTableWord 64 0x8D00013FE000FE10 = some (.rrot (mk 0 0 0 0x004 0x1FF 0xFE10)) ∧
    decodeTableWord 64 0x8F90017FE5318000 = some (.tred (mk 9 0 0 0x005 0x1FF 0x5318000)) ∧
    decodeTableWord 64 0x8EF0013FE1110000 = some (.tcvtRing (mk 15 0 0 0x004 0x1FF 0x1110000)) := by decide

theorem test_decode_remote_and_groups :
    decodeTableWord 64 0xA37C017FE0000000 = some (.ratmCas (mk 7 6 0 0x005 0x1FF 0x0)) ∧
    decodeTableWord 64 0xA4A00180E0000003 = some (.mcred (mk 10 0 0 0x006 0x007 0x3)) ∧
    decodeTableWord 64 0xA50001C100000003 = some (.mcst (mk 0 0 0 0x007 0x008 0x3)) := by decide

theorem test_decode_work_and_statistics :
    decodeTableWord 64 0xA80000BFE0200000 = some (.wqini (mk 0 0 0 0x002 0x1FF 0x200000)) ∧
    decodeTableWord 64 0xA9000120A0200100 = some (.wqnx (mk 0 0 0 0x004 0x105 0x200100)) ∧
    decodeTableWord 64 0xAC0002FFE0000003 = some (.stad (mk 0 0 0 0x00B 0x1FF 0x3)) ∧
    decodeTableWord 64 0xAD007FFFE0000000 = some (.stsnk (mk 0 0 0 0x1FF 0x1FF 0x0)) := by decide

theorem test_decode_system :
    decodeTableWord 64 0xB000023FE0000021 = some (.trap (mk 0 0 0 0x008 0x1FF 0x21)) ∧
    decodeTableWord 64 0xB200013FE0000031 = some (.mfs (mk 0 0 0 0x004 0x1FF 0x31)) ∧
    decodeTableWord 64 0xB40001C120000000 = some (.yield (mk 0 0 0 0x007 0x009 0x0)) ∧
    decodeTableWord 64 0xB700007FE0000000 = some (.rdtim (mk 0 0 0 0x001 0x1FF 0x0)) := by decide

theorem test_decode_extension :
    decodeTableWord 64 0xE09000BFE0200040 = some (.xld (mk 9 0 0 0x002 0x1FF 0x200040)) := by decide

/-- A copy's word, laid out from R320: OPC 0x98, T0 = s3.a, T1 none, RING 2, SCOPE 1, DR, DESC 5. -/
theorem test_decode_copies :
    decodeTableWord 64 0x980000FFE2180005 = some (.cpy (mk 0 0 0 0x003 0x1FF 0x2180005)) ∧
    decodeTableWord 64 0x990000FFE0100005 = some (.cpys (mk 0 0 0 0x003 0x1FF 0x100005)) := by decide

/-- An approximate function's word, laid out from R273 and R288: OPC 0x41, TY 9, T0 = s4.a, T1 none. -/
theorem test_decode_approximate :
    decodeTableWord 64 0x4190013FE0000000 = some (.exp2a (mk 9 0 0 0x004 0x1FF 0)) := by decide

/-- Queue words of the examples at the end of the queue entries and of the first program: QLNCH, QWGE, QSIG, QINTR and QEND. -/
theorem test_decode_queue_launch :
    decodeQueue [0x0100600000000001, 0x4000000000000051, 0x4000000000000000, 0x4000000000100000, 0x4000000000200000, 0x0C00000000000000] =
      .ok (.qlnch 1 true 1 0x51 0x100000 0x200000, [0x0C00000000000000]) := by rfl

theorem test_decode_queue_wait : decodeQueue [0x0300400000000000, 0x4000000000000001, 0x4000000000000000] = .ok (.qwge 1 1, []) := by rfl

theorem test_decode_queue_signal : decodeQueue [0x05009C0000000000, 0x4000000000000001, 0x4000000000000000] = .ok (.qsig 2 7 1, []) := by rfl

theorem test_decode_queue_interrupt : decodeQueue [0x0700000000000007] = .ok (.qintr 0 7, []) := by rfl

theorem test_decode_queue_end : decodeQueue [0x0C00000000000000] = .ok (.qend 0, []) := by rfl

/-- R293: an extension word reached as a head, a KIND of 10, and an extension position that holds a head word. -/
theorem test_decode_queue_refused :
    decodeQueue [0x4000000000000000] = .error (.queueMisaligned 0) ∧ decodeQueue [0x8000000000000000] = .error (.queueUndefined 0) ∧
    decodeQueue [0x0300400000000000, 0x4000000000000001, 0x0C00000000000000] = .error (.queueMisaligned 2) := ⟨rfl, rfl, rfl⟩

/-- The grid of R288 leaves 0x1E, 0x7F and 0xFF undefined. -/
theorem test_decode_undefined :
    decodeTableWord 64 0x1E00000000000000 = none ∧ decodeTableWord 64 0x7F00000000000000 = none ∧
    decodeTableWord 64 0xFF00000000000000 = none := by decide

/-! ## Well-formedness: one ill-formed term for each check -/

/-- R276: a target code from 0x190 to 0x1FE is none that an image may hold. -/
theorem test_refuses_targets : loadCheck (.mov (mk 7 0 0 0x190 0x1FF 0)) = some loadOperand := by decide

/-- R306: conditions 6 and 7. -/
theorem test_refuses_cmp : loadCheck (.cmp (mk 4 0 0 1 0x1FF 6)) = some loadOperand := by decide

/-- R341: CC above 7. -/
theorem test_refuses_fcmp : loadCheck (.fcmp (mk 9 0 0 1 0x1FF 8)) = some loadOperand := by decide

/-- R328. -/
theorem test_refuses_cvt : loadCheck (.cvt (mk 0 0 0 1 0x1FF 0x2E)) = some loadOperand := by decide

/-- R314: lane 8 of 8. -/
theorem test_refuses_bcst : loadCheck (.bcst (mk 4 0 0 1 0x1FF 8)) = some loadOperand := by decide

/-- R402: an integer operation on a float type. -/
theorem test_refuses_redl : loadCheck (.redl (mk 9 0 0 1 0x1FF 0)) = some loadOperand := by decide

/-- R402: an exclusive scan of FMIN. -/
theorem test_refuses_scan : loadCheck (.scan (mk 9 0 0 1 0x1FF 0x17)) = some loadOperand := by decide

/-- R377: TY 6 to D. -/
theorem test_refuses_pack : loadCheck (.pack (mk 6 0 0 1 0x1FF 0)) = some loadOperand := by decide

/-- R440: TY 6 to D. -/
theorem test_refuses_unpk : loadCheck (.unpk (mk 9 0 0 1 0x1FF 0)) = some loadOperand := by decide

/-- R34: k above 256. -/
theorem test_refuses_kbnd : loadCheck (.kbndAdmit (mk 0 0 0 1 0x1FF 257)) = some loadOperand := by decide

/-- R34: k of 0. -/
theorem test_refuses_kbnd_retire : loadCheck (.kbndRetire (mk 0 0 0 1 0x1FF 0)) = some loadOperand := by decide

/-- R331: a target. -/
theorem test_refuses_drop : loadCheck (.drop (mk 0 0 0 1 0x1FF 0)) = some loadOperand := by decide

/-- R40. -/
theorem test_refuses_exit : loadCheck (.exit (mk 0 0 0 0x1FF 0x1FF 0xFFF)) = some loadOperand := by decide

/-- R352: a target. -/
theorem test_refuses_halt : loadCheck (.halt (mk 0 0 0 1 0x1FF 0)) = some loadOperand := by decide

/-- R281: LSID outside an ST. -/
theorem test_refuses_ld : loadCheck (.ld (mk 9 0 0 1 0x1FF 0x1000000)) = some loadMask := by decide

/-- R281. -/
theorem test_refuses_xld : loadCheck (.xld (mk 9 0 0 1 0x1FF 0x1000000)) = some loadMask := by decide

/-- R281. -/
theorem test_refuses_ldi : loadCheck (.ldi (mk 7 0 0 1 0x1FF 0x1000000)) = some loadMask := by decide

/-- R281. -/
theorem test_refuses_sti : loadCheck (.sti (mk 7 0 0 1 0x1FF 0x1000000)) = some loadMask := by decide

/-- R281. -/
theorem test_refuses_sti_clr : loadCheck (.stiClr (mk 7 2 0 1 0x1FF 0x1000000)) = some loadMask := by decide

/-- R281. -/
theorem test_refuses_atom_add : loadCheck (.atomAdd (mk 7 0 0 1 0x1FF 0x1000000)) = some loadMask := by decide

/-- R281. -/
theorem test_refuses_atom_or : loadCheck (.atomOr (mk 7 2 0 1 0x1FF 0x1000000)) = some loadMask := by decide

/-- R281. -/
theorem test_refuses_atom_swap : loadCheck (.atomSwap (mk 7 4 0 1 0x1FF 0x1000000)) = some loadMask := by decide

/-- R281. -/
theorem test_refuses_atom_cas : loadCheck (.atomCas (mk 7 6 0 1 0x1FF 0x1000000)) = some loadMask := by decide

/-- R174: .loc. -/
theorem test_refuses_xlate : loadCheck (.xlate (mk 0 1 0 1 0x1FF 0)) = some loadOperand := by decide

/-- R281. -/
theorem test_refuses_srd : loadCheck (.srd (mk 0 0 0 1 0x1FF 0x1000000)) = some loadMask := by decide

/-- R281. -/
theorem test_refuses_swr : loadCheck (.swr (mk 0 0 0 1 0x1FF 0x1000000)) = some loadMask := by decide

/-- R281. -/
theorem test_refuses_gath : loadCheck (.gath (mk 9 0 0 1 0x1FF 0x1000000)) = some loadMask := by decide

/-- R281. -/
theorem test_refuses_scat : loadCheck (.scat (mk 9 0 0 1 0x1FF 0x1000000)) = some loadMask := by decide

/-- R281. -/
theorem test_refuses_csrd : loadCheck (.csrd (mk 9 0 0 1 0x1FF 0x1000000)) = some loadMask := by decide

/-- R281. -/
theorem test_refuses_fence : loadCheck (.fence (mk 0 0 0 1 0x1FF 0x1000000)) = some loadMask := by decide

/-- R281. -/
theorem test_refuses_publ : loadCheck (.publ (mk 0 0 0 1 0x1FF 0x1000000)) = some loadMask := by decide

/-- R281. -/
theorem test_refuses_shdw : loadCheck (.shdw (mk 0 0 0 1 0x1FF 0x1000000)) = some loadMask := by decide

/-- R281. -/
theorem test_refuses_shdw_rel : loadCheck (.shdwRel (mk 0 1 0 1 0x1FF 0x1000000)) = some loadMask := by decide

/-- R318: an integer operation on a float type. -/
theorem test_refuses_cmb : loadCheck (.cmb (mk 9 0 0 1 0x1FF 0)) = some loadOperand := by decide

/-- R153: rings not distinct. -/
theorem test_refuses_mma : loadCheck (.mma (mk 0xA 0 0 1 0x1FF 0)) = some loadOperand := by decide

/-- R153, R166. -/
theorem test_refuses_mmam : loadCheck (.mmam (mk 0xA 0 0 1 0x1FF 0)) = some loadOperand := by decide

/-- R160, R413: rings not distinct. -/
theorem test_refuses_scout : loadCheck (.scout (mk 0xA 0 0 1 0x1FF 0)) = some loadOperand := by decide

/-- R414: mode 3. -/
theorem test_refuses_scrb : loadCheck (.scrb (mk 9 3 0 1 0x1FF 0)) = some loadOperand := by decide

/-- R409: past the scratchpad. -/
theorem test_refuses_rrot : loadCheck (.rrot (mk 0 0 0 1 0x1FF 0x3FFFF)) = some loadOperand := by decide

/-- R433: rings not distinct. -/
theorem test_refuses_tcvt_ring : loadCheck (.tcvtRing (mk 9 0 0 1 0x1FF 0)) = some loadOperand := by decide

/-- R433: RC beside DM. -/
theorem test_refuses_tcvt_memory : loadCheck (.tcvtMem (mk 9 0 0 1 0x1FF 0xC0000)) = some loadOperand := by decide

/-- R433: rings not distinct. -/
theorem test_refuses_tfn : loadCheck (.tfn (mk 9 0 0 1 0x1FF 0)) = some loadOperand := by decide

/-- R433: an integer operation on a float type. -/
theorem test_refuses_tred : loadCheck (.tred (mk 9 0 0 1 0x1FF 0x1000000)) = some loadOperand := by decide

/-- R433: rings not distinct. -/
theorem test_refuses_ttrn : loadCheck (.ttrn (mk 9 0 0 1 0x1FF 0)) = some loadOperand := by decide

/-- R322: RING without DR. -/
theorem test_refuses_cpy : loadCheck (.cpy (mk 0 0 0 1 0x1FF 0x1000000)) = some loadOperand := by decide

/-- R322: DR. -/
theorem test_refuses_cpys : loadCheck (.cpys (mk 0 0 0 1 0x1FF 0x80000)) = some loadOperand := by decide

/-- R395: PIN. -/
theorem test_refuses_rstp : loadCheck (.rstp (mk 7 0 0 1 0x1FF 0x1000000)) = some loadOperand := by decide

/-- R211: operation 7. -/
theorem test_refuses_mcred : loadCheck (.mcred (mk 9 0 0 1 0x1FF 0x700)) = some loadOperand := by decide

/-- R422: T1. -/
theorem test_refuses_stad : loadCheck (.stad (mk 0 0 0 1 1 0)) = some loadOperand := by decide

/-- R423: T0. -/
theorem test_refuses_stsnk : loadCheck (.stsnk (mk 0 0 0 1 0x1FF 0)) = some loadOperand := by decide

/-- R32, R83, R309, R383, R395, R415, R432: a form whose MOD or X bits, or whose add, belong to another form of its code. -/
theorem test_refuses_forms :
    WellFormed (.tagiNxt (mk 0 0 0 1 0x1FF 0)) = false ∧ WellFormed (.tagx (mk 0 1 0 1 0x1FF 0)) = false ∧
    WellFormed (.tagiCtx (mk 0 1 0 1 0x1FF 0)) = false ∧ WellFormed (.tagxFin (mk 0 0 0 1 0x1FF 0)) = false ∧
    WellFormed (.sti (mk 7 2 0 1 0x1FF 0)) = false ∧ WellFormed (.stiClr (mk 7 0 0 1 0x1FF 0)) = false ∧
    WellFormed (.atomAdd (mk 7 2 0 1 0x1FF 0)) = false ∧ WellFormed (.atomOr (mk 7 0 0 1 0x1FF 0)) = false ∧
    WellFormed (.atomSwap (mk 7 0 0 1 0x1FF 0)) = false ∧ WellFormed (.atomCas (mk 7 4 0 1 0x1FF 0)) = false ∧
    WellFormed (.ratmAdd (mk 7 2 0 1 0x1FF 0)) = false ∧ WellFormed (.ratmOr (mk 7 0 0 1 0x1FF 0)) = false ∧
    WellFormed (.ratmSwap (mk 7 0 0 1 0x1FF 0)) = false ∧ WellFormed (.ratmCas (mk 7 4 0 1 0x1FF 0)) = false ∧
    WellFormed (.shdw (mk 0 1 0 1 0x1FF 0)) = false ∧ WellFormed (.shdwRel (mk 0 0 0 1 0x1FF 0)) = false ∧
    WellFormed (.tcvtRing (mk 9 0 0 1 0x1FF 0x40000)) = false ∧ WellFormed (.tcvtMem (mk 9 0 0 1 0x1FF 0)) = false ∧
    WellFormed (.qlnch 0 false 1 0 0 0) = false ∧ WellFormed (.qsave 0 false 0 1) = false := by decide

theorem test_accepts_example_words :
    WellFormed (.fmul (mk 9 2 0 0x083 0x1FF 0x8040000)) = true ∧ WellFormed (.st (mk 9 0 0 0x004 0x1FF 0x500080)) = true ∧
    WellFormed (.mma (mk 0xA 0 0 0x009 0x1FF 0x88000)) = true := by decide

/-! ## Worked examples of the entries -/

/-- R304's example: ADDS.i8 and ADD.i8 of 100 and 50; −100 and −128 with 50. -/
theorem test_adds_example :
    intLane2 .adds 0 100 50 = (127, flSAT) ∧ intLane2 .add 0 100 50 = (150, flIOV) ∧ intLane2 .adds 0 156 50 = (206, 0) ∧
    intLane2 .adds 0 128 50 = (178, 0) := by decide

/-- R364's example: MULH and MUL of 0xFFFF_FFFF by 2. -/
theorem test_mulh_example :
    intLane2 .mulh 4 0xFFFFFFFF 2 = (0xFFFFFFFF, 0) ∧ intLane2 .mulh 5 0xFFFFFFFF 2 = (1, 0) ∧
    intLane2 .mul 4 0xFFFFFFFF 2 = (0xFFFFFFFE, 0) ∧ intLane2 .mul 5 0xFFFFFFFF 2 = (0xFFFFFFFE, flIOV) := by decide

/-- R404's examples: SAR.i8 and ROT.n8 by −1 of 0x81, 0x7F and 0x40; SEXT and ZEXT at 11. -/
theorem test_shift_examples :
    intLane2 .sar 0 0x81 0xFF = (0xFF, 0) ∧ intLane2 .sar 0 0x7F 0xFF = (0, 0) ∧ intLane2 .rot 1 0x81 0xFF = (0xC0, 0) ∧
    intLane2 .rot 1 0x7F 0xFF = (0xBF, 0) ∧ intLane2 .rot 1 0x40 0xFF = (0x20, 0) ∧ intLane2 .zext 5 0xFFFFF8A5 11 = (0x8A5, 0) ∧
    intLane2 .sext 5 0xFFFFF8A5 11 = (0xFFFFF8A5, 0) := by decide

/-- R122: a division by 0, and the minimum by −1. -/
theorem test_division_corners :
    intLane2 .div 0 77 0 = (0, flDZ) ∧ intLane2 .rem 0 77 0 = (77, flDZ) ∧ intLane2 .div 0 0x80 0xFF = (0x80, flIOV) ∧
    intLane2 .rem 0 0x80 0xFF = (0, flIOV) ∧ intLane2 .rem 0 0xF9 2 = (0xFF, 0) := by decide

/-- R344's example: 3 × 2⁻¹⁴⁹ scaled by −1 is a tie that goes to even, with UF and NX; R115: a signalling NaN. -/
theorem test_fp_examples :
    (fpLane2 .add (fmtOf 9) .rne 0x4B800000 0x3F800000).1 = 0x4B800000 ∧ (fpLane2 .mul (fmtOf 9) .rne 0x7F800001 0x3F800000).1 = 0x7FC00000 := by decide

/-- A DIV.i64 of 0 by 0 sets DZ in FLAGS: one step of the machine (R122, R130). -/
theorem test_step_div_zero :
    (match step (State.reset.withFetchWord 64 0x056000BFE0000000) with
      | .next t => (t.elem? { rid := 0, bent := 0 } 0 0).map (·.flags)
      | _ => none) = some flDZ := by decide

/-- An MTS to a reserved number sets SRWR, bit 28 of WARN (R272, R295). -/
theorem test_step_mts_reserved :
    (match step (State.reset.withFetchWord 64 0xB300013FE0000044) with
      | .next t => (t.elem? { rid := 0, bent := 0 } 0 0).map (·.warn)
      | _ => none) = some (warnBit 28) := by decide

/-- An ST to address 1 of a 4-byte type stores nothing and takes MISALIGNED (R65). -/
theorem test_step_misaligned :
    (match step (State.reset.withFetchWord 64 0x7190013FE0000001) with
      | .next t => t.parts.map (fun p => p.faults.map (fun f => (f.cause, f.addr)))
      | _ => []) = [[(Cause.misaligned.code, 1)]] := by decide

/-- QEND stops its queue (R216, R389). -/
theorem test_step_queue_end :
    (match step (State.reset.withFetchWord 320 0x0C00000000000000) with
      | .next t => t.queues.map (·.state)
      | _ => []) = [.stopped] := by decide

/-! ## States that meet the hypotheses of the statements -/

/-- The bent of the placed instruction. -/
def br0 : BentRef := { rid := 0, bent := 0 }

/-- The package at the origin. -/
def pk0 : Pkg := { px := 0, py := 0 }

/-- The virtual device of the placed instruction. -/
def vd0 : VdRef := { part := 0, vd := 0 }

/-- The root tag of the placed bent, and that of its timeline 0. -/
def tg : Tag := Tag.mk 0 0
def tgo : Tag := Tag.mk 1 0

/-- A token that waits at the placed slot. -/
def wt (port : Port) (k : Token) : WaitTok := { blk := 0, slot := 0, port := port, tok := k, at_ := 0, frozen := false }

/-- A ready entry of the placed slot with scalar operands. -/
def rd (tag : Tag) (a b p : Option Nat) : Ready :=
  { blk := 0, slot := 0, tag := tag, a := a.map (fun v => wt .a (scalarTok tag v)), b := b.map (fun v => wt .b (scalarTok tag v)),
    p := p.map (fun v => wt .p (scalarTok tag v)) }

/-- The firing that a ready entry gives. -/
def cx (r : Ready) : Ctx := { br := br0, u := .elem 0 0, blk := r.blk, slot := r.slot, tag := r.tag, a := r.a, b := r.b, p := r.p }
def cxs (r : Ready) : Ctx := { cx r with u := .station 0 0 }

/-- The state with a word placed and the firing of a ready entry in the latch. -/
def st (w : W64) (r : Ready) : State := { State.reset.placeSlot w with cur := .firing br0 (.elem 0 0) r }
def sts (w : W64) (r : Ready) : State := { State.reset.placeSlot w with cur := .firing br0 (.station 0 0) r }

/-- Words with T0 = s2.a and no other field, by opcode. -/
def wd (opc : Nat) : W64 := BitVec.ofNat 64 (opc * 2 ^ 56 + 0xBFE0000000)

/-- The fields of a word. -/
def ow (w : W64) : SlotOps := SlotOps.ofWord w

/-- Ready entries with A; with A and B; with A, B and P. -/
def rA : Ready := rd tg (some 0) none none
def rAB : Ready := rd tg (some 0) (some 0) none
def rO : Ready := rd tgo (some 7) none none

theorem witness_SlotWordRoundTrip :
    (Instr.kbndAdmit (mk 0 0 0 2 0x1FF 256)).ops? ≠ none ∧ WellFormed (.kbndAdmit (mk 0 0 0 2 0x1FF 256)) = true ∧
    ∀ p, Instr.kbndAdmit (mk 0 0 0 2 0x1FF 256) ≠ .kbndRetire p := ⟨by decide, by decide, fun _ h => by cases h⟩

theorem witness_SlotWordHasOneMeaning : decodeSlot 0xE3FFFFFFFFFFFFFF = .ok (.rsto (mk 15 7 3 0x1FF 0x1FF 0x1FFFFFFF)) := by rfl

theorem witness_QueueWordRoundTrip :
    encode (.qlnch 1023 true 0xFFFFFFFF 1 0 0) ≠ [] ∧ (Instr.qlnch 1023 true 0xFFFFFFFF 1 0 0).ops? = none := by decide

theorem witness_UndefinedOpcodesAreRefused :
    slotOpc 0x1E00000000000000 = 0x1E ∧ slotOpc 0xE400000000000000 = 0xE4 ∧ slotOpc 0xE300000000000000 = 0xE3 := by decide

theorem witness_FiringStepRunsTheDecodedInstruction :
    ∃ (s t : State) (u : UnitLoc) (r : Ready) (rs : List Ready) (p : PSlot) (i : Instr),
      s.nextAct = (.fire br0 u, []) ∧ s.unitRuns br0 u = true ∧ s.injectFree br0 u = true ∧ s.candidates br0 u = r :: rs ∧
      s.slot? 0 r.blk r.slot = some p ∧ decodeSlot p.word = .ok i ∧ (∀ o, i ≠ .kbndAdmit o) ∧ s.replays (cx r) = false ∧
      exec i { (s.takeReady br0 u r).chargeAct (cx r) (slotOpc p.word) with cur := .firing br0 u r (!(s.unitToks br0 u).2.contains r) } = .next t ∧ t.cur ≠ .waits :=
  ⟨State.reset.placeSlot (wd 0x1B), _, .elem 0 0, _, _, _, _, rfl, by decide, by decide, rfl, rfl, rfl, (fun o h => by cases h), by decide, rfl,
    by decide⟩

/-- A token on port B of a placed KBND with a live count of 2. -/
def sRetire : State :=
  ((State.reset.placeSlot 0x5E0000A120000002).updElem br0 0 0 (fun e => { e with ready := [rd tg none (some 0) none] })).updElem br0 0 0
    (fun e => { e with kbnd := [{ blk := 0, slot := 0, ctx := 0, live := 2, first := 0 }] })

theorem witness_FiringStep_retirement :
    ∃ (t : State) (r : Ready) (rs : List Ready) (p : PSlot) (o : SlotOps),
      sRetire.nextAct = (.fire br0 (.elem 0 0), []) ∧ sRetire.unitRuns br0 (.elem 0 0) = true ∧ sRetire.injectFree br0 (.elem 0 0) = true ∧
      sRetire.candidates br0 (.elem 0 0) = r :: rs ∧ sRetire.slot? 0 r.blk r.slot = some p ∧ decodeSlot p.word = .ok (.kbndAdmit o) ∧
      (r.a.isNone && r.b.isSome) = true ∧
      exec (.kbndRetire o) { (sRetire.takeReady br0 (.elem 0 0) r).chargeAct (cx r) (slotOpc p.word) with
        cur := .firing br0 (.elem 0 0) r (!(sRetire.unitToks br0 (.elem 0 0)).2.contains r) } = .next t ∧
      t.cur ≠ .waits :=
  ⟨_, _, _, _, _, rfl, by decide, by decide, rfl, rfl, rfl, by decide, rfl, by decide⟩

theorem witness_QueueStepRunsTheDecodedInstruction :
    ∃ (s t : State) (x : Queue) (i : Instr),
      s.nextAct = (.take vd0 0, []) ∧ s.queue? vd0 0 = some x ∧ x.takes = true ∧ s.inSlot vd0 = true ∧
      x.prog.drop x.qptr = [0x0C00000000000000] ++ [] ∧ decodeQueue ([0x0C00000000000000] ++ []) = .ok (i, []) ∧
      exec i { s with cur := .word vd0 0 [0x0C00000000000000] } = .next t :=
  ⟨State.reset.placeWords [0x0C00000000000000], _, _, _, rfl, rfl, by decide, by decide, rfl, rfl, rfl⟩

theorem witness_EventStepRunsTheEvent :
    (∃ t : State, ({ State.reset with sched := [.ev .fabricReset (.pkg pk0)] } : State).nextAct = (.ev .fabricReset (.pkg pk0), []) ∧
      exec .fabricReset (onEvent { State.reset with sched := [.ev .fabricReset (.pkg pk0)] } (.pkg pk0)) = .next t) ∧
    ({ State.reset with sched := [.tick 1] } : State).nextAct = (.tick 1, []) ∧ (∀ w ∈ State.reset.reorders, w.unsacked = 0) :=
  ⟨⟨_, rfl, rfl⟩, rfl, by decide⟩

/-- A window with a SACK due in the cycle that the step ends, and one that is not. -/
def winDue (at_ : Nat) : Reorder :=
  { space := .vc 0 pk0 0 pk0 1 4, next := 1, held := [], unsacked := 1, oldest := at_, ended := [] }

theorem witness_FinishPassesOneCycle :
    (∀ w ∈ ({ State.reset with reorders := [winDue 0] } : State).reorders, w.due (State.reset.now + 1) = false) ∧
    (winDue 0).due 256 = true ∧ 0 < (winDue 0).unsacked := by decide

theorem witness_BadQueueWordStopsTheQueue :
    (∃ x d, (State.reset.placeWords [0x4000000000000000]).queue? vd0 0 = some x ∧ (State.reset.placeWords [0x4000000000000000]).vdev? vd0 = some d ∧
      x.takes = true ∧ (State.reset.placeWords [0x4000000000000000]).inSlot vd0 = true ∧
      decodeQueue (x.prog.drop x.qptr) = .error (.queueMisaligned 0)) ∧
    (∃ x d, (State.reset.placeWords [0x8000000000000000]).queue? vd0 0 = some x ∧ (State.reset.placeWords [0x8000000000000000]).vdev? vd0 = some d ∧
      x.takes = true ∧ (State.reset.placeWords [0x8000000000000000]).inSlot vd0 = true ∧
      decodeQueue (x.prog.drop x.qptr) = .error (.queueUndefined 0)) :=
  ⟨⟨_, _, rfl, rfl, by decide, by decide, rfl⟩, ⟨_, _, rfl, rfl, by decide, by decide, rfl⟩⟩

theorem witness_StepKeepsMemoryCanonical :
    (∃ t, Inv (st (wd 0x1B) rA) ∧ exec (.mov (ow (wd 0x1B))) (st (wd 0x1B) rA) = .next t) ∧
    ∃ t, Inv (State.reset.placeSlot (wd 0x1B)) ∧ step (State.reset.placeSlot (wd 0x1B)) = .next t :=
  ⟨⟨_, by unfold Inv; decide, rfl⟩, _, by unfold Inv; decide, rfl⟩

theorem witness_NullOperandPassesANull :
    ∃ c, (st (wd 0) { rAB with b := some (wt .b (nullTok tg)) }).firing? = some c ∧ c.toks.any (fun t => t.shape == .null) = true :=
  ⟨_, rfl, by decide⟩

/-- PR = 01 with a false P, and PR = 10 with a true one. -/
theorem witness_PredicatedOffChangesNothing :
    (∃ c p, (st 0x1B0080BFE0000000 (rd tg (some 0) none (some 0))).firing? = some c ∧ c.toks.any (fun t => t.shape == .null) = false ∧
      c.p = some p ∧ (ow 0x1B0080BFE0000000).pr = 1 ∧ p.tok.pay.setWidth 64 = (0 : BitVec 64)) ∧
    (∃ c p, (st 0x1B0100BFE0000000 (rd tg (some 0) none (some 1))).firing? = some c ∧ c.toks.any (fun t => t.shape == .null) = false ∧
      c.p = some p ∧ (ow 0x1B0100BFE0000000).pr = 2 ∧ p.tok.pay.setWidth 64 ≠ (0 : BitVec 64)) :=
  ⟨⟨_, _, rfl, by decide, rfl, by decide, by decide⟩, ⟨_, _, rfl, by decide, rfl, by decide, by decide⟩⟩

theorem witness_PredicateTruthDecides :
    (cx (rd tg (some 0) none (some 1))).toks.any (fun t => t.shape == .null) = false ∧
    (cx (rd tg (some 0) none (some 1))).p = some (wt .p (scalarTok tg 1)) := ⟨by decide, rfl⟩

/-- The hypothesis of every statement about an instruction that runs: its operands are there, none is null, and no predicate stops it. -/
theorem witness_Runs :
    Runs (st (wd 0x1B) rA) (ow (wd 0x1B)) (cx rA) ∧ Runs (st (wd 0) rAB) (ow (wd 0)) (cx rAB) ∧
    Runs (st 0x1B0080BFE0000000 (rd tg (some 0) none (some 1))) (ow 0x1B0080BFE0000000) (cx (rd tg (some 0) none (some 1))) ∧
    Runs (sts (wd 0x8C) rA) (ow (wd 0x8C)) (cxs rA) := ⟨⟨rfl, by decide⟩, ⟨rfl, by decide⟩, ⟨rfl, by decide⟩, ⟨rfl, by decide⟩⟩

/-- Every type code of the integer operations, and those of the float formats, at the ends of their ranges. -/
theorem witness_types_at_their_ends :
    (0 < 8 ∧ 7 < 8) ∧ ((fmtOf 8).decode 0x7FF8000000000000).isNan = true ∧ ((fmtOf 0xD).decode 0x7E).isNan = true ∧
    (∃ d, (fmtOf 8).decode 0x3FF0000000000000 = .fin d) ∧ 0x3FF0000000000000 < 2 ^ (fmtOf 8).bits ∧
    (∃ d, (fmtOf 0xE).decode 7 = .fin d) ∧ 7 < 2 ^ (fmtOf 0xE).bits :=
  ⟨by decide, by decide, by decide, ⟨_, rfl⟩, by decide, ⟨_, rfl⟩, by decide⟩

theorem witness_CorrectlyRoundedFunctionsComplete :
    Runs (st (wd 0x30) rA) (ow (wd 0x30)) (cx rA) ∧ (st (wd 0x30) rA).jointerFull (cx rA) 8 = false := ⟨⟨rfl, by decide⟩, by decide⟩

theorem witness_ComputingInstructionsFrame :
    ∃ c t, (st (wd 0x1B) rA).firing? = some c ∧ exec (.mov (ow (wd 0x1B))) (st (wd 0x1B) rA) = .next t := ⟨_, _, rfl, rfl⟩

theorem witness_SteeringCompletes :
    ∃ c, (st (wd 0x58) (rd tg (some 3) none (some 1))).firing? = some c ∧ c.toks.any (fun t => t.shape == .null) = false ∧
      c.p = some (wt .p (scalarTok tg 1)) ∧ fireCase (prEff (ow (wd 0x58))).1 c = .run := ⟨_, rfl, by decide, rfl, by decide⟩

theorem witness_SteeringPassesNulls :
    ∃ c, (st (wd 0x58) { rd tg (some 3) none none with p := some (wt .p (nullTok tg)) }).firing? = some c ∧
      c.toks.any (fun t => t.shape == .null) = true := ⟨_, rfl, by decide⟩

/-- A tag of a pool context that TAGI.ctx took from the root. -/
def sChild : State :=
  (st (wd 0x5D) (rd (Tag.mk 17 5) (some 3) none none)).updBent br0 (fun b =>
    { b with pool := b.pool.drop 1, ctxs := [{ ctx := 17, parent := tg, closing := false }] })

theorem witness_TagInstructionsComplete :
    (Runs (st (wd 0x5C) rA) (ow (wd 0x5C)) (cx rA) ∧ ∃ k rest b, (st (wd 0x5C) rA).bent? br0 = some b ∧ b.pool = k :: rest) ∧
    (Runs sChild (ow (wd 0x5D)) (cx (rd (Tag.mk 17 5) (some 3) none none)) ∧ sChild.parentOf 0 (Tag.mk 17 5) = some tg) ∧
    (Runs (st (wd 0x5D) rA) (ow (wd 0x5D)) (cx rA) ∧ (st (wd 0x5D) rA).parentOf 0 tg = none) :=
  ⟨⟨⟨rfl, by decide⟩, _, _, _, rfl, rfl⟩, ⟨⟨rfl, by decide⟩, by decide⟩, ⟨rfl, by decide⟩, by decide⟩

/-- A closing context with no token alive. -/
def sClosing : State :=
  (State.reset.placeSlot (wd 0x1B)).updBent br0 (fun b => { b with ctxs := [{ ctx := 17, parent := tg, closing := true }] })

theorem witness_ContextReturnCompletes :
    ∃ b e, sClosing.bent? br0 = some b ∧ b.ctxs.find? (·.ctx == 17) = some e ∧ e.closing = true ∧ sClosing.liveCount 0 17 = 0 :=
  ⟨_, _, rfl, rfl, rfl, by decide⟩

/-- A placed KBND #2 whose root context has a live count. -/
def sKbnd (live : Nat) (r : Ready) : State :=
  (st 0x5E0000A120000002 r).updElem br0 0 0 (fun e => { e with kbnd := [{ blk := 0, slot := 0, ctx := 0, live := live, first := 0 }] })

theorem witness_IterationBoundCompletes :
    (∃ e k, Runs (sKbnd 1 rA) (ow 0x5E0000A120000002) (cx rA) ∧ (sKbnd 1 rA).elemOf (cx rA) = some e ∧ e.kbndOf (cx rA) = some k ∧
      k.live < (ow 0x5E0000A120000002).xf 0 9) ∧
    (∃ e, Runs (st 0x5E0000A120000002 rA) (ow 0x5E0000A120000002) (cx rA) ∧ (st 0x5E0000A120000002 rA).elemOf (cx rA) = some e ∧
      e.kbndOf (cx rA) = none ∧ (e.kbnd.filter (fun k => k.blk == 0 && k.slot == 0)).length < 64) ∧
    (∃ e k, Runs (sKbnd 2 (rd tg none (some 0) none)) (ow 0x5E0000A120000002) (cx (rd tg none (some 0) none)) ∧
      (sKbnd 2 (rd tg none (some 0) none)).elemOf (cx (rd tg none (some 0) none)) = some e ∧ e.kbndOf (cx (rd tg none (some 0) none)) = some k ∧
      k.live = 0 + 2 ∧ e.rows = []) ∧
    (∃ e k, (sKbnd 1 (rd tg none (some 0) none)).elemOf (cx (rd tg none (some 0) none)) = some e ∧ e.kbndOf (cx (rd tg none (some 0) none)) = some k ∧
      k.live = 1 ∧ e.rows = [] ∧
      ∀ w, ((sKbnd 1 (rd tg none (some 0) none)).raiseWarn br0 (.elem 0 0) w).kbndWaits e (cx (rd tg none (some 0) none)) = false) ∧
    (∃ e k, Runs (sKbnd 0 (rd tg none (some 0) none)) (ow 0x5E0000A120000002) (cx (rd tg none (some 0) none)) ∧
      (sKbnd 0 (rd tg none (some 0) none)).elemOf (cx (rd tg none (some 0) none)) = some e ∧ e.kbndOf (cx (rd tg none (some 0) none)) = some k ∧
      k.live = 0) :=
  ⟨⟨_, _, ⟨rfl, by decide⟩, rfl, rfl, by decide⟩, ⟨_, ⟨rfl, by decide⟩, rfl, by decide, by decide⟩,
    ⟨_, _, ⟨rfl, by decide⟩, rfl, rfl, rfl, by decide⟩, ⟨_, _, rfl, rfl, rfl, by decide, fun _ => rfl⟩, _, _, ⟨rfl, by decide⟩, rfl, rfl, rfl⟩

/-- A placed GATE opened for the root context, with a held A token in its rows. -/
def sGate (null : Bool) (r : Ready) : State :=
  (st (wd 0x5A) r).updElem br0 0 0 (fun e => { e with gate := [{ blk := 0, slot := 0, ctx := 0, null := null }],
                                                      rows := [wt .a (scalarTok tg 4)] })

theorem witness_GateCompletes :
    (∃ e, (st (wd 0x5A) (rd tg none none (some 1))).elemOf (cx (rd tg none none (some 1))) = some e ∧ e.gateOf 0 0 0 = none ∧
      (e.gate.filter (fun g => g.blk == 0 && g.slot == 0)).length < 64) ∧
    (∃ e g, (sGate true rA).elemOf (cx rA) = some e ∧ e.gateOf 0 0 0 = some g ∧ g.null = true) ∧
    (∃ e g w p, (sGate false rA).elemOf (cx rA) = some e ∧ (sGate false rA).unitRuns br0 (.elem 0 0) = true ∧ (sGate false rA).slot? 0 0 0 = some p ∧
      e.gateOf 0 0 0 = some g ∧ g.null = false ∧ (cx rA).atok.shape ≠ .null ∧
      e.rows.find? (fun w => w.blk == 0 && w.slot == 0 && w.port == .a && w.tok.tag.ctx == 0) = some w ∧ w.tok.shape ≠ .null) :=
  ⟨⟨_, rfl, by decide, by decide⟩, ⟨_, _, rfl, rfl, rfl⟩, ⟨_, _, _, _, rfl, by decide, rfl, rfl, rfl, by decide, rfl, by decide⟩⟩

/-- A placed REORD that has seen its root context, with the token of iteration 4,095 due and waiting. -/
def sReord : State :=
  (st (wd 0x63) (rd (Tag.mk 0 4095) (some 1) none none)).updElem br0 0 0 (fun e =>
    { e with reord := [{ blk := 0, slot := 0, ctx := 0, due := 4095 }], rows := [wt .a (scalarTok (Tag.mk 0 4095) 4)] })

theorem witness_ReorderCompletes :
    (∃ e, sReord.elemOf (cx rA) = some e ∧ e.dueOf 0 0 0 = some (Tag.mk 0 4095).iter) ∧
    (∃ e, (st (wd 0x63) rA).elemOf (cx rA) = some e ∧ e.dueOf 0 0 0 = none ∧ tg.iter = 0 ∧
      (e.reord.filter (fun r => r.blk == 0 && r.slot == 0)).length < 64) ∧
    (∃ e, ((((st (wd 0x63) rA).updElem br0 0 0 (fun e => { e with ready := [] })).updElemOf (cx rA) (fun e => e.setDue 0 0 0 1)).reordEmit (ow (wd 0x63)) (cx rA)).elemOf (cx rA) = some e ∧
      e.rows = [] ∧ e.ready = []) ∧
    (∃ e p r, sReord.unitRuns br0 (.elem 0 0) = true ∧ sReord.elem? br0 0 0 = some e ∧ sReord.slot? 0 0 0 = some p ∧ e.dueOf 0 0 0 = some 4095 ∧
      (sReord.rowMatches 0 e.rows).find? (fun r => r.blk == 0 && r.slot == 0 && r.tag == Tag.mk 0 4095) = some r) :=
  ⟨⟨_, rfl, by decide⟩, ⟨_, rfl, by decide, by decide, by decide⟩, ⟨_, rfl, by decide, by decide⟩, ⟨_, _, _, by decide, rfl, rfl, by decide, rfl⟩⟩

/-- A JOIN of two arcs, and of one; the arc stands in bits 63 to 58 of lane 0. -/
def wJoin (n1 : Nat) : W64 := BitVec.ofNat 64 (0x5F0000BFE0000000 + n1)

theorem witness_JoinCompletes :
    (∃ e j, (st (wJoin 1) rA).elemOf (cx rA) = some e ∧
      joinMerge (ow (wJoin 1)) { blk := 0, slot := 0, tag := tg, arcs := [], nulls := 0, counter := 0, p := none } (cx rA) = some j ∧
      e.joinOf (cx rA) = none ∧ joinReady (ow (wJoin 1)) j = false ∧ (st (wJoin 1) rA).rowOf (cx rA) = true) ∧
    (∃ j, joinMerge (ow (wJoin 0)) { blk := 0, slot := 0, tag := tg, arcs := [], nulls := 0, counter := 0, p := none } (cx rA) = some j ∧
      joinReady (ow (wJoin 0)) j = true ∧ j.nulls = 0 ∧ j.p = none) ∧
    (ow (wJoin 0)).xf 0 6 < laneAt (scalarTok tg (2 ^ 58)).pay 64 0 / 2 ^ 58 :=
  ⟨⟨_, _, rfl, rfl, by decide, by decide, by decide⟩, ⟨_, rfl, by decide, by decide, by decide⟩, by decide⟩

/-- CTR #1 completes a count at once, and CTR #2 does not. -/
theorem witness_CounterCompletes :
    (∃ e, Runs (st (wd 0x61) rA) (ow (wd 0x61)) (cx rA) ∧ (st (wd 0x61) rA).elemOf (cx rA) = some e ∧ e.ctr = [] ∧
      0 + 1 = (ow (wd 0x61)).xf 0 16 + 1) ∧
    0 + 1 ≠ (ow 0x610000BFE0000001).xf 0 16 + 1 := ⟨⟨_, ⟨rfl, by decide⟩, rfl, by decide, by decide⟩, by decide⟩

/-- CMB of i64 sums with groups of two (key of one iteration bit) and of one, and of f64 sums of two in canonical order. -/
def wCmb (x : Nat) (ty : Nat) : W64 := BitVec.ofNat 64 (0x800000BFE0000000 + ty * 2 ^ 52 + x)
def row0 : CmbRow := { blk := 0, slot := 0, key := tg, seen := 0, vals := [], acc := none, null := false, vector := false, flags := 0, warn := 0 }

theorem witness_CombineCompletes :
    (∃ e r, (st (wCmb 0x1001 6) rA).elemOf (cx rA) = some e ∧ e.cmbOf (cx rA) tg = none ∧
      cmbAdd (ow (wCmb 0x1001 6)) .rne row0 0 (some 5) false false = some (r, 0) ∧ r.seen ≠ (ow (wCmb 0x1001 6)).xf 0 6 + 1 ∧
      (st (wCmb 0x1001 6) rA).rowOf (cx rA) = true) ∧
    (∃ r pay, cmbAdd (ow (wCmb 0x1000 6)) .rne row0 0 (some 5) false false = some (r, 0) ∧ r.seen = (ow (wCmb 0x1000 6)).xf 0 6 + 1 ∧
      r.null = false ∧ (cmbValue (ow (wCmb 0x1000 6)) .rne r).1 = some pay) ∧
    cmbAdd (ow (wCmb 0x61000 8)) .rne row0 1 (some 5) false false = none :=
  ⟨⟨_, _, rfl, by decide, rfl, by decide, by decide⟩, ⟨_, _, rfl, by decide, by decide, rfl⟩, by decide⟩

/-- EXIT with no NX, with NX to block 0 of one, and with NX past the image. -/
theorem witness_ExitOfFreeBlockCompletes :
    (∃ r, Runs (st (wd 0x62) rA) (ow (wd 0x62)) (cx rA) ∧ (st (wd 0x62) rA).ctxTl (cx rA) = none ∧ (st (wd 0x62) rA).raising? 0 = some r ∧
      r.blocks.length = 1) ∧
    (ow (wd 0x62)).x.getLsbD 12 = false ∧ (ow 0x620000BFE0001000).x.getLsbD 12 = true ∧ (ow 0x620000BFE0001000).xf 0 12 < 1 ∧
    (ow 0x620000BFE0001001).x.getLsbD 12 = true ∧ 1 ≤ (ow 0x620000BFE0001001).xf 0 12 :=
  ⟨⟨_, ⟨rfl, by decide⟩, by decide, rfl, rfl⟩, by decide⟩

/-- An activation at timestamp 0 of a placed ORDERED block, with an EXIT executed or not. -/
def sOrd (exits : Nat) : State :=
  { (State.reset.placeSlot (wd 0x68)).updTl br0 0 (fun x => { x with win := x.win.map (fun e => { e with exits := exits }) }) with
    cur := .firing br0 (.elem 0 0) rO }

theorem witness_ExitOfOrderedBlockCompletes :
    (∃ b x e, Runs (sOrd 0) (ow (wd 0x62)) (cx rO) ∧ (sOrd 0).ctxTl (cx rO) = some 0 ∧ (sOrd 0).bent? br0 = some b ∧
      b.timelines[0]? = some x ∧ x.entry? tgo = some e ∧ e.exits = 0) ∧
    (∃ b x e, (sOrd 1).ctxTl (cx rO) = some 0 ∧ (sOrd 1).bent? br0 = some b ∧ b.timelines[0]? = some x ∧ x.entry? tgo = some e ∧ e.exits ≠ 0) :=
  ⟨⟨_, _, _, ⟨rfl, by decide⟩, by decide, rfl, rfl, rfl, rfl⟩, ⟨_, _, _, by decide, rfl, rfl, rfl, by decide⟩⟩

theorem witness_RegisterAccessCompletes :
    (∃ b x e v, (sOrd 0).firing? = some (cx rO) ∧ fireCase (prEff (ow (wd 0x68))).1 (cx rO) = .run ∧ (sOrd 0).ctxTl (cx rO) = some 0 ∧
      (sOrd 0).bent? br0 = some b ∧ b.timelines[0]? = some x ∧ x.entry? tgo = some e ∧ (sOrd 0).gValue 0 x e.ts 63 = some v) ∧
    fireCase 1 (cx (rd tgo (some 7) none (some 0))) = .off :=
  ⟨⟨_, _, _, _, rfl, by decide, by decide, rfl, rfl, rfl, rfl⟩, by decide⟩

/-- An older activation with register 5 written, seen from timestamp 1; its block's write mask names the register. -/
def older : WinEntry :=
  { ts := 0, blk := 0, start := nullTok tgo, exits := 0, exitNull := 0, lsids := [], stores := [], writes := [(5, some 9)], held := [],
    reads := [], faults := [], charged := 0 }
def sMask : State := (sOrd 0).updRaising 0 (fun r => { r with blocks := r.blocks.map (fun k => { k with wrmask := 32 }) })

theorem witness_RegistersReadTheYoungestOlderWrite :
    (∀ e ∈ [older], ¬ e.ts < 0) ∧ older.ts < 1 ∧ (∃ k, sMask.block? 0 older.blk = some k ∧ maskBit k.wrmask 5 = true) ∧
    older.writes.find? (fun w => w.1 == 5) = some (5, some 9) ∧
    ({ older with writes := [(5, none)] } : WinEntry).writes.find? (fun w => w.1 == 5) = some (5, none) ∧
    ({ older with writes := [] } : WinEntry).writes.find? (fun w => w.1 == 5) = none :=
  ⟨by decide, by decide, ⟨_, rfl, by decide⟩, by decide, by decide, by decide⟩

theorem witness_CommitCompletes :
    ∃ b x e, (sOrd 1).bentLive br0 = true ∧ (sOrd 1).bent? br0 = some b ∧ b.timelines[0]? = some x ∧ x.win = e :: [] ∧
      (sOrd 1).entryDone 0 e = true ∧ e.faults = [] ∧ e.stores.any (·.frozen) = false ∧
      (∃ l u, (sOrd 1).settleStores br0 b.pkg e.stores = .ready l u ∧ u.raisings = (sOrd 1).raisings) ∧ e.held = [] ∧ x.waiting = [] :=
  ⟨_, _, _, by decide, rfl, rfl, rfl, by decide, rfl, rfl, ⟨_, _, rfl, rfl⟩, rfl, rfl⟩

/-- A buffered store of four bytes to its own scratchpad. -/
def store0 : SillStore :=
  { lsid := 0, slot := 0, cx := 0, cy := 0, loc := true, va := 64, tgen := 0, shadow := false, ga := spadGa { pkg := pk0, x := 0, y := 0 } 64, key := 0,
    bytes := [1, 2, 3, 4], frozen := false }

theorem witness_FreshStoreIsPerformedInPlace :
    (sOrd 1).storeStale vd0 pk0 store0 = false ∧ ∃ u, (sOrd 1).portReady store0.ga store0.bytes.length = .ready u :=
  ⟨by decide, _, rfl⟩

/-- An aborted activation whose tokens are all gone. -/
def sAborted : State :=
  (State.reset.placeSlot (wd 0x68)).updBent br0 (fun b => { b with
    elems := b.elems.map (fun e => { e with ready := [] })
    timelines := b.timelines.modify 0 (fun x =>
      { x with win := [], aborted := [0], redeliver := some { ts := 0, blk := 0, tok := scalarTok tgo 0 } }) })

theorem witness_AbortRedeliveryCompletes :
    ∃ b x st, sAborted.bentLive br0 = true ∧ (sAborted.discardAborted br0).bent? br0 = some b ∧ b.timelines[0]? = some x ∧
      x.redeliver = some st ∧
      ((sAborted.discardAborted br0).liveTags 0).any (fun g => g.ctx == b.tlCtx.getD 0 0 && x.aborted.contains g.iter) = false :=
  ⟨_, _, _, by decide, rfl, rfl, rfl, by decide⟩

theorem witness_IntegerTwoOperandCompletes : ∃ p ∈ int2Ops, p.1 = .add ∧ Runs (st (wd 0) rAB) (ow (wd 0)) (cx rAB) :=
  ⟨(.add, .add), by simp [int2Ops], rfl, rfl, by decide⟩

theorem witness_OtherIntegerCompletes : Runs (st (wd 0x1A) rAB) (ow (wd 0x1A)) (cx rAB) := ⟨rfl, by decide⟩

theorem witness_IntegerLanesFollowTheTables : (0 : Nat) < 8 ∧ (7 : Nat) < 8 := by decide

theorem witness_FloatingPointCompletes : Runs (st (wd 0x20) rAB) (ow (wd 0x20)) (cx rAB) := ⟨rfl, by decide⟩

/-- A CVT with a scale of NaN. -/
theorem witness_ConversionCompletes :
    let r : Ready := rd tg (some 0) (some 0x7FC00000) none
    Runs (st 0x2C0000BFE0000020 r) (ow 0x2C0000BFE0000020) (cx r) ∧ (ow 0x2C0000BFE0000020).x.getLsbD 5 = true ∧
      scaleF32 (((cx r).btok.plain.lanes 32 8).headD 0) = none := ⟨⟨rfl, by decide⟩, by decide, by decide⟩

theorem witness_NanOperandsGiveTheCanonicalNan :
    ((fmtOf 8).decode 0x7FF8000000000000).isNan = true ∧ ((fmtOf 0xD).decode 0x7E).isNan = true := by decide

theorem witness_RepresentableValuesRoundToThemselves :
    (∃ d, (fmtOf 8).decode 0x3FF0000000000000 = .fin d) ∧ 0x3FF0000000000000 < 2 ^ (fmtOf 8).bits ∧ (∃ d, (fmtOf 0xE).decode 7 = .fin d) ∧
    7 < 2 ^ (fmtOf 0xE).bits := ⟨⟨_, rfl⟩, by decide, ⟨_, rfl⟩, by decide⟩

theorem witness_ApproximateFunctionsComplete : ∃ p ∈ apOps, p.1 = .expa ∧ Runs (st (wd 0x40) rA) (ow (wd 0x40)) (cx rA) :=
  ⟨(.expa, .exp, 0x40), by simp [apOps], rfl, rfl, by decide⟩

theorem witness_LaneInstructionsComplete : Runs (st (wd 0x50) rAB) (ow (wd 0x50)) (cx rAB) := ⟨rfl, by decide⟩

/-! ### Memory, translation and streams -/

/-- Page tables that map the first 512 MiB of addresses to HBM at 0x20000000 with one leaf: V, RD, WR, A, D and the bits given. -/
def mapped (bits : Nat) (s : State) : State :=
  { s with
    mem := [(0, 0x01), (1, 0x40), (0x10000, BitVec.ofNat 8 (0x1F + bits)), (0x10003, 0x08)]
    vdevs := s.vdevs.map (fun d => { d with troot := [(pk0, 0)] }) }

def wLd : W64 := 0x709000BFE0000040
def sLd : State := st wLd rAB

/-- LD.f32, ST.f32 and the other accesses at address 64 with no window: the hypotheses of WalksAway. -/
theorem witness_VirtualAccessesIssue :
    (∃ b e, Runs sLd (ow wLd) (cx rAB) ∧ WalksAway sLd (accessReq sLd (ow wLd) (cx rAB) .ld 4 9 0 0) b e) ∧
    (∃ b e, WalksAway sLd (accessReq sLd (ow wLd) (cx rAB) .st 4 9 (storeData (cx rAB) 9 4) 0) b e) ∧
    (∃ b e, WalksAway sLd (accessReq sLd (ow wLd) (cx rAB) .ldi 8 6 0 0) b e) ∧
    (∃ b e, WalksAway sLd (accessReq sLd (ow wLd) (cx rAB) .sti 8 6 0 0) b e) ∧
    (∃ b e, WalksAway sLd (accessReq sLd (ow wLd) (cx rAB) .stiClr 8 6 0 0) b e) ∧
    (∃ b e, WalksAway sLd (accessReq sLd (ow wLd) (cx rAB) (.atom .cas) 4 9 0 0) b e) :=
  ⟨⟨_, _, ⟨rfl, by decide⟩, by decide, by decide, by decide, by decide, rfl, rfl, by decide⟩,
    ⟨_, _, by decide, by decide, by decide, by decide, rfl, rfl, by decide⟩,
    ⟨_, _, by decide, by decide, by decide, by decide, rfl, rfl, by decide⟩,
    ⟨_, _, by decide, by decide, by decide, by decide, rfl, rfl, by decide⟩,
    ⟨_, _, by decide, by decide, by decide, by decide, rfl, rfl, by decide⟩,
    ⟨_, _, by decide, by decide, by decide, by decide, rfl, rfl, by decide⟩⟩

theorem witness_MisalignedAccessesFault :
    Runs (st 0x709000BFE0000001 rAB) (ow 0x709000BFE0000001) (cx rAB) ∧
    (laneAt (cx rAB).atok.pay 64 0 + (ow 0x709000BFE0000001).xf 0 20) % 2 ^ 64 % 4 ≠ 0 ∧
    (st 0x709000BFE0000001 rAB).ctxAborted (cx rAB) = false := ⟨⟨rfl, by decide⟩, by decide, by decide⟩

/-- LD.f32.loc at offset 64 of the cell's scratchpad. -/
def wLdLoc : W64 := 0x709200BFE0000040

theorem witness_ScratchpadAccessesIssue :
    ∃ b, Runs (st wLdLoc rAB) (ow wLdLoc) (cx rAB) ∧ (ow wLdLoc).mod.getLsbD 0 = true ∧ (st wLdLoc rAB).bent? br0 = some b ∧
      b.localAt 64 = .spad 64 ∧ 64 % 4 = 0 ∧ (st wLdLoc rAB).readFree (accessReq (st wLdLoc rAB) (ow wLdLoc) (cx rAB) .ld 4 9 0 0) = true ∧
      (st wLdLoc rAB).scored br0 0 0 (spadGa (b.cell 0 0) 64) 4 = false ∧
      crossesTo ((st wLdLoc rAB).reqCell { accessReq (st wLdLoc rAB) (ow wLdLoc) (cx rAB) .ld 4 9 0 0 with ga := some (spadGa (b.cell 0 0) 64) })
        (homeOf (spadGa (b.cell 0 0) 64)) = false ∧ laneAt (cx rAB).atok.pay 64 0 / 2 ^ 40 = 0 ∧
      (st wLdLoc rAB).ownForward (accessReq (st wLdLoc rAB) (ow wLdLoc) (cx rAB) .ld 4 9 0 0) (spadGa (b.cell 0 0) 64) = none :=
  ⟨_, ⟨rfl, by decide⟩, by decide, rfl, by decide, by decide, by decide, by decide, by decide, by decide, by decide⟩

/-- A token whose lower 224 bits are zero. -/
theorem check_append (x : BitVec 32) :
    (x ++ (0 : BitVec 224)).setWidth 224 = 0 ∧ (x ++ (0 : BitVec 224)).toNat / 2 ^ 224 = x.toNat ∧
    (x ++ (0 : BitVec 224)).toNat / 2 ^ 181 % 2 ^ 11 = 0 := by
  have e : (x ++ (0 : BitVec 224)).toNat = x.toNat * 2 ^ 224 := by
    rw [BitVec.toNat_append, Nat.shiftLeft_eq]; exact Nat.or_zero _
  refine ⟨BitVec.eq_of_toNat_eq ?_, ?_, ?_⟩
  · rw [BitVec.toNat_setWidth, e, Nat.mul_mod_left]; rfl
  · rw [e, Nat.mul_div_cancel _ (by decide)]
  · rw [e, show (2 : Nat) ^ 224 = 2 ^ 32 * 2 ^ 11 * 2 ^ 181 from by decide, ← Nat.mul_assoc, Nat.mul_div_cancel _ (by decide), ← Nat.mul_assoc,
      Nat.mul_mod_left]

/-- Addresses at the ends of the canonical range, a window token whose check matches, and one with a reserved bit set. -/
theorem witness_TranslationInstructionsComplete :
    Runs (st (wd 0x75) rA) (ow (wd 0x75)) (cx rA) ∧
    ((st (wd 0x75) rA).reqs.filter (fun q => (q.kind == .xlate true || q.kind == .xlate false) && q.br == br0 && q.cx == 0 && q.cy == 0)).length < 8 ∧
    canonVa 0x003FFFFFFFFFFFFF = true ∧ canonVa 0x0040000000000000 = false ∧ canonVa 0xFFC0000000000000 = true ∧
    (ow 0x75000080E0000000).t1 ≠ 0x1FF ∧
    (let pay := Config.windowCheck 0 0 0 0 ++ (0 : BitVec 224)
     pay.toNat / 2 ^ 224 = (Config.windowCheck 0 0 0 (pay.setWidth 224)).toNat ∧ pay.toNat / 2 ^ 181 % 2 ^ 11 = 0) ∧
    ¬ ((2 : Nat) ^ 181 / 2 ^ 181 % 2 ^ 11 = 0) := by
  refine ⟨⟨rfl, by decide⟩, by decide, by decide, by decide, by decide, by decide, ?_, by decide⟩
  have h := check_append (Config.windowCheck 0 0 0 0)
  exact ⟨by rw [h.1]; exact h.2.1, h.2.2⟩

/-- A request of the placed LD at a stage of its life. -/
def rqOf (kind : AccKind) (stage : ReqStage) : Req :=
  { Req.make sLd (cx rAB) kind 64 4 9 with stage := stage, ga := some 0x20000040, leaf := 0x80001F, ptea := 0x10000, big := true }

/-- The placed LD with a request of it, and page tables. -/
def sReq (bits : Nat) (kind : AccKind) (stage : ReqStage) : State :=
  mapped bits { sLd with reqs := [rqOf kind stage], nextId := 1, cur := .none }

theorem witness_WalkCompletes :
    (∃ b w t, (sReq 0 (.xlate false) .walk).req? 0 = some (rqOf (.xlate false) .walk) ∧ (sReq 0 (.xlate false) .walk).bent? br0 = some b ∧
      (onEvent (sReq 0 (.xlate false) .walk) (.num 0)).walk b.pkg vd0 (64 % 2 ^ 55) needRd = (.ok w, t)) ∧
    (∃ b w t u, (sReq 0 .ld .walk).bent? br0 = some b ∧ (∀ wr, (rqOf .ld .walk).kind ≠ .xlate wr) ∧
      (onEvent (sReq 0 .ld .walk) (.num 0)).walk b.pkg vd0 ((onEvent (sReq 0 .ld .walk) (.num 0)).xvaOf (rqOf .ld .walk)) needRd = (.ok w, t) ∧
      ((t.updElem br0 0 0 (fun e => e.install w)).updBent br0 (fun b => b.clearFrozen (rqOf .ld .walk).ctx.u 0 0 tg)).translated
        (rqOf .ld .walk) w = .done u) ∧
    (∃ i t, (onEvent { sLd with reqs := [rqOf .ld .walk] } (.num 0)).walk pk0 vd0 64 needRd = (.bad i, t)) :=
  ⟨⟨_, _, _, rfl, rfl, rfl⟩, ⟨_, _, _, _, rfl, (fun _ h => by cases h), rfl, rfl⟩, ⟨_, _, rfl⟩⟩

theorem witness_DirtyLoggingCompletes :
    (∃ b t u, (sReq 0 .st .dirty).req? 0 = some (rqOf .st .dirty) ∧ (sReq 0 .st .dirty).bent? br0 = some b ∧
      (onEvent (sReq 0 .st .dirty) (.num 0)).setDirty b.pkg vd0 0x10000 ((onEvent (sReq 0 .st .dirty) (.num 0)).xvaOf (rqOf .st .dirty))
        true = some t ∧
      (t.updElem br0 0 0 (fun e => { e with
          pwin := e.pwin.map (fun w => w.map (fun w => if w.ptea = 0x10000 then { w with leaf := w.leaf ||| 16 } else w)),
          own := markDirty 0x10000 e.own })).toHome { rqOf .st .dirty with leaf := (rqOf .st .dirty).leaf ||| 16 } 0x20000040 = .done u) ∧
    (∃ b, ({ sReq 0 .st .dirty with ecc := [0x10000 / 32] } : State).bent? br0 = some b ∧
      (onEvent { sReq 0 .st .dirty with ecc := [0x10000 / 32] } (.num 0)).setDirty b.pkg vd0 0x10000 0 true = none) :=
  ⟨⟨_, _, _, rfl, rfl, rfl, rfl⟩, _, rfl, rfl⟩

theorem witness_StoreAtHomeWritesItsBytes :
    ∃ u, memWf (sReq 0 .st .home).mem = true ∧ (sReq 0 .st .home).req? 0 = some (rqOf .st .home) ∧ NextInOrder (sReq 0 .st .home) (rqOf .st .home) ∧
      (sReq 0 .st .home).parityOf vd0 64 = (rqOf .st .home).shadow ∧
      (sReq 0 .st .home).portReady 0x20000040 4 = .ready u ∧
      u.mem = (sReq 0 .st .home).mem ∧ u.enc = (sReq 0 .st .home).enc ∧ u.reqs = (sReq 0 .st .home).reqs ∧ (rqOf .st .home).space = none :=
  ⟨_, by decide, rfl, ⟨by decide, by decide⟩, by decide, rfl, rfl, rfl, rfl, rfl⟩

theorem witness_LoadAtHomeAnswersTheBytes :
    ∃ u, (sReq 0 .ld .home).req? 0 = some (rqOf .ld .home) ∧ (sReq 0 .ld .home).isOrdered 0 0 = false ∧
      NextInOrder (sReq 0 .ld .home) (rqOf .ld .home) ∧ (rqOf .ld .home).space = none ∧
      (sReq 0 .ld .home).portReady 0x20000040 4 = .ready u ∧
      u.mem = (sReq 0 .ld .home).mem ∧ u.enc = (sReq 0 .ld .home).enc ∧ u.ecc = (sReq 0 .ld .home).ecc ∧ u.reqs = (sReq 0 .ld .home).reqs ∧
      u.raisings = (sReq 0 .ld .home).raisings ∧ (sReq 0 .ld .home).eccIn 0x20000040 4 = false :=
  ⟨_, rfl, by decide, ⟨by decide, by decide⟩, rfl, rfl, rfl, rfl, rfl, rfl, rfl, by decide⟩

theorem witness_AtomicStepReturnsTheOldValue :
    memWf (sReq 0 (.atom .cas) .home).mem = true ∧ { rqOf (.atom .cas) .home with ty := 7, size := 8 }.ty < 8 := by decide

/-- A leaf with IST: an access to a write-once word. -/
def rqIst (kind : AccKind) : Req := { rqOf kind .home with leaf := 0x80003F, size := 8 }

theorem witness_WriteOnceWordsBehave :
    (rqIst .sti).hasPresence = true ∧ (rqIst .ldi).hasPresence = true ∧ (rqIst .stiClr).hasPresence = true ∧
    (sReq 32 .sti .home).present 0x20000040 = false ∧ (sReq 32 .sti .home).deferred = [] ∧ (sReq 32 .sti .home).req? 0 = some (rqOf .sti .home) ∧
    (rqIst .sti).space = none ∧ { rqIst .sti with posted := true }.posted = true ∧ ((sReq 32 .sti .home).elem? br0 0 0).isSome = true ∧
    ({ sReq 32 .sti .home with presence := [0x20000040 / 8] } : State).present 0x20000040 = true := by decide

/-- An answered request of a bent that runs. -/
def sAns (kind : AccKind) (a : Reply) : State :=
  { sLd with reqs := [{ rqOf kind .reply with reply := some a }], nextId := 1, cur := .none }

theorem witness_ReplyCompletes :
    (sAns .ld (.val 5)).req? 0 = some { rqOf .ld .reply with reply := some (.val 5) } ∧ ((sAns .ld (.val 5)).bent? br0).isSome = true ∧
    (sAns .ld (.val 5)).bentLive br0 = true ∧ (sAns .ld (.val 5)).ctxAborted (rqOf .ld .reply).ctx = false ∧ (rqOf .ld .reply).posted = false ∧
    slotOpc (((sAns .ld (.val 5)).slot? 0 0 0).elim 0 (·.word)) = 0x70 ∧
    (sAns .st .ack).req? 0 = some { rqOf .st .reply with reply := some .ack } := by decide

/-- A FENCE that covers nothing more, and a PUBL of address 0. -/
def fence0 : Fence := { id := 0, br := br0, cx := 0, cy := 0, blk := 0, slot := 0, tag := tg, scope := 2, covers := [], posted := [], lost := 0, warn := 0 }

theorem witness_FenceAndPublComplete :
    (Runs (st (wd 0x7C) rA) (ow (wd 0x7C)) (cx rA)) ∧
    (let s : State := { st (wd 0x7C) rA with fences := [fence0], cur := .none }
     s.req? 0 = none ∧ s.fences.find? (·.id == 0) = some fence0 ∧ s.bentLive br0 = true ∧ (onEvent s (.num 0)).fenceDone fence0 = true) ∧
    (∃ b e, Runs (st (wd 0x7D) rA) (ow (wd 0x7D)) (cx rA) ∧ (st (wd 0x7D) rA).reqs = [] ∧
      WalksAway (st (wd 0x7D) rA) { Req.make (st (wd 0x7D) rA) (cx rA) .publ 0 1 0 with scope := 0 } b e) :=
  ⟨⟨rfl, by decide⟩, by decide, ⟨_, _, ⟨rfl, by decide⟩, rfl, by decide, by decide, by decide, by decide, rfl, rfl, by decide⟩⟩

/-- SHDW of the 64 KiB pages at 0 and at 0x10000, whose leaf has SHD, and a buffer of generation 2 to release. -/
def rShd : Ready := { rA with a := some (wt .a (vectorTok tg (BitVec.ofNat 256 (2 ^ 64 * 0x10000 + 2 ^ 128 * 0x10000)))) }
def sShd : State := mapped 64 (st (wd 0x7E) rShd)
def sRel : State := (st 0x7E0200BFE0000000 rShd).updVdev vd0 (fun d => { d with shadows := [{ vbase := 0, sbase := 0x10000, len := 0x10000, g := 2 }] })

theorem witness_ShadowAndBarrierComplete :
    (∃ t u, Runs sShd (ow (wd 0x7E)) (cx rShd) ∧ canonVa 0 = true ∧ canonVa 0x10000 = true ∧ laneAt (cx rShd).atok.pay 64 0 = 0 ∧
      laneAt (cx rShd).atok.pay 64 1 = 0x10000 ∧ laneAt (cx rShd).atok.pay 64 2 = 0x10000 ∧ overlaps 0 0x10000 0x10000 0x10000 = false ∧
      ((sShd.vdev? vd0).map (·.shadows)).getD [] = [] ∧ sShd.walkPages pk0 vd0 0 1 0 = .ok t ∧ t.walkPages pk0 vd0 0x10000 1 0 = .ok u) ∧
    (∃ d b, Runs sRel (ow 0x7E0200BFE0000000) (cx rShd) ∧ sRel.vdev? vd0 = some d ∧ d.shadows.find? (·.vbase == 0) = some b ∧ b.g % 2 = 0 ∧
      sRel.shPending vd0 b sRel.nextId = false ∧ sRel.reqs = []) :=
  ⟨⟨_, _, ⟨rfl, by decide⟩, by decide, by decide, by decide, by decide, by decide, by decide, by decide, rfl, rfl⟩,
    ⟨_, _, ⟨rfl, by decide⟩, rfl, rfl, by decide, by decide, rfl⟩⟩

/-- A descriptor of four n64 elements from address 0, and one with a table of two dimensions. -/
def dsc : BitVec 512 := 7#4 ++ 0#348 ++ 4#32 ++ 0#128
def withDesc (d : BitVec 512) (s : State) : State :=
  s.updRaising 0 (fun r => { r with blocks := r.blocks.map (fun k => { k with descs := [d] }) })
def sDesc (w : W64) (r : Ready) : State := withDesc dsc (mapped 0 (st w r))

/-- A stream of the placed slot with its first unit due. -/
def stream0 (kind : StreamKind) : Stream :=
  { id := 0, kind := kind, blk := 0, slot := 0, tag := tg, atok := scalarTok tg 0, base := 0, next := 0, emit := 0, count := 1, held := [],
    parked := [], done := [], spilled := [], gens := [], ptrs := [], stalled := false, badrows := 0, warn := 0 }
def sStream (kind : StreamKind) (w : W64) (r : Ready) : State := (sDesc w r).updElem br0 0 0 (fun e => { e with streams := [stream0 kind] })
def rB : Ready := rd tg none (some 9) none

theorem witness_StreamInstructionsComplete :
    (∃ e, Runs (sDesc (wd 0x77) rA) (ow (wd 0x77)) (cx rA) ∧ (sDesc (wd 0x77) rA).elemOf (cx rA) = some e ∧
      ringBase ((sDesc (wd 0x77) rA).ctxDesc (cx rA) (ow (wd 0x77))) 0 = false ∧ e.streams.length < 8 ∧ e.swrOf 0 0 0 = none) ∧
    (∃ e bs wins t, Runs (sStream .swr (wd 0x78) rB) (ow (wd 0x78)) (cx rB) ∧ (sStream .swr (wd 0x78) rB).elemOf (cx rB) = some e ∧
      (cx rB).a = none ∧ e.swrOf 0 0 0 = some (stream0 .swr) ∧ (stream0 .swr).swrAt (cx rB).tag.iter = .here 0 ∧ (Desc.ofBits dsc).sh = false ∧
      (sStream .swr (wd 0x78) rB).engineStore ((sStream .swr (wd 0x78) rB).agAccess br0 e (Desc.ofBits dsc) needWr false [] false 0
        (sStream .swr (wd 0x78) rB).nextId) [] ((Desc.ofBits dsc).unitAddrs 0 0 ++ []) (swrBytes (Desc.ofBits dsc) (cx rB).btok ((Desc.ofBits dsc).unitAddrs 0 0).length 0) =
          .ok bs wins t) ∧
    ((sDesc (wd 0x79) rAB).reqs.length < 64 ∧ (sDesc (wd 0x79) rAB).gathFar { Req.make (sDesc (wd 0x79) rAB) (cx rAB) .gath 0 1 7 with
      stage := .home, data := (cx rAB).atok.plain.pay } = none) ∧
    (∃ q, scatTake (Desc.ofBits dsc) [(0, 0)] { blk := 0, slot := 0, ctx := 0, total := 0, batch := [], warn := 0 } [] = (q, [])) :=
  ⟨⟨_, ⟨rfl, by decide⟩, rfl, by decide, by decide, by decide⟩, ⟨_, _, _, _, ⟨rfl, by decide⟩, rfl, rfl, rfl, by decide, by decide, rfl⟩, ⟨by decide, by decide⟩,
    ⟨_, rfl⟩⟩

/-- A walk of 300 units whose first two positions are done: the last position in reach, the first beyond it, and one past the walk. -/
theorem witness_SwrPositionsFollowTheIterations :
    let x : Stream := { stream0 .swr with count := 300, next := 2 }
    x.count ≤ 4096 ∧ x.swrAt 257 = .here 257 ∧ x.swrAt 258 = .ahead ∧ x.swrAt 300 = .over_ 300 := by decide

/-- A closed batch of one pair of the placed SCAT, of an index inside the table of four or outside. -/
def batch0 (i : Int) : ScatBatch :=
  { id := 0, blk := 0, slot := 0, tag := tg, base := 0, elems := [{ pos := 0, idx := i, val := 3 }], rnd := 0, warn := 0, pos := 0, frozen := false }
def sBatch (i : Int) : State := (sDesc (wd 0x7A) rAB).updElem br0 0 0 (fun e => { e with batches := [batch0 i] })

/-- The access of a batch of the placed SCAT. -/
def accBatch (b : Bent) : Access :=
  { br := br0, spad := b.cell 0 0, loc := false, need := needWr, sh := false, gens := [], tile := false, owner := 0 }

/-- Whether an engine's access ends well. -/
def ended : EngEnd → Bool
  | .ok _ _ _ => true
  | _ => false

theorem ended_ok {e : EngEnd} (h : ended e = true) : ∃ bs wins t, e = .ok bs wins t := by
  cases e with
  | ok bs wins t => exact ⟨bs, wins, t, rfl⟩
  | bad _ _ _ => cases h
  | waits => cases h

theorem witness_StreamWorkCompletes :
    (∃ e bs wins t, (sStream .srd (wd 0x77) rA).bentLive br0 = true ∧ (sStream .srd (wd 0x77) rA).elem? br0 0 0 = some e ∧
      e.streams.find? (·.id == 0) = some (stream0 .srd) ∧ 0 < (stream0 .srd).count ∧ e.eccFrozen = false ∧ (Desc.ofBits dsc).loc = false ∧
      (sStream .srd (wd 0x77) rA).engineLoad ((sStream .srd (wd 0x77) rA).agAccess br0 e (Desc.ofBits dsc) needRd false [] false 0 0) []
        ((Desc.ofBits dsc).unitAddrs 0 0 ++ []) = .ok bs wins t) ∧
    (∃ b e, (sBatch (-1)).bentLive br0 = true ∧ (sBatch (-1)).bent? br0 = some b ∧ (sBatch (-1)).elem? br0 0 0 = some e ∧
      e.batches.find? (·.id == 0) = some (batch0 (-1)) ∧ (segments (batch0 (-1)).elems)[0]? = some (-1, [3]) ∧ (-1 : Int) < 0 ∧
      Int.ofNat (Desc.ofBits dsc).tableExt ≤ 4294967295) ∧
    (∃ b, (sBatch 3).bent? br0 = some b ∧ (segments (batch0 3).elems)[0]? = some (3, [3]) ∧ 3 < Int.ofNat (Desc.ofBits dsc).tableExt ∧
      (Desc.ofBits dsc).cop = 0 ∧ (Desc.ofBits dsc).sh = false ∧
      ∃ bs wins t, (sBatch 3).engineStore (accBatch b) ((sBatch 3).ventWinsOf b.pkg ((sBatch 3).ventPort b.pkg vd0 0) vd0)
        ((List.range (Desc.ofBits dsc).es).map (fun k => addrAt 0 (3 * Int.ofNat (Desc.ofBits dsc).es + Int.ofNat k)))
        (bytesOf (Desc.ofBits dsc).es 3) = .ok bs wins t) :=
  ⟨⟨_, _, _, _, by decide, rfl, rfl, by decide, rfl, by decide, rfl⟩, ⟨_, _, by decide, rfl, rfl, rfl, by decide, by decide, by decide⟩,
    ⟨_, rfl, by decide, by decide, by decide, by decide, ended_ok (by decide +kernel)⟩⟩

/-! ### The tile class -/

/-- A ring of 64 empty slots of 32 KiB, consumed and produced by the placed slot. -/
def ring0 : Ring :=
  { k := 0, base := 0, slotsz := 256, nslot := 64, prod := some (0, 0), cons := (0, 0), head := 0, tail := 0,
    states := List.replicate 64 .empty, credits := 64, notices := 0, written := 0 }

/-- A configuration of one firing with no other field. -/
def cfgV : Nat := 2 ^ 48

/-- The placed tile slot with its configuration token, in a cluster with a ring or none. -/
def rT : Ready := rd tg (some cfgV) none none
def sTile (w : W64) (r : Ready) (gs : List Ring) (ns : List TNode) : State := (sts w r).updClus br0 0 0 (fun k => { k with rings := gs, nodes := ns })

/-- The node that the token configured. -/
def node0 : TNode := newNode (cxs rT) 0
def rMask : Ready := rd tg none (some 5) none

theorem witness_TileConfigurationsComplete :
    (∃ k, Runs (sTile (wd 0x88) rT [ring0] []) (ow (wd 0x88)) (cxs rT) ∧ (sTile (wd 0x88) rT [ring0] []).ctxClus (cxs rT) = some k ∧
      k.node? 0 0 = none ∧ mmaBad k 0 0 (ow (wd 0x88)) (cxs rT).atok = false ∧ (cxs rT).b = none ∧
      scoutBad k 0 0 (ow 0x8A0000BFE0018000) (cxs rT).atok = false ∧ (sTile (wd 0x8F) rT [ring0] []).rowBad 0 k 0 0 (ow (wd 0x8F)) (cxs rT).atok = false) ∧
    (∃ k, (sTile (wd 0x88) rT [] []).ctxClus (cxs rT) = some k ∧ mmaBad k 0 0 (ow (wd 0x88)) (cxs rT).atok = true ∧
      scoutBad k 0 0 (ow (wd 0x88)) (cxs rT).atok = true ∧ (sTile (wd 0x8F) rT [] []).rowBad 0 k 0 0 (ow (wd 0x8F)) (cxs rT).atok = true) ∧
    (∃ k b, Runs (sTile (wd 0x89) rMask [] [node0]) (ow (wd 0x89)) (cxs rMask) ∧ (sTile (wd 0x89) rMask [] [node0]).ctxClus (cxs rMask) = some k ∧
      (cxs rMask).b = some b ∧ (cxs rMask).btok.shape ≠ .null ∧ k.node? 0 0 = some node0 ∧ node0.mask = none ∧ sumMode node0.cfg = false ∧
      (sTile (wd 0x89) rMask [] [node0]).maskTurn (cxs rMask) = true) ∧
    ({ rMask with b := some (wt .b (nullTok tg)) } : Ready).b = some (wt .b (nullTok tg)) ∧
    (cxs { rMask with b := some (wt .b (nullTok tg)) }).btok.shape = .null ∧
    (sTile (wd 0x89) { rMask with b := some (wt .b (nullTok tg)) } [] [node0]).maskTurn (cxs { rMask with b := some (wt .b (nullTok tg)) }) = true :=
  ⟨⟨_, ⟨rfl, by decide⟩, rfl, by decide, by decide +kernel, rfl, by decide +kernel, by decide +kernel⟩, ⟨_, rfl, by decide, by decide, by decide⟩,
    ⟨_, _, ⟨rfl, by decide⟩, rfl, rfl, by decide, by decide, rfl, by decide +kernel, by decide⟩, rfl, by decide, by decide⟩

/-- A ring's configuration that names a producer: block 0, slot 0. -/
def rProd : Ready := rd tg (some (2 ^ 25)) none none

/-- A SCRB whose key has one tile, and one whose key has two. -/
def wScrb (x : Nat) : W64 := BitVec.ofNat 64 (0x8B0000BFE0000000 + x)

theorem witness_RingAndRotateInstructionsComplete :
    (∃ k, Runs (sts (wd 0x8C) rA) (ow (wd 0x8C)) (cxs rA) ∧ (sts (wd 0x8C) rA).ctxClus (cxs rA) = some k ∧
      k.ring? ((ow (wd 0x8C)).xf 0 5) = none ∧ cfgF (cxs rA).atok 15 4 ≤ 8 ∧ 256 * cfgF (cxs rA).atok 0 13 % 256 = 0 ∧
      cfgF (cxs rA).atok 25 1 = 0 ∧ cfgF (cxs rA).atok 26 12 = 0 ∧ cfgF (cxs rA).atok 38 7 = 0 ∧
      256 * cfgF (cxs rA).atok 0 13 + 1 * 256 ≤ 2 ^ 21 ∧ cfgF (cxs rA).atok 45 12 = 0 ∧ cfgF (cxs rA).atok 57 7 = 0 ∧
      (sts (wd 0x8C) rA).stationSlot br0 (cxs rA).u 0 0 = true) ∧
    (∃ k, Runs (sts (wd 0x8C) rProd) (ow (wd 0x8C)) (cxs rProd) ∧ (sts (wd 0x8C) rProd).ctxClus (cxs rProd) = some k ∧
      cfgF (cxs rProd).atok 25 1 = 1 ∧ (sts (wd 0x8C) rProd).stationSlot br0 (cxs rProd).u 0 0 = true) ∧
    (∃ b k, Runs (sts (wd 0x8D) rA) (ow (wd 0x8D)) (cxs rA) ∧ (sts (wd 0x8D) rA).ctxClus (cxs rA) = some k ∧
      (sts (wd 0x8D) rA).bent? br0 = some b ∧ k.score = [] ∧ ∀ a n, (sts (wd 0x8D) rA).eccIn a n = false) :=
  ⟨⟨_, ⟨rfl, by decide⟩, rfl, by decide, by decide, by decide, by decide, by decide, by decide, by decide, by decide, by decide, by decide⟩,
    ⟨_, ⟨rfl, by decide⟩, rfl, by decide, by decide⟩, ⟨_, _, ⟨rfl, by decide⟩, rfl, rfl, rfl, fun _ _ => rfl⟩⟩

/-- A key of the Scribe that holds the score of its tile 0. -/
def key0 : ScribeKey := { blk := 0, slot := 0, key := tg, scores := [(0, none)], force := none, warn := 0 }
def sScrb : State := (sts (wScrb 0) rA).updClus br0 0 0 (fun k => { k with scribe := [key0] })

/-- The only score of a key, the first of two, a score seen twice, and a force mask. -/
theorem witness_ScribeCompletes :
    (∃ k, (sts (wScrb 0) rA).firing? = some (cxs rA) ∧ (sts (wScrb 0) rA).ctxClus (cxs rA) = some k ∧ (cxs rA).a.isSome = true ∧
      k.scribe = [] ∧ (cxs rA).tag.iter % 2 ^ (ow (wScrb 0)).xf 25 4 ≤ (ow (wScrb 0)).xf 17 8 ∧ 1 = (ow (wScrb 0)).xf 17 8 + 1 ∧
      (ow (wScrb 0)).x.getLsbD 16 = false ∧ 1 ≠ (ow (wScrb (2 ^ 17))).xf 17 8 + 1) ∧
    (∃ k, sScrb.ctxClus (cxs rA) = some k ∧ k.scribe.find? (fun x => x.blk == 0 && x.slot == 0 && x.key == tg) = some key0 ∧
      key0.scores.any (·.1 == 0) = true) ∧
    ((sts (wScrb (2 ^ 16)) rMask).firing? = some (cxs rMask) ∧ (cxs rMask).a = none ∧ (ow (wScrb (2 ^ 16))).x.getLsbD 16 = true ∧
      key0.force = none) :=
  ⟨⟨_, rfl, rfl, rfl, rfl, by decide, by decide, by decide, by decide⟩, ⟨_, rfl, by decide, by decide⟩, rfl, rfl, by decide, rfl⟩

/-- The firing of the placed node that holds the Truss. -/
def fire0 (kstep : Nat) : Firing :=
  { id := 0, blk := 0, slot := 0, grp := 0, kstep := kstep, acc := 0, accs := [], flags := 0, rnd := 0, stopped := false }
def sTruss (w : W64) (g : Ring) (f : Option Firing) : State :=
  { (State.reset.placeSlot w).updClus br0 0 0 (fun k => { k with rings := [g], nodes := [node0], firing := f }) with cur := .none }

/-- The ring with its first slots full. -/
def ringFull : Ring := { ring0 with states := List.replicate 64 .full }

theorem witness_TrussAndRingEventsComplete :
    (∃ g, ((sTruss (wd 0x8F) { ring0 with written := 1 } none).clus? br0 0 0).bind (·.ring? 0) = some g ∧ g.written ≠ 0) ∧
    (∃ g, ((sTruss (wd 0x8F) { ring0 with notices := 1 } none).clus? br0 0 0).bind (·.ring? 0) = some g ∧ g.notices ≠ 0) ∧
    (∃ b k n, (sTruss (wd 0x8F) ringFull none).bentLive br0 = true ∧ (sTruss (wd 0x8F) ringFull none).unitRuns br0 (.station 0 0) = true ∧
      ((sTruss (wd 0x8F) ringFull none).refreshNodes br0 0 0).bent? br0 = some b ∧
      ((sTruss (wd 0x8F) ringFull none).refreshNodes br0 0 0).clus? br0 0 0 = some k ∧ k.firing = none ∧ nextNode k.nodes = some n) ∧
    (∃ b k n, ((sTruss (wd 0x88) ring0 (some (fire0 0))).refreshNodes br0 0 0).bent? br0 = some b ∧
      ((sTruss (wd 0x88) ring0 (some (fire0 0))).refreshNodes br0 0 0).clus? br0 0 0 = some k ∧ k.firing = some (fire0 0) ∧ k.node? 0 0 = some n ∧
      ((sTruss (wd 0x88) ring0 (some (fire0 0))).refreshNodes br0 0 0).stepEcc 0 b 0 0 k n (fire0 0) = none ∧ ((sTruss (wd 0x88) ring0 (some (fire0 0))).refreshNodes br0 0 0).opcAt 0 0 0 = 0x88 ∧
      (fire0 0).grp * 4 < (mmaShape (((sTruss (wd 0x88) ring0 (some (fire0 0))).refreshNodes br0 0 0).opsAt 0 0 0) n.cfg).m /
        smOf (mmaShape (((sTruss (wd 0x88) ring0 (some (fire0 0))).refreshNodes br0 0 0).opsAt 0 0 0) n.cfg).ty *
        ((mmaShape (((sTruss (wd 0x88) ring0 (some (fire0 0))).refreshNodes br0 0 0).opsAt 0 0 0) n.cfg).n / 64)) ∧
    (∃ b k, (sTruss (wd 0x8F) ring0 (some (fire0 1))).bent? br0 = some b ∧ (sTruss (wd 0x8F) ring0 (some (fire0 1))).clus? br0 0 0 = some k ∧
      k.firing = some (fire0 1) ∧ k.node? 0 0 = some node0 ∧ (sTruss (wd 0x8F) ring0 (some (fire0 1))).opcAt 0 0 0 = 0x8F ∧
      (rowShape 0x8F ((sTruss (wd 0x8F) ring0 (some (fire0 1))).opsAt 0 0 0) node0.cfg).rows ≤ 1 ∧ k.jointer = []) ∧
    (let s := sTruss (wd 0x88) ring0 (some { fire0 0 with grp := 4096 })
     s.opcAt 0 0 0 = 0x88 ∧ (mmaShape (s.opsAt 0 0 0) node0.cfg).m / smOf (mmaShape (s.opsAt 0 0 0) node0.cfg).ty *
       ((mmaShape (s.opsAt 0 0 0) node0.cfg).n / 64) ≤ 4 * 4096) ∧
    (let s := sTruss (wd 0x8A) ring0 (some (fire0 0))
     s.opcAt 0 0 0 = 0x8A ∧ (fire0 0).grp * 4 < (scoutShape (s.opsAt 0 0 0) node0.cfg).m / 64 * ((scoutShape (s.opsAt 0 0 0) node0.cfg).n / 64)) ∧
    (let s := sTruss (wd 0x8A) ring0 (some { fire0 0 with grp := 4096 })
     (scoutShape (s.opsAt 0 0 0) node0.cfg).m / 64 * ((scoutShape (s.opsAt 0 0 0) node0.cfg).n / 64) ≤ 4 * 4096) :=
  ⟨⟨_, rfl, by decide⟩, ⟨_, rfl, by decide⟩, ⟨_, _, _, by decide, by decide, rfl, rfl, rfl, rfl⟩,
    ⟨_, _, _, rfl, rfl, rfl, rfl, by decide, by decide, by decide +kernel⟩, ⟨_, _, rfl, rfl, rfl, rfl, by decide, by decide +kernel, rfl⟩,
    ⟨by decide, by decide +kernel⟩, ⟨by decide, by decide +kernel⟩, by decide +kernel⟩

/-- A function token with a lane that waits, or one that the Jointer holds. -/
def jtok (queued : Nat) (held : List Nat) : JTok :=
  { id := 0, cx := 0, cy := 0, blk := 0, slot := 0, out := scalarTok tg 0, flags := 0, warn := 0, fastEnd := 0, queued := queued, heldTo := held,
    tile := false }
def sJoint (j : JTok) : State := { (State.reset.placeSlot (wd 0x30)).updClus br0 0 0 (fun k => { k with jointer := [j] }) with cur := .none }

theorem witness_JointerEventsComplete :
    (∃ b k, (sJoint (jtok 1 [])).bentLive br0 = true ∧ (sJoint (jtok 1 [])).bent? br0 = some b ∧ (sJoint (jtok 1 [])).clus? br0 0 0 = some k ∧
      b.isSealed = false ∧ k.jlast = 0 ∧ nextEntry (sJoint (jtok 1 [])).now k.jointer = some (jtok 1 [])) ∧
    (∃ k, (sJoint (jtok 0 [0])).clus? br0 0 0 = some k ∧ k.jointer = [jtok 0 [0]] ∧ (jtok 0 [0]).frozen = false ∧ (jtok 0 [0]).tile = false ∧
      (jtok 0 [0]).queued = 0 ∧ (jtok 0 [0]).heldTo = [0]) := ⟨⟨_, _, by decide, rfl, rfl, rfl, rfl, rfl⟩, ⟨_, rfl, rfl, rfl, rfl, rfl, rfl⟩⟩

/-- The token whose fast path ended first enters first, although it fired later. -/
theorem witness_EarliestTokenEntersFirst :
    nextEntry 30 [{ jtok 1 [] with fastEnd := 22 }, { jtok 1 [] with id := 1, fastEnd := 17 }] = some { jtok 1 [] with id := 1, fastEnd := 17 } ∧
    nextEntry 16 [{ jtok 1 [] with fastEnd := 22 }, { jtok 1 [] with id := 1, fastEnd := 17 }] = none := by decide

/-! ### Copies, remote accesses and groups -/

/-- A placed CPY with two descriptors, and its firing. -/
def sCpy (w : W64) : State :=
  (mapped 0 (sts w rA)).updRaising 0 (fun r => { r with blocks := r.blocks.map (fun k => { k with descs := [dsc, dsc] }) })

/-- A copy of one unit to move, or of none. -/
def copy0 (us : List Nat) (begun : Bool) : Copy :=
  { id := 0, cx := 0, cy := 0, blk := 0, slot := 0, tag := tg, atok := scalarTok tg 0, btok := none, units := us, pos := 0, off := 0, begun := begun,
    buf := [], gens := [], frozen := false, warn := 0, ewarn := 0 }
def sCopy (x : Copy) : State := (sCpy (wd 0x98)).updClus br0 0 0 (fun k => { k with copies := [x] })

theorem witness_CopiesComplete :
    (∃ k, Runs (sCpy (wd 0x98)) (ow (wd 0x98)) (cxs rA) ∧ (sCpy (wd 0x98)).clus? br0 0 0 = some k ∧
      ((sCpy (wd 0x98)).copyPlan 0 0 0 (cxs rA).atok).dr = false ∧ ringBase (Desc.ofBits dsc) 0 = false ∧ k.copies.length < 16) ∧
    (∃ b k, (sCopy (copy0 [0] false)).bentLive br0 = true ∧ (sCopy (copy0 [0] false)).bent? br0 = some b ∧
      (sCopy (copy0 [0] false)).clus? br0 0 0 = some k ∧ k.copies.find? (·.id == 0) = some (copy0 [0] false) ∧
      ((sCopy (copy0 [0] false)).copyPlan 0 0 0 (scalarTok tg 0)).rows = false ∧
      ∃ t, (sCopy (copy0 [0] false)).beginUnit b br0 0 0 k (copy0 [0] false) ((sCopy (copy0 [0] false)).copyPlan 0 0 0 (scalarTok tg 0)) = some t) ∧
    (∃ b k, (sCopy (copy0 [0] true)).bent? br0 = some b ∧ (sCopy (copy0 [0] true)).clus? br0 0 0 = some k ∧
      ∃ t, (sCopy (copy0 [0] true)).moveUnit b br0 0 0 k (copy0 [0] true) ((sCopy (copy0 [0] true)).copyPlan 0 0 0 (scalarTok tg 0)) = some t) ∧
    ((copy0 [] false).units.length ≤ (copy0 [] false).pos ∧ (sCopy (copy0 [] false)).bulksOf (.copy br0 0 0 0) = []) :=
  ⟨⟨_, ⟨rfl, by decide⟩, rfl, by decide, by decide, by decide⟩,
    ⟨_, _, by decide, rfl, rfl, rfl, by decide, Option.isSome_iff_exists.mp (by decide +kernel)⟩,
    ⟨_, _, rfl, rfl, Option.isSome_iff_exists.mp (by decide +kernel)⟩, by decide, by decide⟩

/-- Whether a request has gone. -/
def gone : Went → Bool
  | .done _ => true
  | _ => false

theorem gone_done {w : Went} (h : gone w = true) : ∃ t, w = .done t := by
  cases w with
  | done t => exact ⟨t, rfl⟩
  | busy => cases h
  | bad _ => cases h

/-- A token that names package (1, 0) and address 0 there, and one of an address that is not canonical. -/
def rPk : Ready := { rAB with a := some (wt .a (vectorTok tg (BitVec.ofNat 256 (2 ^ 64)))) }
def rNc : Ready := rd tg (some (2 ^ 60)) (some 0) none
def sRem (w : W64) : State := { st w rPk with domW := 2 }

theorem witness_RemoteInstructionsComplete :
    (Runs (sRem (wd 0xA0)) (ow (wd 0xA0)) (cx rPk) ∧ canonVa (BitVec.ofNat 64 ((laneAt (cx rPk).atok.pay 64 0 + (ow (wd 0xA0)).xf 0 20) % 2 ^ 64)) = true ∧
      (laneAt (cx rPk).atok.pay 64 0 + (ow (wd 0xA0)).xf 0 20) % 2 ^ 64 % remoteSize (ow (wd 0xA0)) = 0 ∧ (ow (wd 0xA0)).x.getLsbD 24 = false ∧
      ∃ t, (sRem (wd 0xA0)).sendRemote (cx rPk) (remoteReq (sRem (wd 0xA0)) (ow (wd 0xA0)) (cx rPk) .rld (remoteSize (ow (wd 0xA0))) 0 0 0) = .done t) ∧
    ((sRem (wd 0xA2)).emittedBefore (remoteReq (sRem (wd 0xA2)) (ow (wd 0xA2)) (cx rPk) .rstp (remoteSize (ow (wd 0xA2))) 0 0 0) = false ∧
      ∃ t, (sRem (wd 0xA2)).sendRemote (cx rPk) (remoteReq (sRem (wd 0xA2)) (ow (wd 0xA2)) (cx rPk) .rstp (remoteSize (ow (wd 0xA2))) 0 0 0) = .done t) ∧
    (Runs (st (wd 0xA0) rNc) (ow (wd 0xA0)) (cx rNc) ∧ canonVa (BitVec.ofNat 64 ((laneAt (cx rNc).atok.pay 64 0 + (ow (wd 0xA0)).xf 0 20) % 2 ^ 64)) = false) ∧
    (Runs (st 0xA06000BFE0000001 rAB) (ow 0xA06000BFE0000001) (cx rAB) ∧
      (laneAt (cx rAB).atok.pay 64 0 + (ow 0xA06000BFE0000001).xf 0 20) % 2 ^ 64 % remoteSize (ow 0xA06000BFE0000001) ≠ 0) :=
  ⟨⟨⟨rfl, by decide⟩, by decide, by decide, by decide, gone_done (by decide +kernel)⟩, ⟨by decide +kernel, gone_done (by decide +kernel)⟩,
    ⟨⟨rfl, by decide⟩, by decide⟩, ⟨⟨rfl, by decide⟩, by decide⟩⟩

/-- A remote request of package (1, 0) in a stage of its life. -/
def rqRem (stage : ReqStage) : Req := { rqOf .rld stage with target := { px := 1, py := 0 } }
def sRq (r : Req) (s : State) : State := { s with reqs := [r], nextId := 1, cur := .none }

/-- The message of a notice for request 0. -/
def note (k : MKind) : Msg :=
  { mid := 0, kind := k, src := { pkg := pk0, x := 0, y := 0 }, dst := { pkg := pk0, x := 0, y := 0 }, unit := .cont 0, hubDst := false, tag := 0,
    len := 0, trim := false, gen := 0, seq := 0, space := none, part := 0, sub := 0, body := .notice 0 }
def sp0 : Space := .vc 0 pk0 0 { px := 1, py := 0 } 0 1
def copyOf (m : Msg) : TxCopy := { part := 0, pkg := pk0, space := sp0, seq := 0, msg := m, vd := 0, waiting := [] }

theorem witness_RemoteRequestsLeave :
    (let r := remoteReq (st (wd 0xA0) rAB) (ow (wd 0xA0)) (cx rAB) .rld 8 7 0 0
     r.target = ((st (wd 0xA0) rAB).srcCell (cx rAB)).pkg) ∧
    (let r := remoteReq (sRem (wd 0xA0)) (ow (wd 0xA0)) (cx rPk) .rld 8 7 0 0
     r.target ≠ ((sRem (wd 0xA0)).srcCell (cx rPk)).pkg ∧
      (sRem (wd 0xA0)).spaceFree (.vc 0 pk0 0 r.target ((sRem (wd 0xA0)).ingressDie ((sRem (wd 0xA0)).srcCell (cx rPk)) r.target) 1) 0 pk0 48 = true) := by
  decide

theorem witness_RemoteFaultsPark :
    (let r : Req := { rqRem .home with reply := some (.err { cause := .xlInvalid }) }
     (sRq r sLd).req? 0 = some r ∧ r.stage = .home ∧ ((sRq r sLd).parked.filter (·.pkg == r.target)).length < 4096) ∧
    (let r : Req := { rqRem .home with reply := some (.err { cause := .xlInvalid }) }
     let k : ParkRec := { pkg := r.target, req := 0, cause := 1, next := 0, rank := none }
     4096 ≤ (({ sRq r sLd with parked := List.replicate 4096 k } : State).parked.filter (·.pkg == r.target)).length) :=
  ⟨by decide, by decide +kernel⟩

/-- A fault of request 0 parked in package (0, 0). -/
def park0 : ParkRec := { pkg := pk0, req := 0, cause := 1, next := 0, rank := none }
def sPark (r : Req) : State := { sRq r sLd with parked := [park0] }

theorem witness_ParkedFaultsEnd :
    (((sPark (rqRem .parked)).parked.filter (·.pkg == pk0))[0]? = some park0 ∧ park0.rank = none ∧
      (sPark (rqRem .parked)).req? park0.req = some (rqRem .parked) ∧ (rqRem .parked).kind ≠ .rstp ∧ park0.next ≤ sLd.now) ∧
    (let r : Req := { rqRem .parked with kind := .rstp }
     (sPark r).req? park0.req = some r ∧ r.kind = .rstp ∧ r.space = none) := by decide

theorem witness_NoticesArrive :
    ({ sRq (rqRem .home) sLd with inbox := [note .keepwait] } : State).inbox.find? (·.mid == 0) = some (note .keepwait) ∧
    ({ sRq (rqRem .home) sLd with inbox := [note .busy] } : State).inbox.find? (·.mid == 0) = some (note .busy) ∧ (note .busy).body = .notice 0 :=
  ⟨rfl, rfl, rfl⟩

theorem witness_RemoteTimersRun :
    (let r : Req := { rqRem .turned with resendAt := 1, space := some sp0 }
     let s : State := { sRq r sLd with now := 1, copies := [copyOf (note .rdreq)] }
     s.req? 0 = some r ∧ r.resendAt ≠ 0 ∧ r.resendAt ≤ s.now ∧ r.stage = .turned ∧ r.busy < 8 ∧
       s.copies.find? (fun c => c.space == sp0 && c.seq == r.seq) = some (copyOf (note .rdreq))) ∧
    (let r : Req := { rqRem .turned with resendAt := 1, busy := 8 }
     r.resendAt ≤ ({ sRq r sLd with now := 1 } : State).now ∧ 8 ≤ r.busy ∧ r.kind ≠ .rstp ∧ r.lingers = false) ∧
    (let r := rqRem .home
     let s := sRq r { sLd with now := 4000000 }
     s.req? 0 = some r ∧ r.posted = false ∧ r.stage = .home ∧ s.goesOut r = true ∧ r.deadline ≤ s.now) := by
  decide

/-- A placed AGRP whose list lies in its own scratchpad or in memory, and an installed group of one absent member. -/
def mem0 : Member := { pkg := pk0, die := 0, abs := false, va := 0 }
def set0 (mem : Member) : GroupSet := { part := 0, group := 0, br := br0, cx := 0, cy := 0, req := 0, installed := true, members := [mem] }
def sGrp (w : W64) : State := { st w rAB with groupSets := [set0 mem0] }
def mc0 : McOp :=
  { id := 0, br := br0, cx := 0, cy := 0, blk := 0, slot := 0, tag := tg, a := rA.a, b := none, p := none, data := none, group := 0, off := 0,
    rnd := 0, members := [.waiting], deadlines := [0], nodes := [], space := none, seq := 0, busy := [], frozen := false }

/-- The access of the placed AGRP. -/
def accGrp (s : State) (e : Elem) : Access :=
  { br := br0, spad := s.srcCell (cx rA), loc := false, need := needRd, sh := false, gens := [], tile := false, owner := 0, ag := some (e.cx, e.cy),
    since := s.nextId }

theorem witness_GroupInstructionsComplete :
    (∃ e bs wins t, Runs (mapped 0 (st (wd 0xA6) rA)) (ow (wd 0xA6)) (cx rA) ∧ (mapped 0 (st (wd 0xA6) rA)).elemOf (cx rA) = some e ∧
      laneAt (cx rA).atok.pay 64 0 % 16 = 0 ∧ (mapped 0 (st (wd 0xA6) rA)).groupOps br0 0 0 0 = [] ∧
      (mapped 0 (st (wd 0xA6) rA)).groupSets.any (fun x => x.br == br0 && x.cx == 0 && x.cy == 0 && x.group == 0 && !x.installed) = false ∧
      (mapped 0 (st (wd 0xA6) rA)).engineLoad (accGrp (mapped 0 (st (wd 0xA6) rA)) e) []
        ((List.range (16 * ((ow (wd 0xA6)).xf 8 6 + 1))).map (fun i => (0 + i) % 2 ^ 64)) = .ok bs wins t) ∧
    (∃ e, Runs (sGrp (wd 0xA4)) (ow (wd 0xA4)) (cx rAB) ∧ (sGrp (wd 0xA4)).elemOf (cx rAB) = some e ∧
      (sGrp (wd 0xA4)).groupSets.find? (fun x => x.br == br0 && x.cx == e.cx && x.cy == e.cy && x.group == 0 && x.installed) =
        some (set0 mem0) ∧ (sGrp (wd 0xA4)).mcops = []) ∧
    (st (wd 0xA4) rAB).groupSets.find? (fun x => x.br == br0 && x.cx == 0 && x.cy == 0 && x.group == 0 && x.installed) = none ∧
    (let r : Ready := rd tg (some 1) (some 9) none
     Runs (st (wd 0xA5) r) (ow (wd 0xA5)) (cx r) ∧ laneAt (cx r).atok.pay 64 0 % 32 ≠ 0) ∧
    (∃ t, (sGrp (wd 0xA4)).mcSend mc0 = some t) ∧ (∃ t, (sGrp (wd 0xA5)).mcSend { mc0 with data := some 5 } = some t) := by
  refine ⟨?_, ⟨_, ⟨rfl, by decide⟩, rfl, rfl, rfl⟩, rfl, ⟨⟨rfl, by decide⟩, by decide⟩, Option.isSome_iff_exists.mp (by decide +kernel), Option.isSome_iff_exists.mp (by decide +kernel)⟩
  refine ⟨_, _, _, _, ⟨rfl, by decide⟩, rfl, by decide, by decide, by decide, rfl⟩

/-- A contribution of one rank, and a state with two of siblings in a router that holds the group's entry. -/
def nd0 : Node := .cell { pkg := pk0, x := 0, y := 0 }
def nd1 : Node := .cell { pkg := pk0, x := 1, y := 0 }
def leaf (r : Nat) : McNode := { req := 0, first := r, k := 0, rnd := 0, op := 0, ty := 6, lanes := 0, flags := 0 }
def red (r : Nat) : RedSlot := { node := nd0, sub := 0, group := 0, root := { pkg := pk0, x := 0, y := 0 }, n := leaf r, since := 0 }
def entry0 : GroupEntry :=
  { part := 0, group := 0, owner := br0, cx := 0, cy := 0, node := nd0, outs := [], root := nd0, n := 2, below := [], came := true, acked := true }
def mc2 : McOp := { mc0 with members := [.arrived, .arrived], deadlines := [0, 0] }
def join2 : RedSlot := { red 0 with n := (joinNodes ((leaf 0).lift 2 6) ((leaf 1).lift 2 6)).lift 2 6 }
def sRed : State := { st (wd 0xA4) rA with redslots := [red 0, red 1], groups := [entry0], mcops := [mc2], nextId := 1, now := 256 }
def copy1 : McCopy := { node := nd0, msg := { note .mcrq with body := .mcq 0 0 }, pending := [nd1] }

theorem witness_GroupMessagesLeave :
    (Claims.OpCanLeave (sGrp (wd 0xA4)) mc0) ∧
    ((sRem (wd 0xA4)).spaceFree (.group 0 pk0 0 0) 0 pk0 48 = true) ∧
    (Claims.OutputFree (sGrp (wd 0xA4)) nd0 nd1 copy1.msg ∧ (sGrp (wd 0xA4)).hopDown nd0 nd1 = false ∧
      ∃ t, (sGrp (wd 0xA4)).toOutput nd0 nd1 copy1.msg = some t) ∧
    Claims.NodeCanLeave sRed nd0 (red 0) :=
  ⟨.inl (by decide), by decide, ⟨⟨by decide, by decide⟩, by decide, Option.isSome_iff_exists.mp (by decide +kernel)⟩,
    ⟨fun _ _ _ => rfl, fun c h => by cases (show sRed.leafCopy (red 0).n = none from by decide).symm.trans h⟩⟩

theorem witness_GroupEventsComplete :
    (let g : GroupSet := { set0 mem0 with installed := false }
     let s : State := { sRq (rqOf .agrp .home) sLd with groupSets := [g] }
     s.req? 0 = some (rqOf .agrp .home) ∧ s.groupSets.find? (·.req == 0) = some g ∧
       (s.groups.filter (fun x => x.node == nd0 && x.acked)).length < 1024) ∧
    (let s : State := { sGrp (wd 0xA4) with mccopies := [copy1], mcops := [mc0] }
     s.mccopies[0]? = some copy1 ∧ copy1.pending = [nd1] ∧ ∃ t, (onEvent s (.num 0)).branch copy1 nd1 = some t) ∧
    (sRed.redslots[0]? = some (red 0) ∧ sRed.redN (red 0) = 2 ∧
      sRed.redslots.find? (fun y => y.node == (red 0).node && y.n.req == (red 0).n.req && y != red 0 && (let yn := y.n.lift 2 6
        yn.k == ((red 0).n.lift 2 6).k && yn.first == ((red 0).n.lift 2 6).sibling)) = some (red 1) ∧
      ((red 0).n.lift 2 6).first < ((red 1).n.lift 2 6).first ∧ (red 0).since + 256 ≤ sRed.now ∧
      (∃ u, ((({ onEvent sRed (.num 0) with redslots := (sRed.redslots.erase (red 0)).erase (red 1) } : State).releaseLeaf (red 0).n).releaseLeaf
        (red 1).n).sendNode (red 0).node join2 = some u) ∧
      ∃ u, ({ onEvent sRed (.num 0) with redslots := sRed.redslots.erase (red 0) } : State).sendNode (red 0).node (red 0) = some u) ∧
    (sRed.mcops.find? (·.id == 0) = some mc2 ∧ mc2.deadlines.getD 1 0 ≤ sRed.now ∧ mc2.frozen = false ∧ mc2.members.getD 1 .absent = .arrived) := by
  refine ⟨by decide, ⟨rfl, rfl, ?_⟩, ⟨rfl, by decide, by decide, by decide, by decide, ?_, ?_⟩, rfl, by decide, rfl, rfl⟩
  · exact Option.isSome_iff_exists.mp (by decide +kernel)
  · exact Option.isSome_iff_exists.mp (by decide +kernel)
  · exact Option.isSome_iff_exists.mp (by decide +kernel)

/-! ### The work queue, statistics, system instructions and Kiln's replies -/

/-- A WQNX request at its virtual device's Auger with a range of one item, given or not. -/
def rqWq (kind : AccKind) : Req := { rqOf kind .home with data := 7 }
def sWq (next : Nat) : State :=
  (sRq (rqWq .wqnx) sLd).updVdev vd0 (fun d => { d with ranges := [{ rng := 0, rid := 0, n := 1, wid := 1, next := next }] })

theorem witness_WorkDistributionCompletes :
    (∃ b, Runs (st (wd 0xA9) rA) (ow (wd 0xA9)) (cx rA) ∧ (st (wd 0xA9) rA).bent? br0 = some b ∧
      b.localAt ((laneAt (cx rA).atok.pay 64 0 + (ow (wd 0xA9)).xf 0 20) % 2 ^ 64) = .spad 0 ∧
      (laneAt (cx rA).atok.pay 64 0 + (ow (wd 0xA9)).xf 0 20) % 2 ^ 64 % 16 = 0 ∧ (st (wd 0xA9) rA).reqs = []) ∧
    ((sRq (rqWq .wqini) sLd).req? 0 = some (rqWq .wqini) ∧ (rqWq .wqini).stage = .home) ∧
    (∃ d x, (sWq 0).req? 0 = some (rqWq .wqnx) ∧ (sWq 0).vdev? vd0 = some d ∧ d.ranges.find? (·.rng == ((sWq 0).reqOps (rqWq .wqnx)).xf 20 6) = some x ∧
      x.next < x.n) ∧
    ((sRq (rqWq .wqnx) sLd).vdev? vd0).bind (fun d => d.ranges.find? (·.rng == (sLd.reqOps (rqWq .wqnx)).xf 20 6)) = none ∧
    (∃ d x, (sWq 1).vdev? vd0 = some d ∧ d.ranges.find? (·.rng == ((sWq 1).reqOps (rqWq .wqnx)).xf 20 6) = some x ∧ x.n ≤ x.next) :=
  ⟨⟨_, ⟨rfl, by decide⟩, rfl, by decide, by decide, rfl⟩, ⟨rfl, rfl⟩, ⟨_, _, rfl, rfl, rfl, by decide⟩, by decide, ⟨_, _, rfl, rfl, by decide⟩⟩

/-- A STSNK at address 0 with a token that waits for its update. -/
def sStat : State :=
  { (mapped 0 (st (wd 0xAD) rA)).updElem br0 0 0 (fun e =>
      { e with stats := [{ blk := 0, slot := 0, count := 0, pay := Counts.zero.pay, tag := tg, a := rA.a, frozen := false, warn := 0 }] }) with cur := .none }
def accStat (b : Bent) : Access :=
  { br := br0, spad := b.cell 0 0, loc := false, need := needBoth, sh := false, gens := [], tile := false, owner := 0 }

theorem witness_StatisticsComplete :
    (∃ e, Runs (st (wd 0xAC) rA) (ow (wd 0xAC)) (cx rA) ∧ (st (wd 0xAC) rA).elemOf (cx rA) = some e ∧ e.statOf 0 0 = none ∧
      0 + 1 = (ow (wd 0xAC)).xf 0 10 + 1 ∧ 0 + 1 ≠ (ow 0xAC0000BFE0000001).xf 0 10 + 1 ∧ e.stats = []) ∧
    (∃ b e r, sStat.bentLive br0 = true ∧ sStat.bent? br0 = some b ∧ sStat.elem? br0 0 0 = some e ∧ e.statOf 0 0 = some r ∧ r.frozen = false ∧
      slotOpc ((sStat.slot? 0 0 0).elim 0 (·.word)) = 0xAD ∧
      (sStat.constAt (cx rA) ((sStat.opsAt 0 0 0).xf 0 16)).toNat = 0 ∧ (sStat.opsAt 0 0 0).x.getLsbD 16 = false ∧
      (∃ bs wins t, sStat.engineLoad (accStat b) e.own ((List.range 32).map (0 + ·)) = .ok bs wins t) ∧
      ∀ bs wins t, sStat.engineLoad (accStat b) e.own ((List.range 32).map (0 + ·)) = .ok bs wins t →
        ∃ out wins2 u, t.engineStore (accStat b) wins ((List.range 32).map (0 + ·)) (bytesOf 32 (((Counts.ofPay (BitVec.ofNat 256 (natOfBytes bs))).merge
          (Counts.ofPay r.pay)).pay.toNat + natOfBytes bs / 2 ^ 176 * 2 ^ 176)) = .ok out wins2 u) := by
  refine ⟨⟨_, ⟨rfl, by decide⟩, rfl, by decide, by decide, by decide, by decide⟩, _, _, _, by decide, rfl, rfl, rfl, rfl, by decide, by decide, by decide,
    ?_, ?_⟩
  · exact ended_ok (by decide +kernel)
  · intro bs wins t h
    refine ended_ok ?_
    have k : (match sStat.engineLoad (accStat (((sStat.bent? br0).getD (Bent.fresh pk0 0 0 0 0 [] 0)))) [] ((List.range 32).map (0 + ·)) with
      | .ok bs wins t => ended (t.engineStore (accStat (((sStat.bent? br0).getD (Bent.fresh pk0 0 0 0 0 [] 0)))) wins ((List.range 32).map (0 + ·))
          (bytesOf 32 (((Counts.ofPay (BitVec.ofNat 256 (natOfBytes bs))).merge (Counts.ofPay Counts.zero.pay)).pay.toNat +
            natOfBytes bs / 2 ^ 176 * 2 ^ 176)))
      | _ => false) = true := by decide +kernel
    have e : sStat.engineLoad (accStat (((sStat.bent? br0).getD (Bent.fresh pk0 0 0 0 0 [] 0)))) [] ((List.range 32).map (0 + ·)) = .ok bs wins t := h
    rw [e] at k
    exact k

/-- A slot word of MFS or MTS that names a register, on an AG or on a CP. -/
def wReg (opc n : Nat) : W64 := BitVec.ofNat 64 (opc * 2 ^ 56 + 0xBFE0000000 + n)
def onCp (s : State) : State := s.updBent br0 (fun b => { b with roles := List.replicate 16 .cp })

theorem witness_SystemInstructionsComplete :
    (∃ x, Runs (st (wReg 0xB2 0x032) rA) (ow (wReg 0xB2 0x032)) (cx rA) ∧ (st (wReg 0xB2 0x032) rA).nearReg (cx rA) 0x032 = some x) ∧
    ((st (wReg 0xB2 0x004) rA).nearReg (cx rA) 0x004 = none ∧ ((st (wReg 0xB2 0x004) rA).hubReg br0 vd0 0x004).isSome = true) ∧
    ((st (wReg 0xB2 0xFFF) rA).nearReg (cx rA) 0xFFF = none ∧ (st (wReg 0xB2 0xFFF) rA).hubReg br0 vd0 0xFFF = none) ∧
    ((onCp (st (wd 0xB6) rA)).isAg (cx rA) = false ∧ (st (wd 0xB6) rA).isAg (cx rA) = true) ∧
    (∃ p q, (st (wd 0xB7) rA).plat? ((st (wd 0xB7) rA).srcCell (cx rA)).pkg = some p ∧ (st (wd 0xB4) rA).part? 0 = some q) ∧
    ((st (wd 0xB0) rA).reqs = []) ∧
    (∃ d, Runs (st (wd 0xB1) rA) (ow (wd 0xB1)) (cx rA) ∧ (st (wd 0xB1) rA).vdev? vd0 = some d ∧ d.dbgen = false) ∧
    (∃ d, ((st (wd 0xB1) rA).updVdev vd0 (fun d => { d with dbgen := true })).vdev? vd0 = some d ∧ d.dbgen = true) :=
  ⟨⟨_, ⟨rfl, by decide⟩, rfl⟩, by decide, by decide, by decide, ⟨_, _, rfl, rfl⟩, rfl, ⟨_, ⟨rfl, by decide⟩, rfl, rfl⟩, ⟨_, rfl, rfl⟩⟩

theorem witness_StatusRegisterWritesReadBack :
    (∃ b e, (onCp (st (wReg 0xB3 1) rA)).bent? br0 = some b ∧ (onCp (st (wReg 0xB3 1) rA)).elemOf (cx rA) = some e ∧
      (onCp (st (wReg 0xB3 1) rA)).isAg (cx rA) = false) ∧ (4 : W64).toNat % 8 < 5 ∧ 5 ≤ (5 : W64).toNat % 8 :=
  ⟨⟨_, _, rfl, rfl, by decide⟩, by decide, by decide⟩

theorem witness_ReservedRegisterNumbers :
    Runs (st (wReg 0xB2 0x033) rA) (ow (wReg 0xB2 0x033)) (cx rA) ∧ Runs (st (wReg 0xB3 0x004) rA) (ow (wReg 0xB3 0x004)) (cx rA) ∧
    (ow (wReg 0xB2 0x033)).xf 0 12 = 0x033 ∧ (ow (wReg 0xB3 0x004)).xf 0 12 = 0x004 := ⟨⟨rfl, by decide⟩, ⟨rfl, by decide⟩, by decide, by decide⟩

/-- A TRAP that waits, and a raising stopped at one BRK. -/
def rqTrap : Req := rqOf .trap .deferred
def hold0 : BrkHold := { bent := 0, loc := .elem 0 0, blk := 0, slot := 0, tok := scalarTok tg 5, code := 0, warn := 0 }
def sBrk : State := (st (wd 0xB1) rA).updRaising 0 (fun r => { r with brkStop := true, brks := [hold0] })

theorem witness_KilnRepliesComplete :
    (∃ b, (sRq rqTrap sLd).req? 0 = some rqTrap ∧ rqTrap.kind = .trap ∧ rqTrap.stage = .deferred ∧ (sRq rqTrap sLd).bent? br0 = some b ∧
      b.isSealed = false) ∧
    (∃ b, ((sRq rqTrap sLd).sealRaising 0).req? 0 = some rqTrap ∧ ((sRq rqTrap sLd).sealRaising 0).bent? br0 = some b ∧ b.isSealed = true) ∧
    (∃ r, sBrk.raising? 0 = some r ∧ r.brkStop = true ∧ r.state = .running ∧ r.brks = [hold0]) :=
  ⟨⟨_, rfl, rfl, rfl, rfl, rfl⟩, ⟨_, rfl, rfl, rfl⟩, ⟨_, rfl, rfl, rfl, rfl⟩⟩

/-! ### Queues -/

/-- A queue whose word is in the latch. -/
def sQ (ws : List W64) : State := { State.reset.placeWords ws with cur := .word vd0 0 ws }

/-- The FENCE of a queue would wait for a posted store. -/
def sPosted : State := (sQ [0]).updVdev vd0 (fun d => { d with posted := 1 })

theorem witness_QueueWordsComplete :
    (∃ x d, (sQ [0]).cur = .word vd0 0 [0] ∧ (sQ [0]).queue? vd0 0 = some x ∧ (sQ [0]).postedWait vd0 2 = false ∧ sPosted.postedWait vd0 7 = true ∧
      (sQ [0]).vdev? vd0 = some d ∧ d.mailbox.length < 64) ∧
    ((0 : W64) ≤ (sQ [0]).semVal pk0 0 ∧ ¬ (1 : W64) ≤ (sQ [0]).semVal pk0 0) ∧
    64 ≤ (List.replicate 64 ({ part := 0, vd := 0, queue := 0, index := 0, code := 0 } : MailRec)).length :=
  ⟨⟨_, _, rfl, rfl, by decide, by decide, rfl, by decide⟩, by decide, by decide⟩

theorem witness_PhaseWordsEnterAdmit : ∃ x, (sQ [0x8000000000000000]).cur = .word vd0 0 [0x8000000000000000] ∧ (sQ [0x8000000000000000]).queue? vd0 0 = some x :=
  ⟨_, rfl, rfl⟩

theorem witness_SemaphoreOperationsComplete :
    (let r : SemReq := { pkg := pk0, n := 1023, op := .jnz true 0, vdr := vd0, queue := some 0 }
     ({ sQ [0] with semReqs := [r] } : State).semReqs.find? (·.pkg == pk0) = some r) ∧
    (let s := (sQ [0]).putQueue { Queue.fresh vd0 0 0 0 [0] with work := some (.semOp 1023) }
     ∃ x, s.queue? vd0 0 = some x ∧ x.work = some (.semOp 1023)) := ⟨rfl, _, rfl, rfl⟩

theorem witness_QueueEventsComplete :
    (let s := (sQ [0]).putQueue { Queue.fresh vd0 0 0 0 [0] with timers := [{ tid := 3, due := 0, sem := 1 }] }
     ∃ x t, s.queue? vd0 0 = some x ∧ x.timers.find? (fun t => t.tid == 3 && t.due ≤ s.now) = some t ∧ x.state = .stopped ∧ x.state ≠ .run) ∧
    (∃ d, (sQ [0]).vdev? vd0 = some d) := ⟨⟨_, _, rfl, rfl, rfl, by decide⟩, _, rfl⟩

/-! ### Tokens, faults and Kiln -/

/-- A token in a link of the placed slot, one of an aborted activation, and one in the spill ring. -/
def sLink : State := { (st (wd 0x1B) rA).updElem br0 0 0 (fun e => { e with link := [(0, wt .a (scalarTok tg 1))] }) with cur := .none }
def sLinkAb : State := (st (wd 0x68) rO).updBent br0 (fun b => { b with timelines := b.timelines.modify 0 (fun x => { x with aborted := [0] }) })
def sSpill : State := (st (wd 0x00) rAB).updBent br0 (fun b =>
  { b with spill := [wt .a (scalarTok (Tag.mk 0 9) 1)], ages := [{ blk := 0, tag := tg, start := 0, told := false }], wdInterval := 0 })

theorem witness_TokenEventsComplete :
    (∃ t, sLink.linksOf br0 (.elem 0 0) = [(0, wt .a (scalarTok tg 1))] ∧
      (sLink.unlink br0 (.elem 0 0) (0, wt .a (scalarTok tg 1))).admitTok br0 (.elem 0 0) (wt .a (scalarTok tg 1)) = some t) ∧
    (∃ p b, sLinkAb.slot? 0 0 0 = some p ∧ sLinkAb.bent? br0 = some b ∧ sLinkAb.tagInVdev 0 tgo = true ∧ b.abortedTag tgo = true) ∧
    (∃ b p i, sSpill.bent? br0 = some b ∧ b.spill[0]? = some (wt .a (scalarTok (Tag.mk 0 9) 1)) ∧ sSpill.slot? 0 0 0 = some p ∧
      sSpill.rowFree br0 p.loc = true ∧ b.abortedTag (Tag.mk 0 9) = false ∧ sSpill.isStray br0 (wt .a (scalarTok (Tag.mk 0 9) 1)) = false ∧
      stationInstr p.word .a = some i ∧ sSpill.takes br0 p.loc i p.bNamed (wt .a (scalarTok (Tag.mk 0 9) 1)) = .row) ∧
    (∃ b a, sSpill.bent? br0 = some b ∧ b.ages[0]? = some a ∧ a.told = false ∧ a.start + b.wdInterval ≤ b.cycles sSpill.now) :=
  ⟨⟨_, rfl, rfl⟩, ⟨_, _, rfl, rfl, by decide, by decide⟩,
    ⟨_, _, _, rfl, rfl, rfl, by decide, by decide, by decide, rfl, by decide⟩, ⟨_, _, rfl, rfl, rfl, by decide⟩⟩

theorem witness_FaultsFreezeAndReport :
    (∃ b p e, (st (wd 0x70) rA).bent? br0 = some b ∧ (cx rA).u = .elem 0 0 ∧ (st (wd 0x70) rA).elem? br0 0 0 = some e ∧
      (st (wd 0x70) rA).part? 0 = some p ∧ (st (wd 0x70) rA).isOldest (cx rA) = true) := ⟨_, _, _, rfl, rfl, rfl, rfl, by decide⟩

theorem witness_ReplayReleasesFrozenWork :
    (∃ b e, (st (wd 0x70) rA).bent? br0 = some b ∧ (st (wd 0x70) rA).elem? br0 0 0 = some e) ∧
    (let s := (sQ [0]).putQueue { Queue.fresh vd0 0 0 0 [0] with work := some (.copy 0 32 64 false 32 true 0 []) }
     ∃ x, s.queue? vd0 0 = some x ∧ x.work = some (.copy 0 32 64 false 32 true 0 [])) := ⟨⟨_, _, rfl, rfl⟩, _, rfl, rfl⟩

theorem witness_KilnRegisterWritesComplete :
    State.reset.storeGap (.quota 0 512) = none ∧ State.reset.storeGap (.store pk0 (2 ^ 52) [0]) = some (pk0, 2 ^ 52) ∧
    (∃ p x d, (sQ [0]).part? 0 = some p ∧ (sQ [0]).queue? vd0 0 = some x ∧ (sQ [0]).vdev? vd0 = some d) ∧ 8 ≤ vcSlots 5 ∧ 1 ≤ 5 ∧ 8 ≤ vcSlots 1 :=
  ⟨by decide, by decide, ⟨_, _, _, rfl, rfl, rfl⟩, by decide, by decide, by decide⟩

def mig0 : MigRec := { pkg := pk0, new_ := 0x20000000, old := 0x30000000, state := .active, bits := List.replicate 256 false }

theorem witness_MemorySystemEventsComplete :
    (∃ d, sLd.vdev? vd0 = some d) ∧ (sLd.migs = []) ∧
    (let s : State := { sLd with migs := [mig0] }
     s.migOf (gaOf pk0 0x20000000) = some mig0 ∧ mig0.bits.getD 255 true = false ∧ s.eccIn (mig0.old + 256 * 255) 256 = false) ∧
    (∃ b e, (st (wd 0x1B) rA).bent? br0 = some b ∧ (State.reset.placeSlot (wd 0x1B)).elem? br0 0 0 = some e ∧ e.eccFrozen = false ∧ b.pkg = pk0) ∧
    (∃ r rs, (((State.reset.placeSlot (wd 0x1B)).count .eccu pk0 66).updElem br0 0 0 (fun e => { e with eccFrozen := true })).candidates br0 (.elem 0 0) =
      r :: rs) :=
  ⟨⟨_, rfl⟩, rfl, ⟨by decide +kernel, by decide +kernel, by decide +kernel⟩, ⟨_, _, rfl, rfl, rfl, rfl⟩, _, _, rfl⟩

/-! ### Phases, rounds and slots -/

/-- A raising with nothing under way, one whose STAD holds a remainder, and one with a HALT. -/
def sIdle (w : W64) (st : List StatRow) : State :=
  { (State.reset.placeSlot w).updElem br0 0 0 (fun e => { e with ready := [], stats := st }) with cur := .none }
def stat0 : StatRow := { blk := 0, slot := 0, count := 1, pay := Counts.zero.pay, tag := tg, a := none, frozen := false, warn := 0 }
def halt0 : HaltReq := { code := 0, stop := false, bent := 0, blk := 0, slot := 0, at_ := 0 }
def sHalt : State := (sIdle (wd 0xB5) []).updRaising 0 (fun r => { r with halts := [halt0] })

theorem witness_PhaseEndsComplete :
    (∃ r, (sIdle (wd 0x1B) []).raising? 0 = some r ∧ r.state = .running ∧ r.brkStop = false ∧ r.bents.any (·.isSealed) = false ∧
      (onEvent (sIdle (wd 0x1B) []) (.num 0)).quiet r = true ∧ r.remainders = []) ∧
    (∃ r, (sIdle (wd 0xAC) [stat0]).raising? 0 = some r ∧ r.state = .running ∧ r.brkStop = false ∧ r.bents.any (·.isSealed) = false ∧
      (onEvent (sIdle (wd 0xAC) [stat0]) (.num 0)).quiet r = true ∧ r.remainders ≠ []) ∧
    (∃ r, sHalt.raising? 0 = some r ∧ r.state = .running ∧ firstHalt r.halts = some halt0 ∧
      ((onEvent sHalt (.num 0)).sealRaising 0).settledAll 0 = true ∧
      ((onEvent { sHalt with reqs := [rqOf .ld .walk] } (.num 0)).sealRaising 0).settledAll 0 = false) :=
  ⟨⟨_, rfl, rfl, rfl, rfl, by decide, by decide⟩, ⟨_, rfl, rfl, rfl, rfl, by decide, by decide⟩, ⟨_, rfl, rfl, rfl, by decide, by decide⟩⟩

/-- A partition of one virtual device in a phase of its slot. -/
def sPart (ph : SlotPhase) (now : Nat) (s : State) : State :=
  { s.updPart 0 (fun p => { p with phase := ph }) with now := now, cur := .none }
def sSaved : State := (sPart .guard 0 (st (wd 0x1B) rA)).updVdev vd0 (fun d => { d with savedClus := [({ pkg := pk0, X := 0, Y := 0 }, 0)] })

theorem witness_RoundEventsComplete :
    (∃ p, (sPart .quantum 80000000 (st (wd 0x1B) rA)).part? 0 = some p ∧ p.phase = .quantum ∧ p.slotStart + p.q ≤ 80000000) ∧
    (∃ p d, (sPart .grace 80400000 (st (wd 0x1B) rA)).part? 0 = some p ∧ p.phase = .grace ∧ p.slotStart + p.q + p.w ≤ 80400000 ∧
      (sPart .grace 80400000 (st (wd 0x1B) rA)).slotVd p = some d) ∧
    (∃ p d, (sPart .guard 0 (st (wd 0x1B) rA)).part? 0 = some p ∧ p.phase = .guard ∧ (sPart .guard 0 (st (wd 0x1B) rA)).slotVd p = some d ∧
      ((sPart .guard 0 (st (wd 0x1B) rA)).occupied d.vdr).contains { pkg := pk0, X := 0, Y := 0 } = true ∧ d.savedClus = [] ∧
      ∀ r ∈ (sPart .guard 0 (st (wd 0x1B) rA)).raisingsOf d.vdr, r.clusters.contains { pkg := pk0, X := 0, Y := 0 } = true →
        (sPart .guard 0 (st (wd 0x1B) rA)).settledAll r.rid = true) ∧
    (∃ p, sSaved.part? 0 = some p ∧ p.phase = .guard ∧ p.suspended = false ∧
      (∀ d, sSaved.slotVd p = some d → ∀ c ∈ sSaved.occupied d.vdr, d.savedClus.any (·.1 == c) = false → False)) ∧
    (∃ p d, (sPart .guard 0 (st (wd 0x1B) rA)).part? 0 = some p ∧ ({ (st (wd 0x1B) rA) with vdevs := [] } : State).slotVd { p with slot := 0 } = none ∧
      (st (wd 0x1B) rA).slotVd { p with slot := 0 } = some d) ∧
    (∃ p d, (sPart .saved 0 (st (wd 0x1B) rA)).part? 0 = some p ∧ p.phase = .saved ∧ p.slotStart ≤ 0 ∧ p.suspended = false ∧
      ((onEvent (sPart .saved 0 (st (wd 0x1B) rA)) (.num 0)).updPart p.lay.part (fun p => { p with phase := .quantum })).slotVd p = some d) :=
  ⟨⟨_, rfl, rfl, by decide⟩, ⟨_, _, rfl, rfl, by decide, rfl⟩, ⟨_, _, rfl, rfl, rfl, by decide, rfl, by decide⟩,
    ⟨_, rfl, rfl, rfl, fun d h c hc hn => by cases h; revert c; decide⟩, ⟨_, _, rfl, rfl, rfl⟩, ⟨_, _, rfl, rfl, by decide, rfl, rfl⟩⟩

theorem witness_CheckpointAndTeardownComplete :
    ∃ p, (sPart .idle 0 (st (wd 0x1B) rA)).part? 0 = some p ∧ p.phase = .idle ∧
      (∀ q ∈ p.lay.pkgs, ∃ x, (sPart .idle 0 (st (wd 0x1B) rA)).plat? q = some x ∧ x.sinter.any (0 < ·) = true) ∧
      (∀ d ∈ (sPart .idle 0 (st (wd 0x1B) rA)).vdevs, d.vdr.part = 0 → d.posted = 0) := by
  refine ⟨_, rfl, rfl, ?_, by decide⟩
  intro q hq
  have : q = pk0 := by revert q; decide
  subst this
  exact ⟨_, rfl, by decide⟩

/-! ### Platform, host and ingress -/

/-- The platform of the placed package, changed. -/
def sPlat (f : Platform → Platform) : State := { (sQ [0]).updPlat pk0 f with cur := .none }
def lay0 : Layout := { parts := [] }

theorem witness_ResetEventsComplete :
    pk0.px < 64 ∧ pk0.py < 64 ∧
    (∃ q, State.reset.plat? pk0 = some q ∧ q.held = false ∧ q.power = true) ∧
    (∃ q, (sPlat (fun q => { q with recovery := true, reclen := 4 })).plat? pk0 = some q ∧ q.recovery = true ∧ q.reclen ≤ 0x10000000 ∧ q.recstack < 8 ∧
      (firmwareOk q.fusedMin ((sPlat (fun q => { q with recovery := true, reclen := 4 })).readBytes (gaOf pk0 (q.recstack * 0xC00000000)) q.reclen) = true ∨
       firmwareOk q.fusedMin ((sPlat (fun q => { q with recovery := true, reclen := 4 })).readBytes (gaOf pk0 (q.recstack * 0xC00000000)) q.reclen) =
         false)) :=
  ⟨by decide, by decide, ⟨_, rfl, rfl, rfl⟩, ⟨_, rfl, rfl, by decide, by decide, by cases firmwareOk _ _ <;> simp⟩⟩

theorem witness_PlatformEventsComplete :
    (∃ q, State.reset.plat? pk0 = some q ∧ q.ready = true ∧ q.kiln = true ∧ q.intent.valid = false ∧ lay0.ok pk0 = true ∧
      State.reset.layoutAlters pk0 lay0 = false ∧ (sPlat (fun q => { q with applied := { parts := [soleLayout []] } })).layoutAlters pk0 lay0 = true) ∧
    (let f := fun q : Platform => { q with intent := { seq := 1, bankB := true, digest := Config.sm3 (q.bank true).bytes, valid := true } }
     ∃ q, (sPlat f).plat? pk0 = some q ∧ q.intent.valid = true ∧ Config.sm3 (q.bank q.intent.bankB).bytes = q.intent.digest) ∧
    (∃ q, (sPlat (fun q => { q with thermal := .hot })).plat? pk0 = some q ∧ q.thermal = .hot) :=
  ⟨⟨_, rfl, rfl, rfl, rfl, by decide, by decide, by decide⟩, ⟨_, rfl, rfl, rfl⟩, ⟨_, rfl, rfl⟩⟩

/-- A host access of a line that waits for its migration, and one behind it. -/
def sHostMig : State := { State.reset with migs := [{ mig0 with state := .pending }] }

theorem witness_HostEvents_waits :
    (State.reset.hostWaits.any (·.1 == pk0) || State.reset.hostBlocked (State.reset.hostAddrs pk0 false 0x20000000 1)) = false ∧
    (sHostMig.hostWaits.any (·.1 == pk0) || sHostMig.hostBlocked (sHostMig.hostAddrs pk0 false 0x20000000 1)) = true ∧
    State.reset.hostWaits.any (·.1 == pk0) = false ∧ State.reset.hostBlocked (State.reset.hostAddrs pk0 true 0 1) = false := by decide

theorem witness_HostEventsComplete :
    (∃ q, State.reset.plat? pk0 = some q ∧ q.recovery = false ∧ 0xFFFFFFFFF + 1 ≤ 2 ^ 36 ∧ 0x7FFF000000000 % 2 ^ 36 = 0 ∧ 0x7FFF000000000 < 0x8000000000000) ∧
    (∃ q, (sPlat (fun q => { q with recovery := true })).plat? pk0 = some q ∧ q.recovery = true) ∧
    (∃ q, (sPlat (fun q => { q with cxl := true })).plat? pk0 = some q ∧ q.cxl = true ∧ q.recovery = false) :=
  ⟨⟨_, rfl, rfl, by decide, by decide, by decide⟩, ⟨_, rfl, rfl⟩, ⟨_, rfl, rfl, rfl⟩⟩

/-- An OPEN and a TOKEN record, and one of an unknown kind. -/
def recOpen : BitVec 512 := 1#512
def recTok : BitVec 512 := 2#512
def recNone : BitVec 512 := 3#512

/-- A virtual device's window with a record at INGHEAD and a binding; and one with a token that waits for the placed slot. -/
def sIng (r : BitVec 512) (ws : List (BitVec 512)) : State :=
  { (st (wd 0x1B) rA).updVdev vd0 (fun d => { d with ingress :=
      { head := 0, slots := [(0, r)], binding := some { image := 0, qsel := none, rid := some 0, ended := false, rejected := false, since := 0 },
        waiting := ws } }) with cur := .none }

theorem witness_IngressEventsComplete :
    (∃ d q, (sIng recTok []).vdev? vd0 = some d ∧ (sIng recTok []).plat? d.home = some q ∧ q.bar2 = true ∧ d.ingress.slots.any (·.1 == 1023) = false ∧
      d.ingress.slots.any (·.1 == 0) = true) ∧
    (∃ d, (sIng recOpen []).vdev? vd0 = some d ∧ d.ingress.slots.find? (·.1 == d.ingress.head) = some (0, recOpen) ∧ recF recOpen 0 2 = 1 ∧
      d.ingress.waiting = []) :=
  ⟨⟨_, _, rfl, rfl, rfl, by decide, by decide⟩, ⟨_, rfl, rfl, by decide +kernel, rfl⟩⟩

theorem witness_IngressEvents_token :
    (∃ d b, (sIng recTok []).vdev? vd0 = some d ∧ d.ingress.slots.find? (·.1 == d.ingress.head) = some (0, recTok) ∧ recF recTok 0 2 = 2 ∧
      d.ingress.binding = some b ∧ b.ended = false ∧ b.rejected = false ∧ recF recTok 10 1 % 4 ≠ 3) ∧
    (recF recNone 0 2 ≠ 1 ∧ recF recNone 0 2 ≠ 2) := ⟨⟨_, _, rfl, rfl, by decide +kernel, rfl, rfl, rfl, by decide +kernel⟩, by decide +kernel⟩

theorem witness_IngressEvents_inject :
    ∃ d b x n pl p, (sIng recTok [recTok]).vdev? vd0 = some d ∧ d.ingress.waiting = recTok :: [] ∧ d.ingress.binding = some b ∧ b.ended = false ∧
      b.rejected = false ∧ b.rid = some 0 ∧ (sIng recTok [recTok]).raising? 0 = some x ∧ x.bents[recF recTok 8 1]? = some n ∧
      x.blocks[recF recTok 2 2]? = some pl ∧ pl.slots[recF recTok 9 1]? = some p ∧ pl.bent = recF recTok 8 1 := by
  have h : recF recTok 8 1 = 0 ∧ recF recTok 2 2 = 0 ∧ recF recTok 9 1 = 0 := by decide +kernel
  rw [h.1, h.2.1, h.2.2]
  exact ⟨_, _, _, _, _, _, rfl, rfl, rfl, rfl, rfl, rfl, rfl, rfl, rfl, rfl, rfl⟩

/-! ### The fabric -/

/-- A sequence space from die 0 to die 1 of the package, a message of it, and a request that it carries. -/
def sp1 (vc : Nat) : Space := .vc 0 pk0 0 pk0 1 vc
def msg1 (k : MKind) (trim : Bool) (seq : Nat) (b : MBody) : Msg :=
  { mid := 0, kind := k, src := dieCell pk0 0, dst := dieCell pk0 1, unit := .cont 0, hubDst := false, tag := 0, len := 0, trim := trim, gen := 0,
    seq := seq, space := some (sp1 1), part := 0, sub := 0, body := b }
def sNet (m : Msg) : State := { sRq (rqOf .ld .toHome) sLd with inbox := [m] }
def q0 : FQueue :=
  { node := .cell (dieCell pk0 0), out := .cell { pkg := pk0, x := 1, y := 0 }, vc := 1, sub := 0, msgs := [msg1 .rdreq false 0 (.req 0)] }
def sHop : State := { sRq (rqOf .ld .toHome) sLd with fqueues := [q0] }
def win0 : Reorder := { space := sp1 3, next := 511, held := [msg1 .bulk false 511 (.req 0)], unsacked := 1, oldest := 0, ended := [] }

/-- A token of a partition that has no range, which comes to the ingress of die 1; and one of no tree that finds itself at its goal or not. -/
def mFar : Msg := { msg1 .token false 0 .empty with part := 9 }

theorem witness_FabricEvents_drop :
    sLd.ingressDrops (.cell { pkg := pk0, x := 63, y := 0 }) (.cell { pkg := pk0, x := 64, y := 0 }) mFar = some (dieCell pk0 1) ∧
    sLd.ingressDrops nd0 nd1 (msg1 .rdreq false 0 (.req 0)) = none ∧ (msg1 .rdreq false 0 (.req 0)).isTree = false ∧
    sLd.nextNode nd0 { pkg := pk0, x := 0, y := 0 } none = none ∧ sLd.atGoal nd0 { pkg := pk0, x := 0, y := 0 } none = true ∧
    (let s := sLd.updPlat pk0 (fun q => { q with fenced := [(1, 0), (0, 1)] })
     let n : Node := .cell { pkg := pk0, x := 5, y := 0 }
     s.nextNode n { pkg := pk0, x := 0, y := 0 } none = none ∧ s.atGoal n { pkg := pk0, x := 0, y := 0 } none = false) := by
  decide

theorem witness_FabricEventsComplete :
    (∃ t, (vcOrder sHop.now).findSome? (fun v => ((sHop.fqueues.filter (fun q => q.node == .cell (dieCell pk0 0) &&
      q.out == .cell { pkg := pk0, x := 1, y := 0 })).filter (·.vc == v)).findSome? (fun q => sHop.moveHead q)) = some t) ∧
    (let s : State := { sRq (rqOf .ld .toHome) sLd with reorders := [win0] }
     (s.reorders.filter (fun w => w.space.home.pkg == pk0 && w.space.home.die == 1))[0]? = some win0 ∧
       win0.held.find? (·.seq == win0.next) = some (msg1 .bulk false 511 (.req 0)) ∧ s.performing win0.space = false ∧
       s.req? 0 = some (rqOf .ld .toHome) ∧ s.tagInPart pk0 0 0 = true ∧ s.reorders[0]? = some win0 ∧ win0.unsacked ≠ 0 ∧ win0.space = .vc 0 pk0 0 pk0 1 3) ∧
    (sNet (msg1 .sack false 0 .empty)).atIngress pk0 1 (fun m => m.kind == .sack && !m.trim) = some (msg1 .sack false 0 .empty) ∧
    edgeOut (.cell { pkg := pk0, x := 63, y := 0 }) (.cell { pkg := pk0, x := 64, y := 0 }) = true := by
  refine ⟨Option.isSome_iff_exists.mp (by decide +kernel), ?_, by decide, by decide⟩
  exact ⟨by decide, by decide, by decide, rfl, by decide, rfl, by decide, rfl⟩

def trim0 (n : Nat) (due : Option Nat) : TrimEntry :=
  { pkg := pk0, die := 1, space := some (sp1 1), seq := 0, n := n, due := due, msg := msg1 .rdreq true 0 (.req 0) }
def ded0 (hi : Nat) (rep : Option Reply) : Dedup :=
  { pkg := pk0, die := 1, part := 0, spkg := pk0, sdie := 0, hi := hi, entries := [{ seq := 0, req := 0, reply := rep }] }
def errMsg : Msg := { msg1 .error false 0 (.err (some 0) none 1 1 0) with dst := dieCell pk0 0, src := dieCell pk0 1 }

theorem witness_RetransmissionEventsComplete :
    ((sNet (msg1 .rdreq true 0 (.req 0))).atIngress pk0 1 (·.trim) = some (msg1 .rdreq true 0 (.req 0)) ∧
      (sNet (msg1 .rdreq true 0 (.req 0))).settledMsg (msg1 .rdreq true 0 (.req 0)) = false ∧ (sNet (msg1 .rdreq true 0 (.req 0))).trims = []) ∧
    (let s : State := { sNet (msg1 .rdreq true 0 (.req 0)) with trims := [trim0 8 none] }
     s.settledMsg (msg1 .rdreq true 0 (.req 0)) = false ∧ ∃ e, s.trims.find? (fun e => e.pkg == pk0 && e.die == 1 && e.space == some (sp1 1) &&
       e.seq == 0 && e.msg.body == .req 0) = some e ∧ e.n + 1 = 9) ∧
    (({ sLd with trims := [trim0 1 (some 0)] } : State).trims.filter (fun e => e.pkg == pk0 && e.die == 1))[0]? = some (trim0 1 (some 0)) ∧
    ((sNet (msg1 .rereq false 0 (.req 0))).atIngress pk0 1 (fun m => m.kind == .rereq && !m.trim) = some (msg1 .rereq false 0 (.req 0)) ∧
      ({ sLd with copies := [{ copyOf (msg1 .rdreq false 0 (.req 0)) with space := sp1 1 }] } : State).copies.find? (fun c => c.space == sp1 1 && c.seq == 0) =
        some { copyOf (msg1 .rdreq false 0 (.req 0)) with space := sp1 1 }) ∧
    ((sNet (msg1 .rdreq false 0 (.req 0))).atIngress pk0 1 (fun m => m.kind.vc == 1 && !m.trim) = some (msg1 .rdreq false 0 (.req 0)) ∧
      (sNet (msg1 .rdreq false 0 (.req 0))).req? 0 = some (rqOf .ld .toHome) ∧ (sNet (msg1 .rdreq false 0 (.req 0))).tagInPart pk0 0 0 = true ∧
      (ded0 0 none).holds (sp1 1) = true ∧ 384 ≤ (511 + 512 - 0) % 512 ∧ (0 + 512 - 0) % 512 ≤ 255 ∧ (255 + 512 - 0) % 512 ≤ 255 ∧
      (ded0 255 none).entries.find? (·.seq == 0) = some { seq := 0, req := 0, reply := none } ∧
      (ded0 255 (some .ack)).entries.find? (·.seq == 0) = some { seq := 0, req := 0, reply := some .ack } ∧ 255 < (256 + 512 - 0) % 512 ∧
      (383 + 512 - 0) % 512 < 384) ∧
    ((sNet errMsg).inbox.find? (fun m => m.mid == 0 && m.kind == .error) = some errMsg ∧ errMsg.unit = .cont 0 ∧
      errMsg.space = some (.vc 0 pk0 0 pk0 1 1) ∧ (sNet errMsg).req? 0 = some (rqOf .ld .toHome) ∧ (rqOf .ld .toHome).kind ≠ .rstp ∧
      (rqOf .ld .toHome).stage ≠ .frozen ∧ (rqOf .ld .toHome).stage ≠ .reply ∧ (rqOf .ld .toHome).lingers = false) := by
  refine ⟨⟨by decide, by decide, rfl⟩, ⟨by decide, _, rfl, rfl⟩, by decide, ⟨by decide, by decide⟩, ?_, ?_⟩
  · exact ⟨by decide, rfl, by decide, by decide, by decide, by decide, by decide, rfl, rfl, by decide, by decide⟩
  · exact ⟨by decide, rfl, rfl, rfl, by decide, by decide, by decide, rfl⟩

theorem witness_ControlInstructionsFrame : ∃ mk t, mk ∈ controlOps ∧ mk (ow (wd 0x60)) = .drop (ow (wd 0x60)) ∧ exec (mk (ow (wd 0x60))) (st (wd 0x60) rA) = .next t :=
  ⟨.drop, _, by simp [controlOps], rfl, rfl⟩

/-- Whether an instruction answers a next state. -/
def nexts (o : Host.Outcome State Fault Refusal) : Bool :=
  match o with
  | .next _ => true
  | _ => false

theorem nexts_next {o : Host.Outcome State Fault Refusal} (h : nexts o = true) : ∃ t, o = .next t := by
  cases o with
  | next t => exact ⟨t, rfl⟩
  | fault _ => cases h
  | refused _ => cases h

/-- A load, a function and a tile configuration fire, with no request frozen; so do an ST, RROT, SHDW and SHDW.rel in a memory in canonical form. -/
theorem witness_FramesOfFirings :
    (∃ b e t, ((mapped 0 (st (wd 0x70) rA))).firing? = some (cx rA) ∧ exec (.ld (ow (wd 0x70))) (mapped 0 (st (wd 0x70) rA)) = .next t ∧ (∀ q ∈ (mapped 0 (st (wd 0x70) rA)).reqs, q.stage ≠ .frozen) ∧
      memWf (mapped 0 (st (wd 0x70) rA)).mem = true ∧ (mapped 0 (st (wd 0x70) rA)).bent? br0 = some b ∧ b.elems[0]? = some e) ∧
    (∃ t, exec (.exp (ow (wd 0x30))) (st (wd 0x30) rA) = .next t) ∧
    (∃ t, exec (.tfn (ow (wd 0x8D))) (sTile (wd 0x8D) rT [ring0] []) = .next t) ∧
    (∃ b t, memWf (sts (wd 0x8D) rA).mem = true ∧ (sts (wd 0x8D) rA).firing? = some (cxs rA) ∧ (sts (wd 0x8D) rA).bent? br0 = some b ∧
      exec (.rrot (ow (wd 0x8D))) (sts (wd 0x8D) rA) = .next t) ∧
    (∃ t, memWf sShd.mem = true ∧ sShd.firing? = some (cx rShd) ∧ exec (.shdw (ow (wd 0x7E))) sShd = .next t) ∧
    (∃ t, memWf sRel.mem = true ∧ sRel.firing? = some (cx rShd) ∧ exec (.shdwRel (ow 0x7E0200BFE0000000)) sRel = .next t) := by
  refine ⟨?_, ?_, ?_, ?_, ?_, ?_⟩
  · obtain ⟨t, h⟩ := nexts_next (o := exec (.ld (ow (wd 0x70))) (mapped 0 (st (wd 0x70) rA))) (by decide +kernel)
    exact ⟨_, _, t, rfl, h, by decide, by decide +kernel, rfl, rfl⟩
  · exact nexts_next (by decide +kernel)
  · exact nexts_next (by decide +kernel)
  · obtain ⟨t, h⟩ := nexts_next (o := exec (.rrot (ow (wd 0x8D))) (sts (wd 0x8D) rA)) (by decide +kernel)
    exact ⟨_, t, by decide, rfl, rfl, h⟩
  · obtain ⟨t, h⟩ := nexts_next (o := exec (.shdw (ow (wd 0x7E))) sShd) (by decide +kernel)
    exact ⟨t, by decide +kernel, rfl, h⟩
  · obtain ⟨t, h⟩ := nexts_next (o := exec (.shdwRel (ow 0x7E0200BFE0000000)) sRel) (by decide +kernel)
    exact ⟨t, by decide +kernel, rfl, h⟩

/-! ### Admission and the loading of an image -/

/-- The smallest image: a header of 64 bytes with the number 7, a RAISE section of one bent of one cell, and a block of one DROP (R242, R282, R287). -/
def imgHead : List Byte := bytesOf 4 0x00464747 ++ bytesOf 1 0 ++ bytesOf 1 1 ++ bytesOf 2 1 ++ bytesOf 4 2 ++ bytesOf 4 0 ++ bytesOf 8 7 ++ bytesOf 8 176
def imgBody : List Byte :=
  (bytesOf 2 1 ++ bytesOf 2 0 ++ bytesOf 4 24 ++ bytesOf 8 96 ++ bytesOf 2 2 ++ bytesOf 2 0 ++ bytesOf 4 56 ++ bytesOf 8 120) ++
  (bytesOf 8 1 ++ [1, 1] ++ bytesOf 6 0 ++ bytesOf 8 0) ++
  (bytesOf 8 1 ++ bytesOf 4 16 ++ bytesOf 4 40 ++ (bytesOf 24 1 ++ bytesOf 8 0x60007FFFE0000000 ++ bytesOf 8 0))

/-- The digest of the image with its digest field zero, and the image. -/
def imgSum : BitVec 256 := Config.sm3 (imgHead ++ List.replicate 32 0 ++ imgBody)
def img0 : List Byte := imgHead ++ bytesOf 32 imgSum.toNat ++ imgBody

/-- The image at address 0x20000000, which address 0 of the virtual device names, and a load of it that the hub has been asked for. -/
def cellsFrom : Nat → List Byte → List Host.Cell
  | _, [] => []
  | a, b :: bs => (a, b) :: cellsFrom (a + 1) bs
def sImg : State :=
  let s := mapped 0 (st (wd 0x1B) rA)
  { s with mem := s.mem ++ cellsFrom 0x20000000 img0
           loads := [{ vdr := vd0, id := 7, va := 0, queue := some 0, report := none, ingress := false }] }
def winImg : Window := { gen := 0, big := true, ptea := 0x10000, leaf := 0x0800001F, vbase := 0, at_ := 0 }

theorem memRead_append (pt rest : List Host.Cell) (a : Nat) (h : ∀ c ∈ pt, c.1 < a) : memRead (pt ++ rest) a = memRead rest a := by
  induction pt with
  | nil => rfl
  | cons c cs ih =>
    have hc := h c (List.mem_cons_self ..)
    have hne : ¬ c.1 = a := by omega
    have hlt : ¬ a < c.1 := by omega
    simp only [List.cons_append, memRead, if_neg hne, if_neg hlt]
    exact ih (fun x hx => h x (List.mem_cons_of_mem _ hx))

theorem memRead_cells (bs : List Byte) (base i : Nat) : memRead (cellsFrom base bs) (base + i) = bs.getD i 0 := by
  induction bs generalizing base i with
  | nil => rfl
  | cons b bs ih =>
    cases i with
    | zero => simp [cellsFrom, memRead]
    | succ i =>
      have h1 : ¬ base = base + (i + 1) := by omega
      have h2 : ¬ base + (i + 1) < base := by omega
      simp only [cellsFrom, memRead, if_neg h1, if_neg h2, List.getD_cons_succ]
      rw [show base + (i + 1) = base + 1 + i from by omega]
      exact ih (base + 1) i

theorem cells_at (m pt : List Host.Cell) (bs : List Byte) (base i : Nat) (hm : m = pt ++ cellsFrom base bs) (h : ∀ c ∈ pt, c.1 < base) :
    memRead m (base + i) = bs.getD i 0 := by
  rw [hm, memRead_append _ _ _ (fun c hc => Nat.lt_of_lt_of_le (h c hc) (Nat.le_add_right _ _)), memRead_cells]

theorem readKey_plain (s : State) (h : s.enc = []) (ga : Nat) : s.readKey ga 1 0 = [memRead s.mem ga] := by
  have hk : ∀ u, s.unitKey u = 0 := fun u => by simp [State.unitKey, h]
  have : ∀ l : List Nat, l.foldl (fun s u => if s.unitKey u = 0 then s else s.setUnit u 0 (s.unitUnder u 0)) s = s := by
    intro l
    induction l with
    | nil => rfl
    | cons x xs ih => simp [List.foldl, hk, ih]
  simp only [State.readKey, State.rekey, this, memGet]

theorem portReady_idle (s : State) (h : s.migs = []) (ga n : Nat) : s.portReady ga n = .ready s := by
  have : ∀ l : List Nat, s.portLines l = .ready s := by
    intro l
    induction l with
    | nil => rfl
    | cons x xs ih => simp [State.portLines, State.migOf, h, ih]
  exact this _

theorem engineAccess_hit (s : State) (p : Pkg) (v : VdRef) (w : Window) (va : Nat) (h : s.winHits p v w va needRd = true) :
    s.engineAccess p v [w] va needRd = (.ok w, [w], s) := by
  have hf : ([w].find? (fun w => s.winHits p v w va needRd)) = some w := by simp [h]
  unfold State.engineAccess
  rw [hf]
  rfl

/-- A byte at a home where no page migrates and no error stands. -/
theorem byteAt_ok (t : State) (ga key : Nat) (hm : t.migs = []) (he : t.ecc = []) : t.byteAt ga key = (some ((t.readKey ga 1 key).headD 0), t) := by
  have hx : ∀ ga, t.eccIn ga 1 = false := fun ga => by simp [State.eccIn, he]
  simp only [State.byteAt, portReady_idle t hm, hx, Bool.false_eq_true, if_false]

theorem vdByte_ok (s t : State) (p : Pkg) (v : VdRef) (wins l : List Window) (w : Window) (a : Nat)
    (h : s.engineAccess p v wins (s.visibleVa v (a % 2 ^ 55) []) needRd = (.ok w, l, t)) (hm : t.migs = []) (he : t.ecc = []) :
    s.vdByte p v wins a = (some ((t.readKey (w.ga p (t.visibleVa v (a % 2 ^ 55) [])) 1 (t.keyOf p v.part w.leaf)).headD 0, l), t) := by
  rw [State.vdByte, h]
  dsimp only
  rw [byteAt_ok t _ _ hm he]
  rfl

theorem vdRead_hits (s : State) (hm : s.migs = []) (he : s.ecc = []) (p : Pkg) (v : VdRef) (w : Window) (as : List Nat)
    (h : ∀ a ∈ as, s.winHits p v w (s.visibleVa v (a % 2 ^ 55) []) needRd = true) :
    s.vdRead p v [w] as = (some (as.map (fun a => (s.readKey (w.ga p (s.visibleVa v (a % 2 ^ 55) [])) 1 (s.keyOf p v.part w.leaf)).headD 0)), s) := by
  induction as with
  | nil => rfl
  | cons a as ih =>
    rw [State.vdRead, vdByte_ok s s p v [w] [w] w a (engineAccess_hit s p v w _ (h a (List.mem_cons_self ..))) hm he]
    dsimp only
    rw [ih (fun x hx => h x (List.mem_cons_of_mem _ hx))]
    rfl

theorem img_walk : sImg.walk pk0 vd0 0 needRd = (.ok winImg, sImg) := rfl

theorem img_len : img0.length = 176 := by decide +kernel

theorem img_byte (a : Nat) (h : a < 176) :
    (sImg.readKey (winImg.ga pk0 (sImg.visibleVa vd0 (a % 2 ^ 55) [])) 1 (sImg.keyOf pk0 vd0.part winImg.leaf)).headD 0 = img0.getD a 0 := by
  have hk : sImg.keyOf pk0 vd0.part winImg.leaf = 0 := by decide +kernel
  have hv : sImg.visibleVa vd0 (a % 2 ^ 55) [] = a % 2 ^ 55 := rfl
  have hg : ∀ a < 176, winImg.ga pk0 (a % 2 ^ 55) = 0x20000000 + a := by decide +kernel
  have e := cells_at sImg.mem (mapped 0 (st (wd 0x1B) rA)).mem img0 0x20000000 a rfl (fun c hc => by
    have : ∀ c ∈ (mapped 0 (st (wd 0x1B) rA)).mem, c.1 < 0x20000000 := by decide +kernel
    exact this c hc)
  rw [hk, hv, hg a h, readKey_plain sImg rfl, e, List.headD_cons]

theorem img_read (n : Nat) (h0 : 0 < n) (h : n ≤ 176) : sImg.vdRead pk0 vd0 [] (addrsFrom 0 n) = (some (img0.take n), sImg) := by
  have hl := img_len
  have hw : ∀ a < 176, sImg.winHits pk0 vd0 winImg (sImg.visibleVa vd0 (a % 2 ^ 55) []) needRd = true := by
    have hk : sImg.keyed pk0 vd0.part winImg.leaf = true := by decide +kernel
    have hg : sImg.tgenOf vd0 pk0 = 0 := by decide +kernel
    have : ∀ a < 176, winImg.hits 0 (a % 2 ^ 55) needRd = true := by decide +kernel
    intro a ha
    have hv : sImg.visibleVa vd0 (a % 2 ^ 55) [] = a % 2 ^ 55 := rfl
    rw [State.winHits, hv, hk, hg, this a ha]; rfl
  have hall := vdRead_hits sImg rfl rfl pk0 vd0 winImg ((List.range n).tail) (fun a ha => hw a (by
    have := List.mem_range.mp (List.mem_of_mem_tail ha); omega))
  have hr : addrsFrom 0 n = 0 :: (List.range n).tail := by
    cases n with
    | zero => omega
    | succ n => simp [addrsFrom, List.range_succ_eq_map]
  have hv : sImg.visibleVa vd0 (0 % 2 ^ 55) [] = 0 := rfl
  have hin : sImg.engineAccess pk0 vd0 [] (sImg.visibleVa vd0 (0 % 2 ^ 55) []) needRd = (.ok winImg, [winImg], sImg) := by
    rw [hv]; unfold State.engineAccess; rw [List.find?_nil, img_walk]; rfl
  rw [hr, State.vdRead, vdByte_ok sImg sImg pk0 vd0 [] [winImg] winImg 0 hin rfl rfl]
  dsimp only
  rw [hall]
  dsimp only [Option.map_some]
  refine congrArg (fun l => (some l, sImg)) ?_
  have h0' := img_byte 0 (by omega)
  apply List.ext_getElem
  · simp; omega
  · intro i h1 h2
    cases i with
    | zero =>
      simp only [List.getElem_cons_zero, List.getElem_take]
      rw [h0', List.getD_eq_getElem?_getD, List.getElem?_eq_getElem (by omega)]; rfl
    | succ i =>
      have hi : i + 1 < 176 := by simp at h2; omega
      simp only [List.getElem_cons_succ, List.getElem_map, List.getElem_tail, List.getElem_range, List.getElem_take]
      rw [img_byte _ hi, List.getD_eq_getElem?_getD, List.getElem?_eq_getElem (by omega)]; rfl

theorem img_bytes : sImg.imageBytes pk0 vd0 0 = (some img0, sImg) := by
  have h64 := img_read 64 (by omega) (by omega)
  have h176 := img_read 176 (by omega) (by omega)
  have hs : le (img0.take 64) 24 8 = 176 := by decide +kernel
  have hm : (le (img0.take 64) 0 4 != 0x00464747 || le (img0.take 64) 5 1 != 1 || decide (le (img0.take 64) 24 8 ≤ 64)) = false := by decide +kernel
  have ht : img0.take 176 = img0 := List.take_of_length_le (Nat.le_of_eq img_len)
  simp only [State.imageBytes, h64]
  rw [if_neg (by rw [hm]; decide), hs, h176, ht]

theorem img_header : checkHeader img0 = .ok () := by
  have hl : img0.length = 176 := img_len
  have hd : le img0 32 32 = imgSum.toNat := by
    have e : (img0.drop 32).take 32 = bytesOf 32 imgSum.toNat := by
      rw [img0, List.append_assoc, List.drop_left' (by decide), List.take_left' (by decide +kernel)]
    simp only [le, e, natOfBytes_bytesOf]
    exact Nat.mod_eq_of_lt (by have := imgSum.isLt; rw [show (256 : Nat) ^ 32 = 2 ^ 256 from by decide]; exact this)
  have hz : img0.take 32 ++ List.replicate 32 (0 : Byte) ++ img0.drop 64 = imgHead ++ List.replicate 32 0 ++ imgBody := by
    have h1 : img0.take 32 = imgHead := by rw [img0, List.append_assoc, List.take_left' (by decide)]
    have h2 : img0.drop 64 = imgBody := by rw [img0, List.drop_left' (by decide +kernel)]
    rw [h1, h2]
  have hf : (le img0 0 4 != 0x00464747 || le img0 5 1 != 1 || le img0 24 8 != 176 || le img0 6 2 != 1 || le img0 8 4 == 0 ||
      decide (4096 < le img0 8 4) || decide (176 < 64 + 16 * le img0 8 4)) = false := by decide +kernel
  simp only [Bool.or_eq_false_iff] at hf
  obtain ⟨⟨⟨⟨⟨⟨f1, f2⟩, f3⟩, f4⟩, f5⟩, f6⟩, f7⟩ := hf
  have hs : (BitVec.ofNat 256 (le img0 32 32) != Config.sm3 (img0.take 32 ++ List.replicate 32 (0 : Byte) ++ img0.drop 64)) = false := by
    rw [hz, hd, BitVec.ofNat_toNat, BitVec.setWidth_eq]; exact bne_self_eq_false _
  have hlen : decide (176 < 64) = false := by decide
  simp only [checkHeader, rejectIf, img_len, hlen, f1, f2, f3, f4, f5, f6, f7, hs, Bool.or_false, Bool.false_eq_true, if_false, Except.bind]

/-- Whether a load ends well. -/
def loads : Except LoadErr Image → Bool
  | .ok _ => true
  | .error _ => false

theorem loads_not {r : Except LoadErr Image} (h : loads r = false) : ∃ e, r = .error e := by
  cases r with
  | ok _ => cases h
  | error e => exact ⟨e, rfl⟩

theorem img_ok : ∃ i, sImg.checkImage vd0 [] 7 img0 = .ok i := by
  have h : loads (sImg.checkImage vd0 [] 7 img0) = true := by
    unfold State.checkImage
    rw [img_header]
    decide +kernel
  cases e : sImg.checkImage vd0 [] 7 img0 with
  | ok i => exact ⟨i, rfl⟩
  | error _ => rw [e] at h; cases h

/-- A queue in ADMIT with a copy of 32 bytes. -/
def sAdm : State :=
  (sQ [0x8000000000000000]).putQueue { Queue.fresh vd0 0 0 0 [0] with state := .admitting, work := some (.copy 0 32 32 false 0 false 0 []) }

/-- A load of an image that no page maps. -/
def sNoImg : State := { sImg with mem := [] }

/-- A load of 64 bytes of zeros. -/
def sZero : State := { sImg with mem := (mapped 0 (st (wd 0x1B) rA)).mem }

theorem witness_AdmissionCompletes :
    (sAdm.inSlot vd0 = true ∧ ∃ t, ((onEvent sAdm (.vdev vd0)).askAll vd0).admitOne vd0 false = some t) ∧
    ((sQ [0]).inSlot vd0 = true ∧ ((onEvent (sQ [0]) (.vdev vd0)).askAll vd0).admitOne vd0 false = none) ∧
    (∃ l d i, sImg.loads.find? (·.vdr == vd0) = some l ∧ sImg.vdev? vd0 = some d ∧ sImg.imageBytes d.home vd0 l.va = (some img0, sImg) ∧
      sImg.reportsReady vd0 l.id = true ∧ sImg.libraryFor d false img0 = (some [], sImg) ∧ sImg.checkImage vd0 [] l.id img0 = .ok i) ∧
    (∃ l d er t, sZero.loads.find? (·.vdr == vd0) = some l ∧ sZero.vdev? vd0 = some d ∧
      sZero.imageBytes d.home vd0 l.va = (some (List.replicate 64 0), t) ∧ t.reportsReady vd0 l.id = true ∧
      t.libraryFor d false (List.replicate 64 0) = (some [], t) ∧ t.checkImage vd0 [] l.id (List.replicate 64 0) = .error er) ∧
    (∃ l d t, sNoImg.loads.find? (·.vdr == vd0) = some l ∧ sNoImg.vdev? vd0 = some d ∧ sNoImg.imageBytes d.home vd0 l.va = (none, t)) := by
  obtain ⟨i, hi⟩ := img_ok
  have hz : sZero.imageBytes pk0 vd0 0 = (some (List.replicate 64 0), sZero) := by decide +kernel
  have hn : (sNoImg.imageBytes pk0 vd0 0).1 = none := by decide +kernel
  obtain ⟨er, he⟩ := loads_not (r := sZero.checkImage vd0 [] 7 (List.replicate 64 0)) (by decide +kernel)
  exact ⟨⟨by decide, Option.isSome_iff_exists.mp (by decide +kernel)⟩, ⟨by decide, Option.isNone_iff_eq_none.mp (by decide +kernel)⟩,
    ⟨_, _, i, rfl, rfl, img_bytes, by decide +kernel, rfl, hi⟩, ⟨_, _, er, _, rfl, rfl, hz, by decide +kernel, rfl, he⟩,
    ⟨_, _, _, rfl, rfl, Prod.ext hn rfl⟩⟩

/-! ### Every form of the statements of several clauses -/

/-- A state with one token in a link of the placed slot; its virtual device's contexts end at 0 in the second. -/
def sIn (w : W64) (r : Ready) (k : WaitTok) : State := { (st w r).updElem br0 0 0 (fun e => { e with link := [(0, k)], ready := [] }) with cur := .none }
def sFar (k : WaitTok) : State := (sIn (wd 0x1B) rA k).updVdev vd0 (fun d => { d with ctxLim := 0 })
def gone0 (s : State) : State := s.updBent br0 (fun b => { b with timelines := b.timelines.modify 0 (fun x => { x with aborted := [0] }) })

/-- A token of the placed slot arrives out of its context, of an aborted activation, of none, with its partner, without it, and held by a GATE. -/
theorem witness_TokensArrive :
    (let w := wt .a (scalarTok tgo 1); let s := sFar w; let s1 := s.unlink br0 (.elem 0 0) (0, w)
     s.linksOf br0 (.elem 0 0) = [(0, w)] ∧ ∃ p b, s1.slot? 0 0 0 = some p ∧ s1.bent? br0 = some b ∧ s1.tagInVdev 0 tgo = false) ∧
    (let w := wt .a (scalarTok tgo 1); let s := gone0 (sIn (wd 0x68) rO w); let s1 := s.unlink br0 (.elem 0 0) (0, w)
     s.linksOf br0 (.elem 0 0) = [(0, w)] ∧ ∃ p b, s1.slot? 0 0 0 = some p ∧ s1.bent? br0 = some b ∧ s1.tagInVdev 0 tgo = true ∧
       b.abortedTag tgo = true) ∧
    (let w := wt .a (scalarTok (Tag.mk 1 9) 1); let s := sIn (wd 0x68) rO w; let s1 := s.unlink br0 (.elem 0 0) (0, w)
     s.linksOf br0 (.elem 0 0) = [(0, w)] ∧ ∃ p b, s1.slot? 0 0 0 = some p ∧ s1.bent? br0 = some b ∧ s1.tagInVdev 0 (Tag.mk 1 9) = true ∧
       b.abortedTag (Tag.mk 1 9) = false ∧ s1.isStray br0 w = true) ∧
    (let w := wt .a (scalarTok tg 1); let s := sIn (wd 0x1B) rA w; let s1 := s.unlink br0 (.elem 0 0) (0, w)
     s.linksOf br0 (.elem 0 0) = [(0, w)] ∧ ∃ p b i r, s1.slot? 0 0 0 = some p ∧ s1.bent? br0 = some b ∧ s1.tagInVdev 0 tg = true ∧
       b.abortedTag tg = false ∧ s1.isStray br0 w = false ∧ stationInstr p.word .a = some i ∧ portOpen i p.bNamed .a = true ∧
       s1.takes br0 (.elem 0 0) i p.bNamed { w with at_ := s1.now } = .ready r) ∧
    (let w := wt .a (scalarTok tg 1); let s := sIn (wd 0x00) rAB w; let s1 := s.unlink br0 (.elem 0 0) (0, w)
     ∃ p b i, s1.slot? 0 0 0 = some p ∧ s1.bent? br0 = some b ∧ s1.tagInVdev 0 tg = true ∧
       b.abortedTag tg = false ∧ s1.isStray br0 w = false ∧ stationInstr p.word .a = some i ∧ portOpen i p.bNamed .a = true ∧
       s1.takes br0 (.elem 0 0) i p.bNamed { w with at_ := s1.now } = .row ∧ s1.hasSpill br0 (.elem 0 0) = false) ∧
    (let w := wt .a (scalarTok tg 1); let s := sIn (wd 0x5A) rA w; let s1 := s.unlink br0 (.elem 0 0) (0, w)
     ∃ p b i, s1.slot? 0 0 0 = some p ∧ s1.bent? br0 = some b ∧ s1.tagInVdev 0 tg = true ∧
       b.abortedTag tg = false ∧ s1.isStray br0 w = false ∧ stationInstr p.word .a = some i ∧ portOpen i p.bNamed .a = true ∧
       s1.takes br0 (.elem 0 0) i p.bNamed { w with at_ := s1.now } = .held ∧ s1.rowFree br0 (.elem 0 0) = true ∧
       s1.hasSpill br0 (.elem 0 0) = false) ∧
    (let w := wt .b (scalarTok tg 1); let s := sIn (wd 0x1B) rA w; let s1 := s.unlink br0 (.elem 0 0) (0, w)
     s.linksOf br0 (.elem 0 0) = [(0, w)] ∧ ∃ p b i, s1.slot? 0 0 0 = some p ∧ s1.bent? br0 = some b ∧ s1.tagInVdev 0 tg = true ∧
       b.abortedTag tg = false ∧ s1.isStray br0 w = false ∧ stationInstr p.word .b = some i ∧ portOpen i p.bNamed .b = false) :=
  ⟨⟨rfl, _, _, rfl, rfl, by decide⟩, ⟨rfl, _, _, rfl, rfl, by decide, by decide⟩, ⟨rfl, _, _, rfl, rfl, by decide, by decide, by decide⟩,
    ⟨rfl, _, _, _, _, rfl, rfl, by decide, by decide, by decide, rfl, by decide, rfl⟩,
    ⟨_, _, _, rfl, rfl, by decide, by decide, by decide, rfl, by decide, by decide, by decide⟩,
    ⟨_, _, _, rfl, rfl, by decide, by decide, by decide, rfl, by decide, by decide, by decide, by decide⟩,
    ⟨rfl, _, _, _, rfl, rfl, by decide, by decide, by decide, rfl, by decide⟩⟩

/-- The placed slot with one token in the spill ring: frozen, alone, and with its partner in a row; and a spilled element of a stream. -/
def sSp (w : WaitTok) (rows : List WaitTok) : State :=
  ((st (wd 0x00) rAB).updBent br0 (fun b => { b with spill := [w] })).updElem br0 0 0 (fun e => { e with rows := rows, ready := [] })
def wSp : WaitTok := wt .a (scalarTok (Tag.mk 0 9) 1)
def sSpPark : State := (st (wd 0x77) rA).updElem br0 0 0 (fun e => { e with streams := [{ stream0 .srd with parked := [3], spilled := [3] }] })

theorem witness_SpilledTokensReturn :
    (∀ rows, rows = [] ∨ rows = [wt .b (scalarTok (Tag.mk 0 9) 1)] → ∀ f, let w : WaitTok := { wSp with frozen := f }
      ∃ b p i, (sSp w rows).bent? br0 = some b ∧ b.spill[0]? = some w ∧ (sSp w rows).slot? 0 0 0 = some p ∧
      (b.spill.take 0).any (fun x => ((sSp w rows).slot? 0 x.blk x.slot).elim false (fun q => q.loc == p.loc)) = false ∧
      (sSp w rows).rowFree br0 p.loc = true ∧ b.abortedTag (Tag.mk 0 9) = false ∧ (sSp w rows).isStray br0 w = false ∧
      stationInstr p.word .a = some i ∧ (rows = [] → (sSp w rows).takes br0 p.loc i p.bNamed w = .row) ∧
      (rows ≠ [] → ∃ r, (sSp w rows).takes br0 p.loc i p.bNamed w = .ready r ∧ rowless i r = true)) ∧
    (∃ b, sSpPark.bent? br0 = some b ∧ b.spill.length ≤ 0 ∧ b.spilledParks[0 - b.spill.length]? = some (0, 0, 0, 3) ∧
      sSpPark.rowFree br0 (.elem 0 0) = true) := by
  refine ⟨?_, _, rfl, by decide, by decide, by decide⟩
  rintro rows (rfl | rfl) (f | f)
  · exact ⟨_, _, _, rfl, rfl, rfl, rfl, by decide, by decide, by decide, rfl, fun _ => by decide, fun h => absurd rfl h⟩
  · exact ⟨_, _, _, rfl, rfl, rfl, rfl, by decide, by decide, by decide, rfl, fun _ => by decide, fun h => absurd rfl h⟩
  · exact ⟨_, _, _, rfl, rfl, rfl, rfl, by decide, by decide, by decide, rfl, (fun h => nomatch h), fun _ => ⟨_, rfl, by decide⟩⟩
  · exact ⟨_, _, _, rfl, rfl, rfl, rfl, by decide, by decide, by decide, rfl, (fun h => nomatch h), fun _ => ⟨_, rfl, by decide⟩⟩

/-- A fault ring of 2 records at 64 KiB, the next its second, and one with no memory. -/
def sRing (cap : Nat) : State := (st (wd 0x1B) rA).updPart 0 (fun p => { p with ring := { base := 0x10000, cap := cap, wr := 3 } })

theorem witness_RecordsStandInTheRing :
    (∃ p q, memWf (sRing 2).mem = true ∧ (sRing 2).part? 0 = some p ∧ (sRing 2).plat? pk0 = some q ∧ p.ring.cap ≠ 0 ∧ p.ring.next = 0x10040) ∧
    (∃ p q, memWf (sRing 0).mem = true ∧ (sRing 0).part? 0 = some p ∧ (sRing 0).plat? pk0 = some q ∧ p.ring.cap = 0) :=
  ⟨⟨_, _, by decide, rfl, rfl, by decide, rfl⟩, _, _, by decide, rfl, rfl, rfl⟩

/-- What RoundEvents asks of a cluster's accesses before its image is saved, and of a slot with a virtual device and one with none. -/
theorem witness_RoundEvents_rest :
    (∀ r ∈ (sPart .guard 0 (st (wd 0x1B) rA)).raisingsOf vd0, r.clusters.contains { pkg := pk0, X := 0, Y := 0 } = true →
      (sPart .guard 0 (State.reset.placeSlot (wd 0x1B))).atRest r.rid = true) ∧
    (∃ p, ({ (st (wd 0x1B) rA) with vdevs := [] } : State).part? 0 = some p ∧ ({ (st (wd 0x1B) rA) with vdevs := [] } : State).slotVd p = none) ∧
    (∃ p d, (st (wd 0x1B) rA).part? 0 = some p ∧ (st (wd 0x1B) rA).slotVd p = some d) ∧
    (∃ p d, (sPart .saved 0 (st (wd 0x1B) rA)).part? 0 = some p ∧ p.phase = .saved ∧ p.slotStart ≤ 0 ∧ p.suspended = false ∧ ((onEvent (sPart .saved 0 (st (wd 0x1B) rA)) (.num 0)).updPart 0 (fun p => { p with phase := .quantum, qtOff := 0 })).slotVd
      p = some d) :=
  ⟨by decide, ⟨_, rfl, rfl⟩, ⟨_, _, rfl, rfl⟩, _, _, rfl, rfl, by decide, by decide, rfl⟩

/-- The last byte of the second of two frames of the placed package, and a frame of none. -/
theorem witness_FramesStandInTheCheckpoint :
    memWf (mapped 0 (st (wd 0x1B) rA)).mem = true ∧ 0x10000000000 % 32 = 0 ∧
    (∃ p, (mapped 0 (st (wd 0x1B) rA)).part? 0 = some p ∧ (([(pk0, ((mapped 0 (st (wd 0x1B) rA)).checkpointTail p pk0).length)].find? (·.1 == pk0)).map
      (·.2)).getD 0 = ((mapped 0 (st (wd 0x1B) rA)).checkpointTail p pk0).length) ∧ gaPkg (gaOf pk0 0x5FFFF) = pk0 ∧
    checkpointGa [(pk0, 1), (pk0, 5)] 0x10000000000 (gaOf pk0 0x5FFFF) = some (gaOf pk0 (0x10000000000 + 64 + 0x1FFFF)) ∧
    checkpointGa [(pk0, 1), (pk0, 5)] 0x10000000000 (gaOf pk0 0x60000) = none := ⟨by decide +kernel, by decide, ⟨_, rfl, rfl⟩, by decide, by decide, by decide⟩

/-- An idle partition with a Sinter store, for which Kiln has planned a checkpoint of one frame. -/
def plan0 (copied : Bool) : CheckpointPlan := { base := 0x10000000000, frames := [(pk0, 1)], tails := [], copied := copied }
def sCkpt (copied : Bool) : State :=
  ((sPart .idle 0 (st (wd 0x1B) rA)).updPart 0 (fun p => { p with ckpt := some (plan0 copied) })).updRaising 0 (fun r => { r with state := .drained })

theorem witness_CheckpointsCommit :
    (∃ p, (sCkpt false).part? 0 = some p ∧ p.ckpt = some (plan0 false) ∧ (sCkpt false).canCheckpoint p = true ∧
      ∀ q ∈ p.lay.pkgs, (sCkpt false).checkpointFits p [(pk0, 1)] (p.lay.pkgs.map (fun q => (q, ((sCkpt false).checkpointTail p q).length))) 0x10000000000 q = true) ∧
    (∃ p, (sCkpt true).part? 0 = some p ∧ p.ckpt = some (plan0 true) ∧ (sCkpt true).canCheckpoint p = true ∧ memWf (sCkpt true).mem = true ∧
      (plan0 true).base % 32 = 0) :=
  ⟨⟨_, rfl, rfl, by decide, by decide⟩, _, rfl, rfl, by decide, by decide, by decide⟩

/-- A virtual device between rounds and in its slot, and a partition whose posted counters are zero. -/
theorem witness_Teardown :
    ((sPart .idle 0 (st (wd 0x1B) rA)).part? 0).elim true (sPart .idle 0 (st (wd 0x1B) rA)).betweenRounds = true ∧
    ((sPart .quantum 0 (st (wd 0x1B) rA)).part? 0).elim true (sPart .quantum 0 (st (wd 0x1B) rA)).betweenRounds = false ∧
    (∃ p, (st (wd 0x1B) rA).part? 0 = some p ∧ ∀ d ∈ (st (wd 0x1B) rA).vdevs, d.vdr.part = 0 → d.posted = 0) :=
  ⟨by decide, by decide, _, rfl, by decide⟩

theorem witness_HostBytes : ∃ q, State.reset.plat? pk0 = some q ∧ State.reset.migOf (gaOf pk0 0) = none ∧ State.reset.eccIn (gaOf pk0 0) 1 = false :=
  ⟨_, rfl, rfl, by decide⟩

/-- The last byte of BAR4, one access past it, an aligned APBASE, the last vector, and each answer of the responder. -/
theorem witness_HostEvents_forms :
    (2 ^ 36 - 1) + 1 ≤ 2 ^ 36 ∧ (2 ^ 36 * 3 % 2 ^ 36 = 0 ∧ 2 ^ 36 * 3 < 0x8000000000000) ∧ (2 ^ 36 * 3 + 1) % 2 ^ 36 ≠ 0 ∧ 2047 < 2048 ∧
    (∃ q code bs session, State.reset.plat? pk0 = some q ∧ q.respond (.measurement 3 0) = some (code, bs, session)) ∧
    (∃ q code bs session, State.reset.plat? pk0 = some q ∧ q.respond .certificate = some (code, bs, session)) ∧
    (∃ q k code bs session, (sPlat (fun q => { q with session := some 5 })).plat? pk0 = some q ∧ q.session = some k ∧
      q.respond (.exchange []) = some (code, bs, session)) ∧
    (∃ q, State.reset.plat? pk0 = some q ∧ q.respond (.measurement 4 0) = none) :=
  ⟨by decide, by decide, by decide, by decide, ⟨_, _, _, _, rfl, rfl⟩, ⟨_, _, _, _, rfl, rfl⟩, ⟨_, _, _, _, _, rfl, rfl, rfl⟩, _, rfl, rfl⟩

theorem witness_IngressEvents_write :
    (∃ d q, (sIng recTok []).vdev? vd0 = some d ∧ (sIng recTok []).plat? d.home = some q ∧ q.bar2 = true ∧ 1023 < 1024 ∧ vd0.part < 16 ∧ vd0.vd < 64 ∧
      d.ingress.slots.any (·.1 == 1023) = false ∧ d.ingress.slots.any (·.1 == 0) = true) := ⟨_, _, rfl, rfl, rfl, by decide, by decide, by decide, by decide, by decide⟩

/-- A layout commit that power loss cuts after its bank, its intent or its active bank, and one that nothing cuts. -/
theorem witness_PlatformEvents_layout :
    ∃ q, State.reset.plat? pk0 = some q ∧ q.ready = true ∧ q.intent.valid = false ∧ lay0.ok pk0 = true ∧ State.reset.layoutAlters pk0 lay0 = false ∧
      (none : Option Nat) ≠ some 0 ∧ ((sPlat (fun q => { q with kiln := true })).plat? pk0).map (·.kiln) = some true :=
  ⟨_, rfl, rfl, rfl, by decide, by decide, by decide, rfl⟩

/-- A home's table with none of a space, one that has not seen a SEQ, and an ERROR for a request that is still to be answered. -/
theorem witness_Retransmission_tables :
    (sNet (msg1 .rdreq false 0 (.req 0))).dedups.find? (·.holds (sp1 1)) = none ∧
    ((sNet (msg1 .rdreq false 0 (.req 0))).dedups.filter (·.pkg == pk0)).length < 4096 ∧
    (ded0 255 none).entries.find? (·.seq == 1) = none ∧ (255 + 512 - 1) % 512 ≤ 255 ∧ (rqOf .ld .toHome).lingers = false := by decide

/-- A CSRD stream of one row at its second pointer, and a batch of a descriptor whose combining operation reads the table. -/
def sCsrd : State := (sDesc (wd 0x77) rA).updElem br0 0 0 (fun e => { e with streams := [{ stream0 .csrd with ptrs := [(0, 0)] }] })
def dscCop : BitVec 512 := 7#4 ++ 0#8 ++ 1#4 ++ 0#336 ++ 4#32 ++ 0#128
def sBatchCop (i : Int) : State := (withDesc dscCop (sBatch i))

theorem witness_StreamWork_pointers :
    ∃ e bs wins t, (sCsrd).bentLive br0 = true ∧ (sCsrd).elem? br0 0 0 = some e ∧
      e.streams.find? (·.id == 0) = some { stream0 .csrd with ptrs := [(0, 0)] } ∧ 1 ≤ (stream0 .csrd).count ∧ e.eccFrozen = false ∧
      (Desc.ofBits dsc).loc = false ∧ (sCsrd).engineLoad ((sCsrd).agAccess br0 e (Desc.ofBits dsc) needRd false [] false 0 0) []
        (({ stream0 .csrd with ptrs := [(0, 0)] } : Stream).ptrAddrs (Desc.ofBits dsc) 1) = .ok bs wins t :=
  ⟨_, _, _, _, by decide, rfl, rfl, by decide, rfl, by decide, rfl⟩

theorem witness_StreamWork_combining :
    ∃ b, (sBatchCop 3).bent? br0 = some b ∧ (Desc.ofBits dscCop).cop ≠ 0 ∧ (Desc.ofBits dscCop).sh = false ∧ 3 < Int.ofNat (Desc.ofBits dscCop).tableExt ∧
      (let s := sBatchCop 3
       let acc := { accBatch b with need := needBoth }
       let addrs := (List.range (Desc.ofBits dscCop).es).map (fun k => addrAt 0 (3 * Int.ofNat (Desc.ofBits dscCop).es + Int.ofNat k))
       s.orderBehind br0 0 0 0 true false addrs (match s.locateAll acc [] addrs with
         | (.ok l, _, _) => l
         | _ => []) = false ∧
       ∃ old wins u, s.engineLoad acc (s.ventWinsOf b.pkg (s.ventPort b.pkg vd0 0) vd0) addrs = .ok old wins u) :=
  ⟨_, rfl, by decide, by decide, by decide, by decide +kernel, ended_ok (by decide +kernel)⟩

/-- A GATE that a null opened with a token held, a null WRITE, and a mailbox of two records at a package whose platform is there. -/
theorem witness_GateReleasesNulls :
    ∃ e g w p, (sGate true rA).elem? br0 0 0 = some e ∧ (sGate true rA).unitRuns br0 (.elem 0 0) = true ∧ (sGate true rA).slot? 0 0 0 = some p ∧
      e.gateOf 0 0 0 = some g ∧ g.null = true ∧ e.rows.find? (fun w => w.blk == 0 && w.slot == 0 && w.port == .a && w.tok.tag.ctx == 0) = some w :=
  ⟨_, _, _, _, rfl, by decide, rfl, rfl, rfl, rfl⟩

theorem witness_WritePassesNulls :
    (st (wd 0x69) { rO with a := some (wt .a (nullTok tgo)) }).firing? = some (cx { rO with a := some (wt .a (nullTok tgo)) }) ∧
    fireCase (prEff (ow (wd 0x69))).1 (cx { rO with a := some (wt .a (nullTok tgo)) }) = .nullPass := ⟨rfl, by decide⟩

def mail0 (n : Nat) : MailRec := { part := 0, vd := 0, queue := n, index := 0, code := 5 }

theorem witness_QueueEvents_mailbox :
    ∃ d q, ((sQ [0]).updVdev vd0 (fun d => { d with mailbox := [mail0 0, mail0 63] })).vdev? vd0 = some d ∧ d.mailbox = mail0 0 :: [mail0 63] ∧
      (sQ [0]).plat? d.home = some q := ⟨_, _, rfl, rfl, rfl⟩

/-- Requests, operations, copies and contributions that can leave now: to the own package, and to another. -/
theorem witness_CanLeave :
    CanLeave (st (wd 0xA0) rAB) (cx rAB) (remoteReq (st (wd 0xA0) rAB) (ow (wd 0xA0)) (cx rAB) .rld 8 7 0 0) ∧
    CanLeave (sRem (wd 0xA0)) (cx rPk) (remoteReq (sRem (wd 0xA0)) (ow (wd 0xA0)) (cx rPk) .rld 8 7 0 0) ∧
    CanLeave (sRem (wd 0xA2)) (cx rPk) (remoteReq (sRem (wd 0xA2)) (ow (wd 0xA2)) (cx rPk) .rstp 8 7 0 0) ∧
    OpCanLeave (sGrp (wd 0xA4)) mc0 ∧ OutputFree (sGrp (wd 0xA4)) nd0 nd1 copy1.msg ∧ NodeCanLeave sRed nd0 (red 0) :=
  ⟨.inl (by decide), .inr (by decide), .inr (by decide), .inl (by decide), ⟨by decide, by decide⟩,
   fun _ _ _ => rfl, by decide +kernel⟩

/-- A message that goes on to a free output, one that is at its destination, and one whose link is down. -/
def sHop1 (dst : CellId) : State := { sHop with fqueues := [{ q0 with msgs := [{ msg1 .rdreq false 0 (.req 0) with dst := dst, space := none }] }] }
def qHop1 (dst : CellId) : FQueue := { q0 with msgs := [{ msg1 .rdreq false 0 (.req 0) with dst := dst, space := none }] }

theorem witness_FlitHops :
    (∀ dst, (sHop1 dst).fqueues.filter (fun q => q.node == nd0 && q.out == nd1) = [qHop1 dst] ∧ (qHop1 dst).vc < 8 ∧ nd1 ≠ nd0 ∧
      (sHop1 dst).hopDown nd0 nd1 = false) ∧
    (let m : Msg := { msg1 .rdreq false 0 (.req 0) with space := none }
     let s1 : State := { sHop1 (dieCell pk0 1) with fqueues := [] }
     m.isTree = false ∧ s1.nextNode nd1 m.dst m.hubUnit = some (.cell { pkg := pk0, x := 2, y := 0 }) ∧
       s1.intoSlot nd1 (.cell { pkg := pk0, x := 2, y := 0 }) m = none ∧ OutputFree s1 nd1 (.cell { pkg := pk0, x := 2, y := 0 }) m) ∧
    (let m : Msg := { msg1 .rdreq false 0 (.req 0) with dst := { pkg := pk0, x := 1, y := 0 }, space := none }
     let s1 : State := { sHop1 { pkg := pk0, x := 1, y := 0 } with fqueues := [] }
     s1.nextNode nd1 m.dst m.hubUnit = none ∧ m.trim = false ∧ m.kind = .rdreq ∧ m.body = .req 0 ∧ s1.tagLost m = false ∧ m.space = none) ∧
    (∃ (s : State) (n out : Node), s.hopDown n out = true) := by
  refine ⟨fun _ => ⟨rfl, show 1 < 8 by decide, by decide, rfl⟩, ⟨by decide, by decide, by decide, by decide, by decide⟩,
    ⟨by decide, rfl, rfl, rfl, by decide, rfl⟩, { sHop with down := [{ pkg := pk0, edge := .east, half := 0 }] }, .edge pk0 .east 0, .edge { px := 1, py := 0 } .west 0, ?_⟩
  decide

/-- A copy of no tile and no ring that has not begun, and one whose units are all written. -/
theorem witness_CopyBeginsAndEnds :
    (let s := sCopy (copy0 [0] false)
     let p := s.copyPlan 0 0 0 (scalarTok tg 0)
     p.dr = false ∧ p.tiled = false ∧ p.dst.tl = false ∧ p.src.loc = false ∧ p.dst.loc = false ∧ p.dst.sh = false) ∧
    (let x := { copy0 [0] true with off := 1 }
     let s := sCopy x
     ∃ b k, s.bent? br0 = some b ∧ s.clus? br0 0 0 = some k ∧ x.pos < x.units.length ∧
       (alignedUnits (x.dsts (s.copyPlan 0 0 0 (scalarTok tg 0)) (b.vault0 0 0) (k.ring? (s.copyPlan 0 0 0 (scalarTok tg 0)).ring))).length ≤ x.off ∧
       s.bulksOf (.copy br0 0 0 0) = []) :=
  ⟨by decide, _, _, rfl, rfl, by decide, by decide, by decide⟩

/-- Engine accesses of an own scratchpad, through a window of the engine, and through one of an AG. -/
def winE : Window := { gen := 0, big := false, ptea := 0, leaf := 0x0800001F, vbase := 0, at_ := 0 }
def accE (loc : Bool) (ag : Option (Nat × Nat)) : Access :=
  { br := br0, spad := { pkg := pk0, x := 0, y := 0 }, loc := loc, need := needRd, sh := false, gens := [], tile := false, owner := 0, ag := ag }

theorem witness_EngineAccessesRun :
    (∃ b, (st (wd 0x1B) rA).bent? br0 = some b ∧ b.localAt 64 = .spad 64 ∧ (accE true none).sh = false ∧ (accE true none).tile = false) ∧
    (∃ b, (st (wd 0x1B) rA).bent? br0 = some b ∧ canonVa (BitVec.ofNat 64 64) = true ∧
      [winE].find? (fun w => (st (wd 0x1B) rA).winHits b.pkg vd0 w ((st (wd 0x1B) rA).visibleVa vd0 64 []) needRd) = some winE) ∧
    (st (wd 0x1B) rA).migs = [] ∧ (st (wd 0x1B) rA).agBehind (accE true (some (0, 0))) [64] [(spadGa { pkg := pk0, x := 0, y := 0 } 64, 0)] = false ∧
    (st (wd 0x1B) rA).eccIn (spadGa { pkg := pk0, x := 0, y := 0 } 64) 1 = false :=
  ⟨⟨_, rfl, by decide, rfl, rfl⟩, ⟨_, rfl, by decide, by decide⟩, rfl, by decide, by decide⟩

end Sys2Proof.Tests
end

section
/-! PROOFS. RoundTo gives back the finite values of a format (R6, R114, R124): a value on the format's own grid is rounded by no mode. -/

namespace Sys2Proof.Machine

open Sys2Proof

/-- A code is its sign bit and what stands below it. -/
theorem Fmt.signBit_add_mod {f : Fmt} (hb : 0 < f.bits) {code : Nat} (h : code < 2 ^ f.bits) :
    f.signBit (code / 2 ^ (f.bits - 1) % 2 == 1) + code % 2 ^ (f.bits - 1) = code := by
  have hpow : 2 ^ f.bits = 2 * 2 ^ (f.bits - 1) := by rw [← Nat.pow_succ']; congr 1; omega
  have hsign : code / 2 ^ (f.bits - 1) < 2 := Nat.div_lt_of_lt_mul (by rw [Nat.mul_comm]; omega)
  have hsplit := Nat.div_add_mod code (2 ^ (f.bits - 1))
  unfold Fmt.signBit
  rcases Nat.lt_succ_iff_lt_or_eq.1 hsign with h0 | h1
  · rw [Nat.lt_one_iff.1 h0] at hsplit ⊢; simpa using hsplit
  · rw [h1] at hsplit ⊢; simpa using hsplit

/-- What a code of a finite value holds (R114): a magnitude that is no larger than the largest finite one, and the value of a subnormal or of a normal
code. -/
theorem Fmt.decode_fin {f : Fmt} {code c : Nat} {d : Dy} (hc : code % 2 ^ (f.bits - 1) = c) (h : f.decode code = .fin d) :
    c ≤ f.maxCode ∧ d.neg = (code / 2 ^ (f.bits - 1) % 2 == 1) ∧
      ((c / 2 ^ f.frac = 0 ∧ d.m = c % 2 ^ f.frac ∧ (d.m ≠ 0 → d.e = f.qmin)) ∨
        (c / 2 ^ f.frac ≠ 0 ∧ d.m = 2 ^ f.frac + c % 2 ^ f.frac ∧ d.e = f.qmin + (c / 2 ^ f.frac : Nat) - 1)) := by
  have hlt : c < 2 ^ (f.bits - 1) := hc ▸ Nat.mod_lt _ (Nat.two_pow_pos _)
  simp only [Fmt.decode, hc] at h
  split at h
  · cases h
  next hnan =>
  split at h
  · cases h
  next hinf =>
  split at h
  · cases h
  next hnan' =>
  have hmax : c ≤ f.maxCode := by
    cases hI : f.hasInf with
    | true =>
      have hle : f.maxCode = f.infCode - 1 := by simp [Fmt.maxCode, Fmt.infCode, hI]
      simp only [hI, Bool.true_and, decide_eq_true_eq, beq_iff_eq] at hnan hinf
      omega
    | false =>
      cases hN : f.hasNan with
      | true => simpa [hI, hN] using hnan'
      | false => simp only [Fmt.maxCode, hI, hN, Bool.false_eq_true, if_false]; omega
  split at h
  · next hex =>
    cases h
    exact ⟨hmax, rfl, .inl ⟨hex, rfl, fun hm => if_neg hm⟩⟩
  · next hex =>
    cases h
    exact ⟨hmax, rfl, .inr ⟨hex, rfl, rfl⟩⟩

/-- RoundTo of a value whose last bit already stands at the format's quantum, in every mode: nothing is lost. -/
theorem Fmt.round_of_quantum {f : Fmt} (mode : Rnd) (nov : Bool) {d : Dy} (hm : d.m ≠ 0)
    (hq : max ((Nat.log2 d.m : Int) + d.e - f.frac) f.qmin = d.e)
    (hmax : (d.e - f.qmin).toNat * 2 ^ f.frac + d.m ≤ f.maxCode) :
    f.round mode nov d = (f.signBit d.neg + ((d.e - f.qmin).toNat * 2 ^ f.frac + d.m), 0) := by
  have hat : roundAt mode d d.e = (d.m, false) := by simp [roundAt]
  simp only [Fmt.round, if_neg hm, Int.ofNat_eq_natCast, hq, hat, if_neg (Nat.not_lt.2 hmax), Bool.false_eq_true, if_false]

/-- RoundTo of a zero is the zero of its sign. -/
theorem Fmt.round_zero (f : Fmt) (mode : Rnd) (nov : Bool) {d : Dy} (hm : d.m = 0) : f.round mode nov d = (f.signBit d.neg, 0) := if_pos hm

/-- The leading bit of a normal significand. -/
theorem log2_two_pow_add {k r : Nat} (h : r < 2 ^ k) : Nat.log2 (2 ^ k + r) = k :=
  (Nat.log2_eq_iff (by have := Nat.two_pow_pos k; omega)).2 ⟨by omega, by rw [Nat.pow_succ]; omega⟩

/-- RoundTo undoes decoding, in any format of at least one bit. -/
theorem Fmt.round_decode {f : Fmt} (hb : 0 < f.bits) (mode : Rnd) (nov : Bool) {code : Nat} {d : Dy} (hcode : code < 2 ^ f.bits)
    (h : f.decode code = .fin d) : f.round mode nov d = (code, 0) := by
  obtain ⟨hmax, hneg, hval⟩ := decode_fin rfl h
  have hsign := signBit_add_mod hb hcode
  rw [← hneg] at hsign
  have hsplit := Nat.div_add_mod' (code % 2 ^ (f.bits - 1)) (2 ^ f.frac)
  have hfrac : code % 2 ^ (f.bits - 1) % 2 ^ f.frac < 2 ^ f.frac := Nat.mod_lt _ (Nat.two_pow_pos _)
  rcases hval with ⟨hex, hm, he⟩ | ⟨hex, hm, he⟩
  · rw [hex, Nat.zero_mul, Nat.zero_add, ← hm] at hsplit
    by_cases h0 : d.m = 0
    · rw [round_zero f mode nov h0, ← hsign, ← hsplit, h0, Nat.add_zero]
    · have hlog : Nat.log2 d.m < f.frac := (Nat.log2_lt h0).2 (hm ▸ hfrac)
      have hgrid : (d.e - f.qmin).toNat * 2 ^ f.frac + d.m = code % 2 ^ (f.bits - 1) := by rw [he h0, ← hsplit]; simp
      rw [round_of_quantum mode nov h0 (by have := he h0; omega) (hgrid ▸ hmax), hgrid, hsign]
  · generalize code % 2 ^ (f.bits - 1) / 2 ^ f.frac = ex at hex he hsplit
    have hlog : Nat.log2 d.m = f.frac := by rw [hm]; exact log2_two_pow_add hfrac
    have h0 : d.m ≠ 0 := by have := Nat.two_pow_pos f.frac; omega
    have hgrid : (d.e - f.qmin).toNat * 2 ^ f.frac + d.m = code % 2 ^ (f.bits - 1) := by
      have hexp : (d.e - f.qmin).toNat + 1 = ex := by omega
      rw [hm, ← Nat.add_assoc, ← Nat.succ_mul, Nat.succ_eq_add_one, hexp, hsplit]
    rw [round_of_quantum mode nov h0 (by omega) (hgrid ▸ hmax), hgrid, hsign]

/-- Every format of R114 has a sign bit. -/
theorem fmtOf_bits_pos (ty : Nat) : 0 < (fmtOf ty).bits := by
  unfold fmtOf
  split <;> decide

/-- Settles O15: the value of a code has its last bit at the format's quantum, so that RoundTo drops nothing and puts the code together again. -/
theorem representableValuesRoundToThemselves : Obligations.RepresentableValuesRoundToThemselves :=
  fun ty m nov _ _ _ _ hcode hdec => (fmtOf ty).round_decode (fmtOf_bits_pos ty) m nov hcode hdec

end Sys2Proof.Machine
end

section
/-! PROOFS. What the operations that a store and a fault share leave alone: writing bytes, changing a window entry, charging, and putting a message
into a router's queue. -/

namespace Sys2Proof.Machine

open Sys2Proof

/-- Making a unit hold a value changes memory and its keys alone. -/
theorem State.setUnit_eq (s : State) (u key : Nat) (v : W256) : ∃ m e, s.setUnit u key v = { s with mem := m, enc := e } := ⟨_, _, rfl⟩

/-- Bringing a range under a key changes memory and its keys alone. -/
theorem State.rekey_eq (s : State) (ga n key : Nat) : ∃ m e, s.rekey ga n key = { s with mem := m, enc := e } := by
  unfold State.rekey
  generalize (List.range ((ga + n + 31) / 32 - ga / 32)).map (· + ga / 32) = us
  induction us generalizing s with
  | nil => exact ⟨s.mem, s.enc, rfl⟩
  | cons u us ih =>
    rw [List.foldl_cons]
    split
    · exact ih s
    · obtain ⟨m, e, hset⟩ := s.setUnit_eq u key (s.unitUnder u key)
      rw [hset]
      exact ih { s with mem := m, enc := e }

/-- Writing bytes under a key changes memory, its keys and its errors alone. -/
theorem State.writeKey_eq (s : State) (ga key : Nat) (bs : List Byte) :
    ∃ m e c, s.writeKey ga key bs = { s with mem := m, enc := e, ecc := c } := by
  obtain ⟨m, e, h⟩ := s.rekey_eq ga bs.length key
  simp only [State.writeKey, h]
  exact ⟨_, e, _, rfl⟩

/-- Every byte of a unit that a write does not touch stays as it stands. -/
theorem State.memRead_writeKey_unit {s : State} (hm : memWf s.mem = true) (ga key : Nat) (bs : List Byte) {a : Nat}
    (h : ¬ (ga / 32 ≤ a / 32 ∧ a / 32 < (ga + bs.length + 31) / 32)) : memRead (s.writeKey ga key bs).mem a = memRead s.mem a := by
  obtain ⟨hwf, _, _, hout⟩ := State.rekey_spec hm ga bs.length key
  calc memRead (s.writeKey ga key bs).mem a
      = memRead (s.rekey ga bs.length key).mem a := by
        simp only [State.writeKey]; rw [memRead_memPutAll hwf, if_neg (by omega)]
    _ = memRead s.mem a := by rw [← State.unitByte_unitPlain, (hout _ h).2, State.unitByte_unitPlain]

/-- Changing the window entry of a firing changes a timeline of its bent, or nothing. -/
theorem State.updEntry_eq (s : State) (c : Ctx) (f : WinEntry → WinEntry) :
    s.updEntry c f = s ∨ ∃ tl, s.updEntry c f = s.updTl c.br tl (fun t => t.updEntry c.tag f) := by
  unfold State.updEntry
  split
  · exact .inr ⟨_, rfl⟩
  · exact .inl rfl

@[simp] theorem State.updEntry_mem (s : State) (c : Ctx) (f : WinEntry → WinEntry) : (s.updEntry c f).mem = s.mem := by
  obtain h | ⟨_, h⟩ := s.updEntry_eq c f <;> rw [h]; rfl
@[simp] theorem State.updEntry_enc (s : State) (c : Ctx) (f : WinEntry → WinEntry) : (s.updEntry c f).enc = s.enc := by
  obtain h | ⟨_, h⟩ := s.updEntry_eq c f <;> rw [h]; rfl
@[simp] theorem State.updEntry_reqs (s : State) (c : Ctx) (f : WinEntry → WinEntry) : (s.updEntry c f).reqs = s.reqs := by
  obtain h | ⟨_, h⟩ := s.updEntry_eq c f <;> rw [h]; rfl
@[simp] theorem State.updEntry_fqueues (s : State) (c : Ctx) (f : WinEntry → WinEntry) : (s.updEntry c f).fqueues = s.fqueues := by
  obtain h | ⟨_, h⟩ := s.updEntry_eq c f <;> rw [h]; rfl

/-- Charging an access changes neither memory nor its keys, no request and no router queue. -/
theorem State.chargeAct_frame (s : State) (c : Ctx) (what : Nat) :
    (s.chargeAct c what).mem = s.mem ∧ (s.chargeAct c what).enc = s.enc ∧ (s.chargeAct c what).reqs = s.reqs ∧
      (s.chargeAct c what).fqueues = s.fqueues := by
  simp [State.chargeAct, State.charge]

/-- A message put into a queue of a router stands there, and nothing but the router queues changes. -/
theorem State.enqueue_spec (s : State) (node out : Node) (vc sub : Nat) (m : Msg) :
    ∃ qs, s.enqueue node out vc sub m = { s with fqueues := qs } ∧ ∃ q ∈ qs, m ∈ q.msgs := by
  unfold State.enqueue
  dsimp only
  split
  · next hany =>
    obtain ⟨q, hq, hit⟩ := List.any_eq_true.1 hany
    exact ⟨_, rfl, _, List.mem_map_of_mem hq, by simp [hit]⟩
  · exact ⟨_, rfl, _, List.mem_append_right _ (List.mem_singleton_self _), by simp⟩

end Sys2Proof.Machine
end

section
/-! PROOFS. A store at its home (R4, R65, R88, R90, R93, R205): the request reaches its port, its bytes are written under its key, and the answer
changes neither memory nor its keys. -/

namespace Sys2Proof.Machine

open Sys2Proof Claims

/-- An acknowledgement across dies is a message to the request's issuer, and changes the router queues and the message numbers alone (R93, R205). -/
theorem State.sendReply_ack (s : State) (r : Req) (sp : Space) :
    ∃ qs n, s.sendReply r sp .ack = { s with fqueues := qs, nextId := n } ∧ ∃ q ∈ qs, ∃ m ∈ q.msgs, m.body = .rep r.id .ack := by
  simp only [State.sendReply, State.newId, State.inject]
  obtain ⟨qs, hs, q, hq, hm⟩ := State.enqueue_spec ..
  exact ⟨qs, _, hs, q, hq, _, hm, rfl⟩

/-- A request put in the place of the one of its number is found under that number. -/
theorem State.req?_updReq_const {s : State} {r q : Req} {n : Nat} (hr : s.req? n = some r) (hq : q.id = n) :
    (s.updReq n (fun _ => q)).req? n = some q := by
  have hkey : ((fun x : Req => x.id == n) ∘ fun x => if x.id == n then q else x) = fun x => x.id == n := by
    funext x
    by_cases h : x.id = n <;> simp [h, hq]
  have hid : r.id = n := by simpa using List.find?_some hr
  simp only [State.req?] at hr
  simp only [State.req?, State.updReq, updIf, List.find?_map, hkey, hr, Option.map_some, hid, beq_self_eq_true, if_true]

/-- An acknowledgement changes neither memory nor its keys (R93, R205). -/
theorem State.answer_ack_frame (s : State) (r : Req) : (s.answer r .ack).mem = s.mem ∧ (s.answer r .ack).enc = s.enc := by
  unfold State.answer
  split
  · obtain ⟨qs, n, h, _⟩ := State.sendReply_ack ..
    rw [h]; exact ⟨rfl, rfl⟩
  · exact ⟨rfl, rfl⟩

/-- An acknowledgement of a request that came by no message ends it at its home (R93). -/
theorem State.req?_answer_ack_here {s : State} {r : Req} (hr : s.req? r.id = some r) (hsp : r.space = none) :
    (s.answer r .ack).req? r.id = some { r with stage := .reply, reply := some .ack } := by
  simp only [State.answer, hsp]
  exact State.req?_updReq_const hr rfl

/-- An acknowledgement of a sequenced request leaves as a message, and the request goes back to its issuer (R93, R205). -/
theorem State.answer_ack_sent {s : State} {r : Req} {sp : Space} (hr : s.req? r.id = some r) (hsp : r.space = some sp) :
    (s.answer r .ack).req? r.id = some { r with stage := .toIssuer } ∧
      ∃ q ∈ (s.answer r .ack).fqueues, ∃ m ∈ q.msgs, m.body = .rep r.id .ack := by
  simp only [State.answer, hsp]
  obtain ⟨qs, n, h, hmsg⟩ := State.sendReply_ack ..
  rw [h]
  exact ⟨State.req?_updReq_const hr rfl, hmsg⟩

/-- A store of a FREE block that is next in its AG's order, at a port that is ready and in the set of frames that is visible, is performed where it
stands (R88, R90, R91, R100). -/
theorem exec_store_at_home {s u : State} {n ga : Nat} {r : Req} (hreq : s.req? n = some r) (hstage : r.stage = .home) (hkind : r.kind = .st)
    (hga : r.ga = some ga) (hnext : NextInOrder s r) (hset : r.loc = true ∨ s.parityOf r.vdr r.va = r.shadow)
    (hport : s.portReady ga r.size = .ready u) :
    exec (.memoryAccessAtHome (.req n)) s =
      .next (((u.writeKey ga (s.keyOf (gaPkg ga) r.vdr.part r.leaf) r.bytes).answer r .ack).chargeAct r.ctx 0x1000) := by
  have hfresh : s.reqStale r = false := by
    rcases hset with h | h <;> simp [State.reqStale, h]
  have hdo : s.homeReq r = s.accessAt r ga := by
    simp [State.homeReq, hstage, hkind, State.homeAccess, hga, hnext.1, hfresh, hkind ▸ hnext.2]
  have hat : s.accessAt r ga = some (((u.writeKey ga (s.keyOf (gaPkg ga) r.vdr.part r.leaf) r.bytes).answer r .ack).chargeAct r.ctx 0x1000) := by
    simp only [State.accessAt, hport, State.homeDo, hkind]
  calc exec (.memoryAccessAtHome (.req n)) s
      = execMemoryAccessAtHome (.req n) s := rfl
    _ = _ := by simp only [execMemoryAccessAtHome, hreq, hdo, hat, Option.getD_some]

/-- Settles O30: the store's bytes are written at its port under the access's key, and its answer and charge leave memory and keys alone. -/
theorem storeAtHomeWritesItsBytes : Obligations.StoreAtHomeWritesItsBytes := by
  intro s u n ga r hwf hreq hstage hkind hga hnext hset hport hmem henc
  generalize hkey : s.keyOf (gaPkg ga) r.vdr.part r.leaf = key
  have hid : r.id = n := by simpa using List.find?_some hreq
  have hlen : r.bytes.length = r.size := bytesOf_length ..
  have huwf : memWf u.mem = true := hmem ▸ hwf
  have hold (a k) : u.readKey a 1 k = s.readKey a 1 k := State.readKey_congr hwf hmem henc a 1 k
  let w := u.writeKey ga key r.bytes
  have hwwf : memWf w.mem = true := State.writeKey_wf huwf ..
  obtain ⟨hamem, haenc⟩ := w.answer_ack_frame r
  obtain ⟨hcmem, hcenc, hcreqs, hcqs⟩ := (w.answer r .ack).chargeAct_frame r.ctx 0x1000
  have hread (a m k) : ((w.answer r .ack).chargeAct r.ctx 0x1000).readKey a m k = w.readKey a m k :=
    State.readKey_congr hwwf (hcmem.trans hamem) (hcenc.trans haenc) a m k
  refine ⟨_, hkey ▸ exec_store_at_home hreq hstage hkind hga hnext hset hport, ?_, fun a ha => ?_, fun a k ha => ?_, fun hureqs => ?_⟩
  · have hback := State.readKey_writeKey huwf ga key r.bytes
    rw [hlen] at hback
    rw [hread]; exact hback
  · rw [hread, State.readKey_writeKey_ne huwf ga key r.bytes a (hlen ▸ ha), hold]
  · rw [hread, State.readKey_writeKey_unit huwf ga key r.bytes a k (by rw [hlen]; omega), hold]
  · have hwreq : w.req? r.id = some r := by
      obtain ⟨m, e, c, h⟩ := u.writeKey_eq ga key r.bytes
      rw [hid, ← hreq]
      simp only [w, h, State.req?, hureqs]
    have hfind (i) : ((w.answer r .ack).chargeAct r.ctx 0x1000).req? i = (w.answer r .ack).req? i := by rw [State.req?, hcreqs, State.req?]
    rw [hfind, hcqs, ← hid]
    exact ⟨State.req?_answer_ack_here hwreq, fun _ hsp => State.answer_ack_sent hwreq hsp⟩

end Sys2Proof.Machine
end

section
/-! PROOFS. A fault record (R4, R187): Kiln has it, its bytes stand in the partition's fault ring, and nothing else of memory changes. -/

namespace Sys2Proof.Machine

open Sys2Proof Claims

/-- The SEQ that the next record of a package takes (R187). -/
def State.nextSeq (s : State) (pkg : Pkg) : Nat :=
  match s.plat? pkg with
  | some q => q.faultSeq.toNat
  | none => 0

/-- The state in which Kiln has a record and its SEQ is taken, before the record goes to the ring. -/
def State.tellKiln (s : State) (pkg : Pkg) (part : Nat) (r : FaultRec) : State :=
  (s.updPart part (fun p => { p with faults := p.faults ++ [r] })).updPlat pkg (fun q => { q with faultSeq := q.faultSeq + 1 })

/-- A record of a partition goes to Kiln, then to the partition's ring. -/
theorem State.pushRecord_of_part {s : State} {part : Nat} {p : Partition} (hp : s.part? part = some p) (pkg : Pkg) (f : Nat → FaultRec) :
    s.pushRecord pkg part f = (s.tellKiln pkg part (f (s.nextSeq pkg))).ringWrite pkg p (f (s.nextSeq pkg)) := by
  simp only [State.pushRecord, hp]; rfl

/-- A record of no partition only takes its SEQ. -/
theorem State.pushRecord_of_no_part {s : State} {part : Nat} (hp : s.part? part = none) (pkg : Pkg) (f : Nat → FaultRec) :
    s.pushRecord pkg part f = s.tellKiln pkg part (f (s.nextSeq pkg)) := by
  simp only [State.pushRecord, hp]; rfl

/-- A ring without memory takes no bytes. -/
theorem State.ringWrite_of_no_memory (s : State) (pkg : Pkg) {p : Partition} (r : FaultRec) (h : p.ring.cap = 0) : s.ringWrite pkg p r = s := if_pos h

/-- A ring with memory takes the record's bytes and moves to its next place. -/
theorem State.ringWrite_of_memory (s : State) (pkg : Pkg) {p : Partition} (r : FaultRec) (h : p.ring.cap ≠ 0) :
    s.ringWrite pkg p r = (s.writeBytes (gaOf pkg p.ring.next) (bytesOf 64 r.bits)).updPart p.lay.part
      (fun p => { p with ring := { p.ring with wr := p.ring.wr + 1 } }) := if_neg h

/-- Whatever bytes it takes, a ring with memory changes memory with its keys and errors, and the place of the next record. -/
theorem State.ringWrite_eq (s : State) (pkg : Pkg) {p : Partition} (r : FaultRec) (h : p.ring.cap ≠ 0) :
    ∃ m e c, s.ringWrite pkg p r = ({ s with mem := m, enc := e, ecc := c } : State).updPart p.lay.part
      (fun p => { p with ring := { p.ring with wr := p.ring.wr + 1 } }) := by
  obtain ⟨m, e, c, hw⟩ := s.writeKey_eq (gaOf pkg p.ring.next) 0 (bytesOf 64 r.bits)
  exact ⟨m, e, c, by rw [State.ringWrite_of_memory _ _ _ h, State.writeBytes, hw]⟩

/-- A record changes memory, partitions and platforms alone. -/
theorem State.pushRecord_eq (s : State) (pkg : Pkg) (part : Nat) (f : Nat → FaultRec) :
    ∃ m e c ps qs, s.pushRecord pkg part f = { s with mem := m, enc := e, ecc := c, parts := ps, platforms := qs } := by
  cases hp : s.part? part with
  | none => rw [State.pushRecord_of_no_part hp]; exact ⟨s.mem, s.enc, s.ecc, _, _, rfl⟩
  | some p =>
    rw [State.pushRecord_of_part hp]
    by_cases hcap : p.ring.cap = 0
    · rw [State.ringWrite_of_no_memory _ _ _ hcap]; exact ⟨s.mem, s.enc, s.ecc, _, _, rfl⟩
    · obtain ⟨m, e, c, h⟩ := (s.tellKiln pkg part (f (s.nextSeq pkg))).ringWrite_eq pkg (f (s.nextSeq pkg)) hcap
      rw [h]; exact ⟨m, e, c, _, _, rfl⟩

/-- The partition of a record: Kiln has the record after the older ones, and a ring with memory has moved on by one. -/
theorem State.part?_pushRecord {s : State} {part : Nat} {p : Partition} (hp : s.part? part = some p) (pkg : Pkg) (f : Nat → FaultRec) :
    (s.pushRecord pkg part f).part? part = some { p with
      faults := p.faults ++ [f (s.nextSeq pkg)], ring := if p.ring.cap = 0 then p.ring else { p.ring with wr := p.ring.wr + 1 } } := by
  have htell (r : FaultRec) : (s.tellKiln pkg part r).part? part = some { p with faults := p.faults ++ [r] } := by
    show (s.updPart part _).part? part = _
    rw [State.part?_updPart, if_pos rfl, hp]; · rfl
    · exact fun _ => rfl
  have hlay : p.lay.part = part := by simpa using List.find?_some hp
  rw [State.pushRecord_of_part hp]
  by_cases hcap : p.ring.cap = 0
  · rw [State.ringWrite_of_no_memory _ _ _ hcap, htell, if_pos hcap]
  · obtain ⟨m, e, c, h⟩ := (s.tellKiln pkg part (f (s.nextSeq pkg))).ringWrite_eq pkg (f (s.nextSeq pkg)) hcap
    rw [h, hlay, State.part?_updPart, if_pos rfl, if_neg hcap]
    · show ((s.tellKiln pkg part _).part? part).map _ = _
      rw [htell]; rfl
    · exact fun _ => rfl

/-- The package of a record counts its SEQ. -/
theorem State.plat?_pushRecord (s : State) (pkg : Pkg) (part : Nat) (f : Nat → FaultRec) :
    (s.pushRecord pkg part f).plat? pkg = (s.plat? pkg).map (fun q => { q with faultSeq := q.faultSeq + 1 }) := by
  have htell (r : FaultRec) : (s.tellKiln pkg part r).plat? pkg = (s.plat? pkg).map (fun q => { q with faultSeq := q.faultSeq + 1 }) := by
    rw [State.tellKiln, State.plat?_updPlat, if_pos rfl]; · rfl
    · exact fun _ => rfl
  cases hp : s.part? part with
  | none => rw [State.pushRecord_of_no_part hp, htell]
  | some p =>
    rw [State.pushRecord_of_part hp]
    by_cases hcap : p.ring.cap = 0
    · rw [State.ringWrite_of_no_memory _ _ _ hcap, htell]
    · obtain ⟨m, e, c, h⟩ := (s.tellKiln pkg part (f (s.nextSeq pkg))).ringWrite_eq pkg (f (s.nextSeq pkg)) hcap
      rw [h]
      exact htell _

/-- Without a ring that has memory a record changes no byte. -/
theorem State.pushRecord_of_no_memory {s : State} {part : Nat} (h : ∀ p, s.part? part = some p → p.ring.cap = 0) (pkg : Pkg) (f : Nat → FaultRec) :
    (s.pushRecord pkg part f).mem = s.mem ∧ (s.pushRecord pkg part f).enc = s.enc := by
  cases hp : s.part? part with
  | none => rw [State.pushRecord_of_no_part hp]; exact ⟨rfl, rfl⟩
  | some p => rw [State.pushRecord_of_part hp, State.ringWrite_of_no_memory _ _ _ (h p hp)]; exact ⟨rfl, rfl⟩

/-- In a ring that has memory a record stands as its 64 bytes at the ring's next place, and every other byte is as it was. -/
theorem State.pushRecord_of_memory {s : State} {part : Nat} {p : Partition} (hwf : memWf s.mem = true) (hp : s.part? part = some p)
    (hcap : p.ring.cap ≠ 0) (pkg : Pkg) (f : Nat → FaultRec) :
    memWf (s.pushRecord pkg part f).mem = true ∧
      (s.pushRecord pkg part f).readBytes (gaOf pkg p.ring.next) 64 = bytesOf 64 (f (s.nextSeq pkg)).bits ∧
      ∀ a, (a < gaOf pkg p.ring.next ∨ gaOf pkg p.ring.next + 64 ≤ a) → memRead (s.pushRecord pkg part f).mem a = memRead s.mem a := by
  generalize hbs : bytesOf 64 (f (s.nextSeq pkg)).bits = bs
  have hlen : bs.length = 64 := hbs ▸ bytesOf_length ..
  have hunit : gaOf pkg p.ring.next % 32 = 0 := by simp only [gaOf, FaultRing.next]; omega
  generalize hat : gaOf pkg p.ring.next = at_ at hunit
  have huwf : memWf (s.tellKiln pkg part (f (s.nextSeq pkg))).mem = true := hwf
  have hwwf := State.writeKey_wf huwf at_ 0 bs
  rw [State.pushRecord_of_part hp, State.ringWrite_of_memory _ _ _ hcap, hat, hbs]
  refine ⟨hwwf, ?_, fun a ha => ?_⟩
  · have hback := State.readKey_writeKey huwf at_ 0 bs
    rw [hlen] at hback
    exact (State.readKey_congr hwwf (State.updPart_mem ..) (State.updPart_enc ..) at_ 64 0).trans hback
  · exact State.memRead_writeKey_unit huwf at_ 0 bs (by omega)

/-- A record stands in its partition's ring and among those that Kiln has. -/
theorem recordsStandInTheRing : RecordsStandInTheRing := by
  intro s pkg part f p q hwf hp hq
  have hseq : s.nextSeq pkg = q.faultSeq.toNat := by simp only [State.nextSeq, hq]
  have hpart := State.part?_pushRecord hp pkg f
  rw [hseq] at hpart
  dsimp only
  rw [hpart]
  refine ⟨rfl, by rw [State.plat?_pushRecord, hq]; rfl, fun hcap => ?_, fun hcap => ?_⟩
  · exact (State.pushRecord_of_no_memory (fun p' hp' => by rw [hp] at hp'; cases hp'; exact hcap) pkg f).1
  · obtain ⟨-, hread, hout⟩ := State.pushRecord_of_memory hwf hp hcap pkg f
    rw [hseq] at hread
    exact ⟨hread, by rw [if_neg hcap]; rfl, hout⟩

end Sys2Proof.Machine
end

section
/-! PROOFS. What the taking of a fault is made of (R30, R179, R180, R187): changes of the instruction's bent that add to its rows and its spill area, and
records of its partition. -/

namespace Sys2Proof.Machine

open Sys2Proof Claims

/-! ## What grows -/

/-- An element of which a fault may have kept tokens in rows of their own, with its flags, warnings and other tokens as they were. -/
structure Elem.Grows (e e' : Elem) : Prop where
  rows : e.rows <+: e'.rows
  flags : e'.flags = e.flags
  warn : e'.warn = e.warn
  ready : e'.ready = e.ready
  link : e'.link = e.link

/-- The timestamps in a bent's commit windows, by which the oldest activation of a timeline is told (R42, R47). -/
def Bent.stamps (b : Bent) : List (List Nat) := b.timelines.map (fun t => t.win.map (·.ts))

/-- A bent of which a fault may have kept tokens, in rows of one element or in the spill area, with the same activations in its windows. -/
structure Bent.Grows (cx cy : Nat) (b b' : Bent) : Prop where
  elem : ∀ e, b.elem? cx cy = some e → ∃ e', b'.elem? cx cy = some e' ∧ e.Grows e'
  spill : b.spill <+: b'.spill
  stamps : b'.stamps = b.stamps

theorem Elem.Grows.refl (e : Elem) : e.Grows e := ⟨List.prefix_refl _, rfl, rfl, rfl, rfl⟩

theorem Elem.Grows.trans {e e' e'' : Elem} (h : e.Grows e') (k : e'.Grows e'') : e.Grows e'' :=
  ⟨h.rows.trans k.rows, k.flags.trans h.flags, k.warn.trans h.warn, k.ready.trans h.ready, k.link.trans h.link⟩

theorem Bent.Grows.trans {cx cy : Nat} {b b' b'' : Bent} (h : b.Grows cx cy b') (k : b'.Grows cx cy b'') : b.Grows cx cy b'' where
  elem e he := by
    obtain ⟨e', he', hg⟩ := h.elem e he
    obtain ⟨e'', he'', hg'⟩ := k.elem e' he'
    exact ⟨e'', he'', hg.trans hg'⟩
  spill := h.spill.trans k.spill
  stamps := k.stamps.trans h.stamps

/-- A bent that keeps its elements and its windows and may have more in its spill area. -/
theorem Bent.Grows.of_spill {b b' : Bent} (cx cy : Nat) (he : b'.elems = b.elems) (hs : b.spill <+: b'.spill) (ht : b'.timelines = b.timelines) :
    b.Grows cx cy b' where
  elem e h := ⟨e, by simpa only [Bent.elem?, he] using h, .refl e⟩
  spill := hs
  stamps := by simp only [Bent.stamps, ht]

theorem Bent.Grows.refl (cx cy : Nat) (b : Bent) : b.Grows cx cy b := .of_spill cx cy rfl (List.prefix_refl _) rfl

/-- The element of a bent after a change of that element's rows. -/
theorem Bent.elem?_pushRow {b : Bent} {cx cy : Nat} {e : Elem} (he : b.elem? cx cy = some e) (w : WaitTok) :
    ({ b with elems := updIf b.elems (fun e => e.cx == cx && e.cy == cy) (fun e => { e with rows := e.rows ++ [w] }) } : Bent).elem? cx cy =
      some { e with rows := e.rows ++ [w] } := by
  have hkey := List.find?_some he
  simp only [Bent.elem?] at he ⊢
  rw [find?_updIf _ _ _ _ (fun _ => by rfl), he, Option.map_some, if_pos hkey]

/-! ## The steps of a fault -/

/-- The states that changes of a bent under which it grows, and records of its partition, lead to. -/
inductive FaultSteps (br : BentRef) (cx cy : Nat) (s : State) : State → Prop
  | refl : FaultSteps br cx cy s s
  | bent {t : State} (f : Bent → Bent) (hf : ∀ b : Bent, b.Grows cx cy (f b)) : FaultSteps br cx cy s t → FaultSteps br cx cy s (t.updBent br f)
  | record {t : State} (pkg : Pkg) (f : Nat → FaultRec) : FaultSteps br cx cy s t →
      FaultSteps br cx cy s (t.pushRecord pkg (t.vdOf br.rid).part f)

namespace FaultSteps

variable {br : BentRef} {cx cy : Nat} {s t u : State}

theorem trans (h : FaultSteps br cx cy s t) (k : FaultSteps br cx cy t u) : FaultSteps br cx cy s u := by
  induction k with
  | refl => exact h
  | bent f hf _ ih => exact .bent f hf ih
  | record pkg f _ ih => exact .record pkg f ih

/-- Presence bits, requests, queues, semaphores and virtual devices are as they were. -/
theorem frame (h : FaultSteps br cx cy s t) :
    t.presence = s.presence ∧ t.reqs = s.reqs ∧ t.queues = s.queues ∧ t.sems = s.sems ∧ t.vdevs = s.vdevs := by
  induction h with
  | refl => exact ⟨rfl, rfl, rfl, rfl, rfl⟩
  | bent f hf _ ih => exact ih
  | @record t pkg f _ ih =>
    obtain ⟨_, _, _, _, _, h⟩ := t.pushRecord_eq pkg (t.vdOf br.rid).part f
    rw [h]; exact ih

/-- The raising keeps its virtual device and its blocks. -/
theorem raising? (h : FaultSteps br cx cy s t) :
    (t.raising? br.rid).map (fun r => (r.vdr, r.blocks)) = (s.raising? br.rid).map (fun r => (r.vdr, r.blocks)) := by
  induction h with
  | refl => rfl
  | @bent t f hf _ ih =>
    rw [← ih, State.updBent, State.raising?_updRaising, if_pos rfl, Option.map_map]
    · rfl
    · exact fun _ => rfl
  | @record t pkg f _ ih =>
    obtain ⟨_, _, _, _, _, h⟩ := t.pushRecord_eq pkg (t.vdOf br.rid).part f
    rw [h]; exact ih

theorem vdOf (h : FaultSteps br cx cy s t) : t.vdOf br.rid = s.vdOf br.rid := by
  have hr := h.raising?
  simp only [State.vdOf]
  cases ht : t.raising? br.rid <;> cases hs : s.raising? br.rid <;> simp_all

theorem block? (h : FaultSteps br cx cy s t) (blk : Nat) : t.block? br.rid blk = s.block? br.rid blk := by
  have hr := h.raising?
  simp only [State.block?]
  cases ht : t.raising? br.rid <;> cases hs : s.raising? br.rid <;> simp_all

/-- The bent has grown. -/
theorem bent? (h : FaultSteps br cx cy s t) {b : Bent} (hb : s.bent? br = some b) : ∃ b', t.bent? br = some b' ∧ b.Grows cx cy b' := by
  induction h with
  | refl => exact ⟨b, hb, .refl cx cy b⟩
  | bent f hf _ ih =>
    obtain ⟨b', hb', hg⟩ := ih
    exact ⟨f b', by rw [State.bent?_updBent, if_pos rfl, hb']; rfl, hg.trans (hf b')⟩
  | @record t pkg f _ ih =>
    obtain ⟨_, _, _, _, _, h⟩ := t.pushRecord_eq pkg (t.vdOf br.rid).part f
    rw [h]; exact ih

/-- A firing is the oldest of its timeline before and after. -/
theorem isOldest (h : FaultSteps br cx cy s t) {b : Bent} (hb : s.bent? br = some b) {c : Ctx} (hc : c.br = br) : t.isOldest c = s.isOldest c := by
  subst hc
  obtain ⟨b', hb', hg⟩ := h.bent? hb
  have htl : t.ctxTl c = s.ctxTl c := by rw [State.ctxTl, State.ctxTl, State.isOrdered, State.isOrdered, h.block?]
  have hat (tl : Nat) : (b'.timelines[tl]?).map (fun t => t.win.map (·.ts)) = (b.timelines[tl]?).map (fun t => t.win.map (·.ts)) := by
    simp only [← List.getElem?_map]
    exact congrArg (·[tl]?) hg.stamps
  simp only [State.isOldest, htl, hb, hb']
  cases s.ctxTl c with
  | none => rfl
  | some tl =>
    have hwin := hat tl
    cases hT : b'.timelines[tl]? with
    | none =>
      rw [hT, Option.map_none, eq_comm, Option.map_eq_none_iff] at hwin
      simp only [hT, hwin]
    | some x =>
      rw [hT, Option.map_some, eq_comm, Option.map_eq_some_iff] at hwin
      obtain ⟨y, hy, hts⟩ := hwin
      simp only [hT, hy]
      cases hX : x.win <;> cases hY : y.win <;> simp_all

end FaultSteps

/-! ## The fault rings -/

/-- Where a partition's fault ring stands. -/
def Partition.ringPlace (p : Partition) : Nat × Nat × Nat := (p.lay.part, p.ring.base, p.ring.cap)

theorem inFaultRing_iff (s : State) (a : Nat) : InFaultRing s a ↔ ∃ x ∈ s.parts.map Partition.ringPlace, ∃ k : Pkg,
    gaOf k (x.2.1 / 64 * 64) ≤ a ∧ a < gaOf k (x.2.1 / 64 * 64) + 64 * x.2.2 := by
  constructor
  · rintro ⟨p, hp, k, hlo, hhi⟩
    exact ⟨p.ringPlace, List.mem_map_of_mem hp, k, hlo, hhi⟩
  · rintro ⟨x, hx, k, hlo, hhi⟩
    obtain ⟨p, hp, rfl⟩ := List.mem_map.1 hx
    exact ⟨p, hp, k, hlo, hhi⟩

/-- The next place of a ring that has memory lies in the ring. -/
theorem inFaultRing_next {s : State} {part : Nat} {p : Partition} (hp : s.part? part = some p) (hcap : p.ring.cap ≠ 0) (pkg : Pkg) {a : Nat}
    (h : gaOf pkg p.ring.next ≤ a ∧ a < gaOf pkg p.ring.next + 64) : InFaultRing s a := by
  have hmod : p.ring.wr % p.ring.cap < p.ring.cap := Nat.mod_lt _ (Nat.pos_of_ne_zero hcap)
  refine ⟨p, List.mem_of_find?_eq_some hp, pkg, ?_⟩
  simp only [gaOf, FaultRing.next] at h ⊢
  omega

/-- A record moves no fault ring. -/
theorem State.ringPlaces_pushRecord (s : State) (pkg : Pkg) (part : Nat) (f : Nat → FaultRec) :
    (s.pushRecord pkg part f).parts.map Partition.ringPlace = s.parts.map Partition.ringPlace := by
  have htell (r : FaultRec) : (s.tellKiln pkg part r).parts.map Partition.ringPlace = s.parts.map Partition.ringPlace :=
    updIf_map_eq _ _ _ _ fun _ => rfl
  cases hp : s.part? part with
  | none => rw [State.pushRecord_of_no_part hp, htell]
  | some p =>
    rw [State.pushRecord_of_part hp]
    by_cases hcap : p.ring.cap = 0
    · rw [State.ringWrite_of_no_memory _ _ _ hcap, htell]
    · obtain ⟨m, e, c, h⟩ := (s.tellKiln pkg part (f (s.nextSeq pkg))).ringWrite_eq pkg (f (s.nextSeq pkg)) hcap
      rw [h, ← htell (f (s.nextSeq pkg))]
      exact updIf_map_eq _ _ _ _ fun _ => rfl

/-- A record keeps the form of memory and every byte outside the fault rings. -/
theorem State.pushRecord_keepsMemory (s : State) (hwf : memWf s.mem = true) (pkg : Pkg) (part : Nat) (f : Nat → FaultRec) :
    memWf (s.pushRecord pkg part f).mem = true ∧ ∀ a, ¬ InFaultRing s a → memRead (s.pushRecord pkg part f).mem a = memRead s.mem a := by
  by_cases hring : ∃ p, s.part? part = some p ∧ p.ring.cap ≠ 0
  · obtain ⟨p, hp, hcap⟩ := hring
    obtain ⟨hwf', -, hout⟩ := State.pushRecord_of_memory hwf hp hcap pkg f
    have houtside (a : Nat) (ha : ¬ InFaultRing s a) : a < gaOf pkg p.ring.next ∨ gaOf pkg p.ring.next + 64 ≤ a := by
      have hnot : ¬ (gaOf pkg p.ring.next ≤ a ∧ a < gaOf pkg p.ring.next + 64) := fun hin => ha (inFaultRing_next hp hcap pkg hin)
      omega
    exact ⟨hwf', fun a ha => hout a (houtside a ha)⟩
  · have hnone (p : Partition) (hp : s.part? part = some p) : p.ring.cap = 0 := Decidable.not_not.1 fun hcap => hring ⟨p, hp, hcap⟩
    rw [(State.pushRecord_of_no_memory hnone pkg f).1]
    exact ⟨hwf, fun _ _ => rfl⟩

namespace FaultSteps

variable {br : BentRef} {cx cy : Nat} {s t : State}

/-- The fault rings stand where they stood. -/
theorem ringPlaces (h : FaultSteps br cx cy s t) : t.parts.map Partition.ringPlace = s.parts.map Partition.ringPlace := by
  induction h with
  | refl => rfl
  | bent f hf _ ih => exact ih
  | @record t pkg f _ ih => rw [State.ringPlaces_pushRecord, ih]

/-- Memory keeps its form and every byte outside the fault rings. -/
theorem wf_and_keepsMemory (h : FaultSteps br cx cy s t) (hwf : memWf s.mem = true) :
    memWf t.mem = true ∧ ∀ a, ¬ InFaultRing s a → memRead t.mem a = memRead s.mem a := by
  induction h with
  | refl => exact ⟨hwf, fun _ _ => rfl⟩
  | bent f hf _ ih => exact ih
  | @record t pkg f h ih =>
    obtain ⟨hwf', hout⟩ := t.pushRecord_keepsMemory ih.1 pkg (t.vdOf br.rid).part f
    refine ⟨hwf', fun a ha => (hout a ?_).trans (ih.2 a ha)⟩
    rwa [inFaultRing_iff, h.ringPlaces, ← inFaultRing_iff]

/-- The partition keeps its records, and where its ring stands; new records stand behind the older ones. -/
theorem part? (h : FaultSteps br cx cy s t) {p : Partition} (hp : s.part? (s.vdOf br.rid).part = some p) :
    ∃ p' more, t.part? (s.vdOf br.rid).part = some p' ∧ p'.ring.cap = p.ring.cap ∧ p'.faults = p.faults ++ more := by
  induction h with
  | refl => exact ⟨p, [], hp, rfl, (List.append_nil _).symm⟩
  | bent f hf _ ih => exact ih
  | @record t pkg f h ih =>
    obtain ⟨p', more, hp', hcap, hf⟩ := ih
    rw [h.vdOf]
    refine ⟨_, more ++ [f (t.nextSeq pkg)], State.part?_pushRecord hp' pkg f, ?_, ?_⟩
    · dsimp only; split <;> exact hcap
    · dsimp only; rw [hf, List.append_assoc]

/-- With no memory in the partition's ring nothing of memory changes. -/
theorem mem_of_no_memory (h : FaultSteps br cx cy s t) {p : Partition} (hp : s.part? (s.vdOf br.rid).part = some p) (hcap : p.ring.cap = 0) :
    t.mem = s.mem ∧ t.enc = s.enc := by
  induction h with
  | refl => exact ⟨rfl, rfl⟩
  | bent f hf _ ih => exact ih
  | @record t pkg f h ih =>
    obtain ⟨p', _, hp', hcap', _⟩ := h.part? hp
    have hno : ∀ q, t.part? (t.vdOf br.rid).part = some q → q.ring.cap = 0 := by
      intro q hq
      rw [h.vdOf, hp'] at hq
      cases hq
      exact hcap'.trans hcap
    obtain ⟨hm, he⟩ := State.pushRecord_of_no_memory hno pkg f
    exact ⟨hm.trans ih.1, he.trans ih.2⟩

end FaultSteps

end Sys2Proof.Machine
end

section
/-! PROOFS. Taking a fault (R30, R179, R180, R187): its operands are kept, its tag is frozen, and its record is written, each by the steps above. -/

namespace Sys2Proof.Machine

open Sys2Proof Claims

/-! ## The parts of taking a fault are such steps -/

theorem FaultSteps.of_updBent {br : BentRef} {cx cy : Nat} (s : State) (f : Bent → Bent) (hf : ∀ b : Bent, b.Grows cx cy (f b)) :
    FaultSteps br cx cy s (s.updBent br f) := .bent f hf .refl

theorem State.recordAt_steps (s : State) (br : BentRef) (cx cy : Nat) (pl : FaultPlace) (blk slot port : Nat) (tag : Tag) (i : FaultInfo) (refc : Nat)
    (ctr : Nat × Nat × Nat × Nat × Nat) : FaultSteps br cx cy s (s.recordAt br pl blk slot port tag i refc ctr) := by
  unfold State.recordAt
  split
  · exact .record _ _ .refl
  · exact .refl

/-- Counting a refault adds to no row and to no spill area. -/
theorem State.countRefault_steps (s : State) (br : BentRef) (cx cy refc : Nat) (cause : Cause) :
    FaultSteps br cx cy s (s.countRefault br refc cause) := by
  unfold State.countRefault
  split
  · exact .refl
  · exact .of_updBent s _ fun b => .of_spill cx cy rfl (List.prefix_refl _) rfl

/-- Noting frozen work adds to no row and to no spill area. -/
theorem Bent.grows_setFrozen (b : Bent) (cx cy : Nat) (u : UnitLoc) (f : Frozen) : b.Grows cx cy (b.setFrozen u f) :=
  .of_spill cx cy rfl (List.prefix_refl _) rfl

/-- Changing the window entry of a firing, but not its timestamp, leaves the windows' timestamps. -/
theorem State.updEntry_steps (s : State) (c : Ctx) (cx cy : Nat) (f : WinEntry → WinEntry) (hf : ∀ e, (f e).ts = e.ts) :
    FaultSteps c.br cx cy s (s.updEntry c f) := by
  obtain h | ⟨tl, h⟩ := s.updEntry_eq c f
  · rw [h]; exact .refl
  · rw [h]
    refine .of_updBent s _ fun b => ⟨fun e he => ⟨e, he, .refl e⟩, List.prefix_refl _, ?_⟩
    exact modify_map_eq _ _ _ _ fun t => updIf_map_eq _ _ _ _ hf

/-! ## Kept tokens -/

/-- A waiting token stands in a row of an element or in the spill area of its bent. -/
def State.Keeps (s : State) (br : BentRef) (cx cy : Nat) (w : WaitTok) : Prop :=
  ∃ b e, s.bent? br = some b ∧ b.elem? cx cy = some e ∧ w ∈ e.rows ++ b.spill

/-- A token that is kept stays kept. -/
theorem FaultSteps.keeps {br : BentRef} {cx cy : Nat} {s t : State} (h : FaultSteps br cx cy s t) {w : WaitTok} (hw : s.Keeps br cx cy w) :
    t.Keeps br cx cy w := by
  obtain ⟨b, e, hb, he, hw⟩ := hw
  obtain ⟨b', hb', hg⟩ := h.bent? hb
  obtain ⟨e', he', hge⟩ := hg.elem e he
  refine ⟨b', e', hb', he', ?_⟩
  rw [List.mem_append] at hw ⊢
  exact hw.imp (fun h => hge.rows.subset h) (fun h => hg.spill.subset h)

/-- A token that a bent has just taken into its spill area is kept. -/
theorem State.keeps_updBent_spill {s : State} {br : BentRef} {cx cy : Nat} {b : Bent} {e : Elem} (hb : s.bent? br = some b)
    (he : b.elem? cx cy = some e) {w : WaitTok} (f : Bent → Bent) (hes : (f b).elems = b.elems) (hsp : (f b).spill = b.spill ++ [w]) :
    (s.updBent br f).Keeps br cx cy w := by
  refine ⟨f b, e, by rw [State.bent?_updBent, if_pos rfl, hb]; rfl, by simpa only [Bent.elem?, hes] using he, ?_⟩
  simp [hsp]

/-- A token put into a row of its element is kept. -/
theorem State.pushRow_steps {s : State} {br : BentRef} {cx cy : Nat} {b : Bent} {e : Elem} (hb : s.bent? br = some b)
    (he : b.elem? cx cy = some e) (w : WaitTok) :
    FaultSteps br cx cy s (s.pushRow br (.elem cx cy) w) ∧ (s.pushRow br (.elem cx cy) w).Keeps br cx cy w := by
  refine ⟨.of_updBent s _ fun b => ⟨fun e he => ?_, List.prefix_refl _, rfl⟩, ?_⟩
  · exact ⟨_, Bent.elem?_pushRow he w, ⟨List.prefix_append _ _, rfl, rfl, rfl, rfl⟩⟩
  · exact ⟨_, _, by rw [State.pushRow, State.updElem, State.bent?_updBent, if_pos rfl, hb]; rfl, Bent.elem?_pushRow he w, by simp⟩

/-- A token put into the spill area of its bent is kept, whether or not that stops the bent (R36, R38). -/
theorem State.spillTok_steps {s : State} {br : BentRef} {cx cy : Nat} {b : Bent} {e : Elem} (hb : s.bent? br = some b)
    (he : b.elem? cx cy = some e) (u : UnitLoc) (w : WaitTok) :
    FaultSteps br cx cy s (s.spillTok br u w) ∧ (s.spillTok br u w).Keeps br cx cy w := by
  simp only [State.spillTok, hb]
  split
  · exact ⟨.of_updBent s _ fun b => .of_spill cx cy rfl (List.prefix_append _ _) rfl, State.keeps_updBent_spill hb he _ rfl rfl⟩
  · generalize hf : (fun b : Bent => { b.stopClock s.now with spill := b.spill ++ [w], spillCnt := satInc b.spillCnt, frozen := true }) = f
    have hsteps : FaultSteps br cx cy s (s.updBent br f) :=
      .of_updBent s _ fun b => hf ▸ .of_spill cx cy rfl (List.prefix_append _ _) rfl
    have hkeeps : (s.updBent br f).Keeps br cx cy w := State.keeps_updBent_spill hb he f (hf ▸ rfl) (hf ▸ rfl)
    split
    · exact ⟨hsteps, hkeeps⟩
    · have hrec := (s.updBent br f).recordAt_steps br cx cy u.place w.blk w.slot 0 w.tok.tag { cause := .spillExhausted } 0 (0, 0, 0, 0, 0)
      exact ⟨hsteps.trans hrec, hrec.keeps hkeeps⟩

/-- An operand that is put back is kept (R30, R35, R36). -/
theorem State.keepTok_steps {s : State} {br : BentRef} {cx cy : Nat} {b : Bent} {e : Elem} (hb : s.bent? br = some b)
    (he : b.elem? cx cy = some e) (w : WaitTok) :
    FaultSteps br cx cy s (s.keepTok br (.elem cx cy) w) ∧ (s.keepTok br (.elem cx cy) w).Keeps br cx cy w := by
  unfold State.keepTok
  split
  · exact State.pushRow_steps hb he w
  · exact State.spillTok_steps hb he (.elem cx cy) w

/-- All operands of a firing are kept, with the mark given (R30). -/
theorem State.keepOperands_steps {s : State} {c : Ctx} {cx cy : Nat} {b : Bent} {e : Elem} (hb : s.bent? c.br = some b)
    (he : b.elem? cx cy = some e) (hu : c.u = .elem cx cy) (frozen : Bool) :
    FaultSteps c.br cx cy s (s.keepOperands c frozen) ∧
      ∀ w ∈ c.a.toList ++ c.b.toList ++ c.p.toList, (s.keepOperands c frozen).Keeps c.br cx cy { w with frozen := frozen } := by
  unfold State.keepOperands
  rw [hu]
  generalize c.a.toList ++ c.b.toList ++ c.p.toList = ws
  induction ws generalizing s b e with
  | nil => exact ⟨.refl, by simp⟩
  | cons w ws ih =>
    obtain ⟨hone, hkept⟩ := State.keepTok_steps hb he { w with frozen := frozen }
    obtain ⟨b', hb', hg⟩ := hone.bent? hb
    obtain ⟨e', he', -⟩ := hg.elem e he
    obtain ⟨hrest, hall⟩ := ih hb' he'
    rw [List.foldl_cons]
    refine ⟨hone.trans hrest, ?_⟩
    rintro x (_ | ⟨_, hx⟩)
    · exact hrest.keeps hkept
    · exact hall x hx

end Sys2Proof.Machine
end

section
/-! PROOFS. A fault freezes its tag and reports it (R30, R47, R179, R180, R187). -/

namespace Sys2Proof.Machine

open Sys2Proof Claims

/-- The information with which a fault of a firing is noted and reported: the port that fired, and REFAULT_LOOP after sixteen refaults (R180, R187). -/
def Ctx.reported (c : Ctx) (i : FaultInfo) (refc : Nat) : FaultInfo :=
  if 16 ≤ refc then { i with port := c.portCode, cause := .refaultLoop } else { i with port := c.portCode }

@[simp] theorem Ctx.reported_cause (c : Ctx) (i : FaultInfo) (refc : Nat) :
    (c.reported i refc).cause = if 16 ≤ refc then .refaultLoop else i.cause := by unfold Ctx.reported; split <;> rfl
@[simp] theorem Ctx.reported_port (c : Ctx) (i : FaultInfo) (refc : Nat) : (c.reported i refc).port = c.portCode := by
  unfold Ctx.reported; split <;> rfl
@[simp] theorem Ctx.reported_addr (c : Ctx) (i : FaultInfo) (refc : Nat) : (c.reported i refc).addr = i.addr := by
  unfold Ctx.reported; split <;> rfl
@[simp] theorem Ctx.reported_wr (c : Ctx) (i : FaultInfo) (refc : Nat) : (c.reported i refc).wr = i.wr := by
  unfold Ctx.reported; split <;> rfl
@[simp] theorem Ctx.reported_aux (c : Ctx) (i : FaultInfo) (refc : Nat) : (c.reported i refc).aux = i.aux := by
  unfold Ctx.reported; split <;> rfl

/-- The record of a fault of a firing, of a raising of the virtual device given (R187). -/
def Ctx.faultRec (c : Ctx) (v : VdRef) (i : FaultInfo) (refc cycle seq : Nat) : FaultRec :=
  { cause := i.cause.code, part := v.part, vdid := v.vd, bent := c.br.bent, raiseid := c.br.rid, ecx := c.u.place.ecx, ecy := c.u.place.ecy,
    eng := c.u.place.eng, unit := c.u.place.unit, blk := c.blk, slot := c.slot, port := Nat.max 0 i.port, tag := c.tag, addr := i.addr,
    level := i.level, wr := i.wr, park := i.park, j := i.j, refc := refc, fire := 0, sub := 0, grp := 0, kstep := 0, acc := 0, seq := seq,
    aux := i.aux, cycle := cycle }

theorem State.record_eq {s : State} {c : Ctx} {b : Bent} (hb : s.bent? c.br = some b) (i : FaultInfo) (refc : Nat) :
    s.record c.br c.u c.blk c.slot c.tag i refc =
      s.pushRecord b.pkg (s.vdOf c.br.rid).part (c.faultRec (s.vdOf c.br.rid) i refc (b.cycles s.now)) := by
  simp only [State.record, State.recordAt, hb]; rfl

/-- The frozen work of a firing. -/
def Ctx.frozenWork (c : Ctx) (i : FaultInfo) (refc : Nat) (held : Bool) : Frozen :=
  { blk := c.blk, slot := c.slot, tag := c.tag, info := c.reported i refc, refc := refc, held := held, work := none }

/-- The state of a fault that is noted, before the Sill holds it or its record is written. -/
def State.noteFault (s : State) (c : Ctx) (i : FaultInfo) (refc : Nat) (held : Bool) : State :=
  ((s.countRefault c.br refc i.cause).keepOperands c true).updBent c.br (fun b => b.setFrozen c.u (c.frozenWork i refc held))

/-- The frozen work of a tag is what was last noted of it. -/
theorem Bent.frozen?_setFrozen (b : Bent) (u : UnitLoc) (f : Frozen) : (b.setFrozen u f).frozen? u f.blk f.slot f.tag = some f := by
  have hold : (b.frozenTags.filter (fun g => !(g.1 == u && g.2.blk == f.blk && g.2.slot == f.slot && g.2.tag == f.tag))).find?
      (fun g => g.1 == u && g.2.blk == f.blk && g.2.slot == f.slot && g.2.tag == f.tag) = none := by
    rw [List.find?_eq_none]
    intro g hg
    simpa only [Bool.not_eq_true', Bool.not_eq_true] using (List.mem_filter.1 hg).2
  simp only [Bent.frozen?, Bent.setFrozen, List.find?_append, hold]
  simp

/-- A record leaves every bent as it is. -/
theorem State.bent?_recordAt (s : State) (br br' : BentRef) (pl : FaultPlace) (blk slot port : Nat) (tag : Tag) (i : FaultInfo) (refc : Nat)
    (ctr : Nat × Nat × Nat × Nat × Nat) : (s.recordAt br pl blk slot port tag i refc ctr).bent? br' = s.bent? br' := by
  unfold State.recordAt
  split
  · obtain ⟨_, _, _, _, _, h⟩ := State.pushRecord_eq ..
    rw [h]; rfl
  · rfl

/-- Changing a window entry leaves the frozen work of the bent. -/
theorem State.frozenTags_updEntry {s : State} {c : Ctx} {b : Bent} (hb : s.bent? c.br = some b) (f : WinEntry → WinEntry) :
    ∃ b', (s.updEntry c f).bent? c.br = some b' ∧ b'.frozenTags = b.frozenTags := by
  obtain h | ⟨tl, h⟩ := s.updEntry_eq c f
  · exact ⟨b, by rw [h, hb], rfl⟩
  · exact ⟨{ b with timelines := b.timelines.modify tl (fun t => t.updEntry c.tag f) },
      by rw [h, State.updTl, State.bent?_updBent, if_pos rfl, hb]; rfl, rfl⟩

section

variable {s : State} {c : Ctx} {cx cy : Nat} {b : Bent} {e : Elem} (hb : s.bent? c.br = some b) (he : b.elem? cx cy = some e)
  (hu : c.u = .elem cx cy)

include hb he hu

/-- The refault is counted and the operands are kept, each with its mark. -/
theorem State.countAndKeep_steps (refc : Nat) (cause : Cause) :
    FaultSteps c.br cx cy s ((s.countRefault c.br refc cause).keepOperands c true) ∧
      ∀ w ∈ c.a.toList ++ c.b.toList ++ c.p.toList,
        ((s.countRefault c.br refc cause).keepOperands c true).Keeps c.br cx cy { w with frozen := true } := by
  have hcount := s.countRefault_steps c.br cx cy refc cause
  obtain ⟨b1, hb1, hg⟩ := hcount.bent? hb
  obtain ⟨e1, he1, -⟩ := hg.elem e he
  obtain ⟨hkeep, hkept⟩ := State.keepOperands_steps hb1 he1 hu true
  exact ⟨hcount.trans hkeep, hkept⟩

/-- Noting a fault keeps every operand with its mark, and freezes the tag. -/
theorem State.noteFault_steps (i : FaultInfo) (refc : Nat) (held : Bool) :
    FaultSteps c.br cx cy s (s.noteFault c i refc held) ∧
      (∀ w ∈ c.a.toList ++ c.b.toList ++ c.p.toList, (s.noteFault c i refc held).Keeps c.br cx cy { w with frozen := true }) ∧
      ∃ b', (s.noteFault c i refc held).bent? c.br = some b' ∧ b'.frozen? c.u c.blk c.slot c.tag = some (c.frozenWork i refc held) := by
  obtain ⟨hkeep, hkept⟩ := State.countAndKeep_steps hb he hu refc i.cause
  obtain ⟨b', hb', -⟩ := hkeep.bent? hb
  have hset : FaultSteps c.br cx cy _ (s.noteFault c i refc held) :=
    .of_updBent _ _ fun b => b.grows_setFrozen cx cy c.u (c.frozenWork i refc held)
  exact ⟨hkeep.trans hset, fun w hw => hset.keeps (hkept w hw),
    _, by rw [State.noteFault, State.bent?_updBent, if_pos rfl, hb']; rfl, b'.frozen?_setFrozen c.u (c.frozenWork i refc held)⟩

/-- A fault is noted, and then its record is written, or the Sill holds it in an activation that is not the oldest (R47). -/
theorem State.takeFault_eq (i : FaultInfo) (refc : Nat) :
    s.takeFault c i refc =
      if s.isOldest c then (s.noteFault c i refc false).record c.br c.u c.blk c.slot c.tag (c.reported i refc) refc
      else (s.noteFault c i refc true).updEntry c (fun e => { e with faults := e.faults ++ [(c.reported i refc, c.blk, c.slot)] }) := by
  have hold := (State.countAndKeep_steps hb he hu refc i.cause).1.isOldest hb rfl
  have hrep : (if 16 ≤ refc then { ({ i with port := c.portCode } : FaultInfo) with cause := .refaultLoop } else { i with port := c.portCode }) =
      c.reported i refc := rfl
  simp only [State.takeFault, hold, hrep]
  cases s.isOldest c <;> rfl

/-- Taking a fault is made of the steps above; it keeps every operand with its mark, and freezes the tag. -/
theorem State.takeFault_steps (i : FaultInfo) (refc : Nat) :
    FaultSteps c.br cx cy s (s.takeFault c i refc) ∧
      (∀ w ∈ c.a.toList ++ c.b.toList ++ c.p.toList, (s.takeFault c i refc).Keeps c.br cx cy { w with frozen := true }) ∧
      ∃ b', (s.takeFault c i refc).bent? c.br = some b' ∧
        b'.frozen? c.u c.blk c.slot c.tag = some (c.frozenWork i refc (!s.isOldest c)) := by
  obtain ⟨hnote, hkept, b', hb', hfrozen⟩ := State.noteFault_steps hb he hu i refc (!s.isOldest c)
  suffices h : FaultSteps c.br cx cy (s.noteFault c i refc (!s.isOldest c)) (s.takeFault c i refc) ∧
      ∃ b'', (s.takeFault c i refc).bent? c.br = some b'' ∧ b''.frozenTags = b'.frozenTags by
    obtain ⟨hlast, b'', hb'', htags⟩ := h
    exact ⟨hnote.trans hlast, fun w hw => hlast.keeps (hkept w hw), b'', hb'', by rw [← hfrozen, Bent.frozen?, Bent.frozen?, htags]⟩
  rw [State.takeFault_eq hb he hu]
  cases hold : s.isOldest c with
  | true =>
    rw [hold] at hb'
    exact ⟨State.recordAt_steps .., b', (State.bent?_recordAt ..).trans hb', rfl⟩
  | false =>
    rw [hold] at hb'
    exact ⟨State.updEntry_steps _ c cx cy _ fun _ => rfl, State.frozenTags_updEntry hb' _⟩

/-- The record of a fault of the oldest activation, or of a FREE block, stands last among those of its partition (R47, R187). -/
theorem State.part?_takeFault {p : Partition} (hp : s.part? (s.vdOf c.br.rid).part = some p) (hold : s.isOldest c = true) (i : FaultInfo) (refc : Nat) :
    ∃ p' more cycle seq, (s.takeFault c i refc).part? (s.vdOf c.br.rid).part = some p' ∧
      p'.faults = p.faults ++ more ++ [c.faultRec (s.vdOf c.br.rid) (c.reported i refc) refc cycle seq] := by
  obtain ⟨hnote, -, b', hb', -⟩ := State.noteFault_steps hb he hu i refc false
  obtain ⟨p', more, hp', -, hfaults⟩ := hnote.part? hp
  rw [State.takeFault_eq hb he hu, if_pos hold, State.record_eq hb', hnote.vdOf]
  exact ⟨_, more, _, _, State.part?_pushRecord hp' .., congrArg (· ++ _) hfaults⟩

end

/-- A fault freezes its tag: its operands are kept, its record is written, and no request, queue, semaphore or virtual device changes. -/
theorem faultsFreezeTheirTag : FaultsFreezeTheirTag := by
  intro s c i b p cx cy e hb hu he hp
  have helem : b.elem? cx cy = some e := by simpa only [State.elem?, hb, Option.bind_some] using he
  obtain ⟨hsteps, hkept, b', hb', hfrozen⟩ := State.takeFault_steps hb helem hu i (s.refcOf c)
  obtain ⟨hpres, hreqs, hqueues, hsems, hvdevs⟩ := hsteps.frame
  have hgrown : ∃ e', b'.elem? cx cy = some e' ∧ e.Grows e' := by
    obtain ⟨b'', hb'', hg⟩ := hsteps.bent? hb
    rw [hb'] at hb''
    cases hb''
    exact hg.elem e helem
  obtain ⟨e', he', hg⟩ := hgrown
  refine ⟨fun hwf => (hsteps.wf_and_keepsMemory hwf).2, hsteps.mem_of_no_memory hp, hpres, hreqs, hqueues, hsems, hvdevs, ?_, fun hold => ?_⟩
  · have hopers : ∀ w ∈ c.a.toList ++ c.b.toList ++ c.p.toList, { w with frozen := true } ∈ e'.rows ++ b'.spill := by
      intro w hw
      obtain ⟨b1, e1, hb1, he1, hin⟩ := hkept w hw
      rw [hb'] at hb1
      cases hb1
      rw [he'] at he1
      cases he1
      exact hin
    exact ⟨b', e', _, hb', by rw [State.elem?, State.fault, hb']; exact he', hfrozen, hopers, rfl, rfl, hg.flags, hg.warn, hg.ready, hg.link⟩
  · obtain ⟨p', more, cycle, seq, hp', hfaults⟩ := State.part?_takeFault hb helem hu hp hold i (s.refcOf c)
    refine ⟨p', more, _, hp', hfaults, ?_⟩
    simp [Ctx.faultRec, hu, UnitLoc.place, apply_ite Cause.code]

/-- Settles O47: a fault is made of steps that only add to rows, spill areas and records, and a record writes its own 64 bytes of the ring. -/
theorem faultsFreezeAndReport : Obligations.FaultsFreezeAndReport := ⟨faultsFreezeTheirTag, recordsStandInTheRing⟩

end Sys2Proof.Machine
end

section
/-! PROOFS. What the resets of a package keep of platforms, memory and checkpoints (R262, R264, R266, R268). -/

namespace Sys2Proof.Machine

open Sys2Proof

/-! ## What losing the state of a package leaves -/

/-- What a package has beside the state of its dies: the platforms, memory and the checkpoints. -/
def State.stores (s : State) : List Platform × List Host.Cell × List Checkpoint := (s.platforms, s.mem, s.checkpoints)

theorem State.plat?_of_stores {s t : State} (h : t.stores = s.stores) (p : Pkg) : t.plat? p = s.plat? p :=
  congrArg (fun x => x.1.find? (·.pkg == p)) h

theorem State.mem_of_stores {s t : State} (h : t.stores = s.stores) : t.mem = s.mem := congrArg (·.2.1) h

theorem State.checkpoints_of_stores {s t : State} (h : t.stores = s.stores) : t.checkpoints = s.checkpoints := congrArg (·.2.2) h

/-- What every step of a loop leaves alone, the loop leaves alone. -/
theorem State.stores_foldl {α : Type} {f : State → α → State} (hf : ∀ s x, (f s x).stores = s.stores) (l : List α) (s : State) :
    (l.foldl f s).stores = s.stores := by
  induction l generalizing s with
  | nil => rfl
  | cons x xs ih => exact (ih (f s x)).trans (hf s x)

@[simp] theorem State.stores_updPart (s : State) (part : Nat) (f : Partition → Partition) : (s.updPart part f).stores = s.stores := rfl
@[simp] theorem State.stores_dropRaising (s : State) (rid : Nat) : (s.dropRaising rid).stores = s.stores := rfl
@[simp] theorem State.stores_dropTransit (s : State) (p : Pkg) : (s.dropTransit p).stores = s.stores := rfl
@[simp] theorem State.stores_trainLinks (s : State) (p : Pkg) (lost : List (Edge × Nat)) : (s.trainLinks p lost).stores = s.stores := rfl

@[simp] theorem State.stores_noteStrays (s : State) (rid : Nat) : (s.noteStrays rid).stores = s.stores := by
  unfold State.noteStrays
  split
  · refine State.stores_foldl (fun s i => ?_) _ s
    split
    · dsimp only
      split
      · rfl
      · exact State.stores_updPart ..
    · rfl
  · rfl

@[simp] theorem State.stores_reSlot (s : State) (v : VdRef) : (s.reSlot v).stores = s.stores := by
  unfold State.reSlot
  split
  · rfl
  · dsimp only
    split
    · exact State.stores_updPart ..
    · rfl

/-- The loop that takes raisings out of the state. -/
theorem State.stores_dropRaisings (l : List Raising) (s : State) :
    (l.foldl (fun s r => (s.noteStrays r.rid).dropRaising r.rid) s).stores = s.stores :=
  State.stores_foldl (fun s r => by rw [State.stores_dropRaising, State.stores_noteStrays]) l s

@[simp] theorem State.stores_loseRaisings (s : State) (p : Pkg) : (s.loseRaisings p).stores = s.stores := State.stores_dropRaisings _ s

@[simp] theorem State.stores_dropVdev (s : State) (v : VdRef) : (s.dropVdev v).stores = s.stores :=
  (State.stores_reSlot _ v).trans (State.stores_dropRaisings _ s)

@[simp] theorem State.stores_emptied (s : State) (p : Pkg) : (s.emptied p).stores = s.stores :=
  calc (s.emptied p).stores
      = (((s.loseRaisings p).vdevs.filter (·.home == p)).foldl (fun s d => s.dropVdev d.vdr) (s.loseRaisings p)).stores := rfl
    _ = (s.loseRaisings p).stores := State.stores_foldl (fun s (d : Vdev) => s.stores_dropVdev d.vdr) _ _
    _ = s.stores := s.stores_loseRaisings p

@[simp] theorem State.stores_count (s : State) (name : RasName) (pkg : Pkg) (idx : Nat) : (s.count name pkg idx).stores = s.stores := by
  unfold State.count
  dsimp only
  split <;> rfl

/-! ## The platform of a package as it boots -/

theorem State.plat?_updPlat_self {s : State} {p : Pkg} {q : Platform} (hq : s.plat? p = some q) {f : Platform → Platform}
    (hf : ∀ d, (f d).pkg = d.pkg) : (s.updPlat p f).plat? p = some (f q) := by
  rw [State.plat?_updPlat s p p f hf, if_pos rfl, hq, Option.map_some]

theorem State.stores_updPlat {s t : State} (h : t.stores = s.stores) (p : Pkg) (f : Platform → Platform) :
    (t.updPlat p f).stores = (s.updPlat p f).stores := congrArg (fun x => (updIf x.1 (·.pkg == p) f, x.2)) h

/-- A platform as built-in test finds its package (R21). -/
def Platform.tested (q : Platform) (b : BistReport) : Platform :=
  { q with fenced := b.cells, fencedClus := b.clusters, failedStacks := b.lostStacks }

/-- Built-in test changes the platform, and else RAS counters alone. -/
theorem State.stores_fence (s : State) (p : Pkg) (b : BistReport) : (s.fence p b).stores = (s.updPlat p (·.tested b)).stores :=
  (State.stores_foldl (fun _ _ => State.stores_count ..) _ _).trans (State.stores_foldl (fun _ _ => State.stores_count ..) _ _)

@[simp] theorem State.stores_applyPart (s : State) (p : Pkg) (l : PartLayout) : (s.applyPart p l).stores = s.stores := by
  unfold State.applyPart
  dsimp only
  split
  · exact State.stores_updPart ..
  · rfl

/-- A platform with a layout in effect: its partitions' keys, and which layout it is. -/
def Platform.withLayout (q : Platform) (l : Layout) : Platform :=
  let ks := newKeys q.keys q.keyEpoch (l.parts.flatMap (fun e => e.keys.map (fun k => (k, e.part))))
  { q with applied := l, keys := ks.1, keyEpoch := ks.2 }

/-- A layout that takes effect changes the platform, and else partitions alone (R222). -/
theorem State.stores_applyLayout (s : State) (p : Pkg) (l : Layout) : (s.applyLayout p l).stores = (s.updPlat p (·.withLayout l)).stores :=
  State.stores_updPlat ((State.stores_foldl (fun s e => s.stores_applyPart p e) l.parts _).trans rfl) p _

@[simp] theorem Platform.pkg_rolled (q : Platform) : q.rolled.pkg = q.pkg := by
  unfold Platform.rolled
  split <;> rfl

/-- A platform whose firmware runs, as the boot leaves it before built-in test and its layout (R262). -/
def Platform.started (q : Platform) (b : BistReport) (now : Nat) : Platform :=
  { q with
    ready := true, recovery := false, recfail := false, recstack := 0, reclen := 0, apbase := 0, bar2 := true, kiln := true,
    running := q.flash, library := Config.libraryOf q.flash, session := none,
    intent := { q.intent with valid := false }, applied := Layout.empty, sinter := enumerate b.sinter, thermal := .cool, admitStop := false,
    power := true, held := false, cxl := false, msix := [], keys := [], boots := q.boots + 1, faultSeq := 0, gens := [], cycles0 := now,
    layoutBusy := false }

/-- Booting changes the platform in four steps, and neither memory nor checkpoints. -/
theorem State.stores_boot {s : State} {p : Pkg} {q : Platform} (hq : s.plat? p = some q) (b : BistReport) : (s.boot p b).stores =
    ((((s.updPlat p Platform.rolled).updPlat p (·.started b s.now)).updPlat p (·.tested b)).updPlat p
      (·.withLayout (q.rolled.bank q.rolled.activeB))).stores := by
  have hrolled := State.plat?_updPlat_self hq Platform.pkg_rolled
  simp only [State.boot, hrolled]
  exact (State.stores_applyLayout ..).trans (State.stores_updPlat (State.stores_fence ..) p _)

theorem State.mem_boot {s : State} {p : Pkg} {q : Platform} (hq : s.plat? p = some q) (b : BistReport) : (s.boot p b).mem = s.mem := by
  simp only [State.mem_of_stores (State.stores_boot hq b), State.updPlat_mem]

/-- A package that has booted is ready, with Kiln running and the layout of its active bank in effect (R262). -/
theorem State.plat?_boot {s : State} {p : Pkg} {q : Platform} (hq : s.plat? p = some q) (b : BistReport) :
    ∃ q', (s.boot p b).plat? p = some q' ∧ q'.ready = true ∧ q'.recovery = false ∧ q'.kiln = true ∧ q'.applied = q'.bank q'.activeB := by
  have hrolled := State.plat?_updPlat_self hq Platform.pkg_rolled
  have hstarted := State.plat?_updPlat_self hrolled (f := (·.started b s.now)) fun _ => rfl
  have htested := State.plat?_updPlat_self hstarted (f := (·.tested b)) fun _ => rfl
  have hlayout := State.plat?_updPlat_self htested (f := (·.withLayout (q.rolled.bank q.rolled.activeB))) fun _ => rfl
  exact ⟨_, (State.plat?_of_stores (State.stores_boot hq b) p).trans hlayout, rfl, rfl, rfl, rfl⟩

/-- A package in recovery is not ready, and has no Kiln (R264). -/
theorem State.plat?_enterRecovery {s : State} {p : Pkg} {q : Platform} (hq : s.plat? p = some q) (b : BistReport) :
    ∃ q', (s.enterRecovery p b).plat? p = some q' ∧ q'.ready = false ∧ q'.recovery = true ∧ q'.kiln = false :=
  ⟨_, State.plat?_updPlat_self hq fun _ => rfl, rfl, rfl, rfl⟩

/-- A package that has a platform boots, if its flash can be read, or enters recovery; memory stands either way (R262, R264). -/
theorem State.tryBoot_spec {s : State} {p : Pkg} {q : Platform} (hq : s.plat? p = some q) (b : BistReport) (flashOk : Bool) :
    (s.tryBoot p b flashOk).mem = s.mem ∧ ∃ q', (s.tryBoot p b flashOk).plat? p = some q' ∧
      ((flashOk = true ∧ q'.ready = true ∧ q'.recovery = false ∧ q'.kiln = true ∧ q'.applied = q'.bank q'.activeB) ∨
        (q'.ready = false ∧ q'.recovery = true ∧ q'.kiln = false)) := by
  simp only [State.tryBoot, hq]
  split
  next hok =>
    obtain ⟨q', hq', hbooted⟩ := State.plat?_boot hq b
    exact ⟨State.mem_boot hq b, q', hq', .inl ⟨(Bool.and_eq_true_iff.1 hok).1, hbooted⟩⟩
  next =>
    obtain ⟨q', hq', hrecovery⟩ := State.plat?_enterRecovery hq b
    exact ⟨rfl, q', hq', .inr hrecovery⟩

/-! ## The events -/

/-- A package that has joined the domain has a platform (R20). -/
theorem State.exists_plat?_joined (s : State) (p : Pkg) : ∃ q, (s.joined p).plat? p = some q := by
  unfold State.joined
  split
  next h => exact Option.isSome_iff_exists.1 h
  next h =>
    rw [Option.not_isSome_iff_eq_none] at h
    exact ⟨{ Platform.reset with pkg := p }, by simp only [State.plat?] at h ⊢; simp [List.find?_append, h]⟩

@[simp] theorem State.mem_joined (s : State) (p : Pkg) : (s.joined p).mem = s.mem := by
  unfold State.joined
  split <;> rfl

/-- A cold reset of a package keeps memory and leaves the package ready or in recovery (R262, R264). -/
theorem execColdReset_spec (s : State) {p : Pkg} (bist : BistReport) (flashOk : Bool) (hx : p.px < 64) (hy : p.py < 64) :
    ∃ t q, exec (.coldReset p bist flashOk) s = .next t ∧ t.plat? p = some q ∧ t.mem = s.mem ∧
      ((flashOk = true ∧ q.ready = true ∧ q.recovery = false ∧ q.kiln = true ∧ q.applied = q.bank q.activeB) ∨
        (q.ready = false ∧ q.recovery = true ∧ q.kiln = false)) := by
  obtain ⟨q, hq⟩ := s.exists_plat?_joined p
  have hstores := (s.joined p).stores_emptied p
  obtain ⟨hmem, q', hq', houtcome⟩ := State.tryBoot_spec ((State.plat?_of_stores hstores p).trans hq) bist flashOk
  have hkept := hmem.trans ((State.mem_of_stores hstores).trans (s.mem_joined p))
  exact ⟨_, q', show execColdReset p bist flashOk s = _ from if_pos ⟨hx, hy⟩, hq', hkept, houtcome⟩

section

variable {s : State} {p : Pkg} {q : Platform}

theorem State.eventPkg_onEvent (hq : s.plat? p = some q) : (Claims.onEvent s (.pkg p)).eventPkg = some q := hq

theorem Platform.pkg_of_plat? (hq : s.plat? p = some q) : q.pkg = p := by simpa using List.find?_some hq

/-- A reset of compute dies that run: raisings and what is in transit are lost, and built-in test runs again (R21, R262). -/
theorem execComputeDieReset_of_running (hq : s.plat? p = some q) (bist : BistReport) (hheld : q.held = false) (hpower : q.power = true) :
    exec (.computeDieReset p bist) s = .next (((s.loseRaisings p).dropTransit p).fence p bist) := by
  show execComputeDieReset p bist s = _
  simp [execComputeDieReset, hq, hheld, hpower]

/-- The recovery door on an image of a length and in a stack that it takes: an image that the security block accepts goes to flash and boots, and any
other sets RECFAIL (R264). -/
theorem execRecdoor_of_recovery (hq : s.plat? p = some q) (bist : BistReport) (flashOk : Bool) (hrec : q.recovery = true) {image : List Byte}
    (himage : image = s.readBytes (gaOf p (q.recstack * 0xC00000000)) q.reclen) (hlen : q.reclen ≤ 0x10000000) (hstack : q.recstack < 8) :
    exec (.recdoor p bist flashOk) s = if firmwareOk q.fusedMin image = true
      then .next ((s.updPlat p (fun q => { q with flash := image })).tryBoot p bist flashOk)
      else .next (s.updPlat p (fun q => { q with recfail := true })) := by
  show execRecdoor p bist flashOk s = _
  simp only [execRecdoor, hq, hrec, hlen, hstack, himage, true_and, if_true, Bool.not_true, Bool.false_eq_true, if_false]

/-- A reset of the fabric loses what is in transit in the package (R266). -/
theorem execFabricReset_of_plat? (hq : s.plat? p = some q) :
    exec .fabricReset (Claims.onEvent s (.pkg p)) = .next ((Claims.onEvent s (.pkg p)).dropTransit p) := by
  show execFabricReset (Claims.onEvent s (.pkg p)) = _
  simp only [execFabricReset, State.eventPkg_onEvent hq, Platform.pkg_of_plat? hq]

/-- A reset of the hub erases the keys of the package (R266). -/
theorem execHubReset_of_plat? (hq : s.plat? p = some q) :
    exec .hubReset (Claims.onEvent s (.pkg p)) = .next ((Claims.onEvent s (.pkg p)).updPlat p (fun q => { q with keys := [] })) := by
  show execHubReset (Claims.onEvent s (.pkg p)) = _
  simp only [execHubReset, State.eventPkg_onEvent hq, Platform.pkg_of_plat? hq]

/-- A power loss: the package is off, its memories are empty, and the Sinter store with its checkpoints stands while its rail does (R2, R266, R268). -/
theorem execPowerLoss_spec (hq : s.plat? p = some q) (rail : Bool) :
    ∃ t q', exec (.powerLoss p rail) s = .next t ∧ t.plat? p = some q' ∧ q'.power = false ∧ q'.ready = false ∧ q'.keys = [] ∧
      t.mem = s.mem.filter (fun c => !(gaPkg c.1 == p && (rail || regionOf (gaPhys c.1) != .sinter))) ∧
      (rail = false → t.checkpoints = s.checkpoints) := by
  have hstores := s.stores_emptied p
  refine ⟨_, _, rfl, State.plat?_updPlat_self ((State.plat?_of_stores hstores p).trans hq) fun _ => rfl, rfl, rfl, rfl,
    congrArg (List.filter _) (State.mem_of_stores hstores), fun hrail => ?_⟩
  subst hrail
  exact (List.filter_eq_self.2 fun _ _ => rfl).trans (State.checkpoints_of_stores hstores)

end

/-- Settles O54: what a package loses with the state of its dies is neither its platform nor memory nor a checkpoint, so that each reset answers as its
own change of these says. -/
theorem resetEventsComplete : Obligations.ResetEventsComplete := by
  intro s p bist flashOk
  refine ⟨execColdReset_spec s bist flashOk, fun q hq => ⟨execComputeDieReset_of_running hq bist, ?recdoor, execFabricReset_of_plat? hq, ?hub,
    execPowerLoss_spec hq⟩⟩
  case recdoor =>
    intro image hrec himage hlen hstack
    rw [execRecdoor_of_recovery hq bist flashOk hrec himage hlen hstack]
    exact ⟨fun hok => if_pos hok, fun hbad => if_neg (Bool.eq_false_iff.1 hbad)⟩
  case hub => exact ⟨_, execHubReset_of_plat? hq, State.plat?_updPlat_self hq fun _ => rfl, rfl, rfl⟩

end Sys2Proof.Machine
end

section
/-! PROOFS. The function group (R138 to R149, R254, R345): a firing that runs, what a correctly rounded function answers while its Jointer has room, and
that counting in DEPCOUNT changes nothing that a function reads. -/

namespace Sys2Proof.Machine

open Sys2Proof Claims

/-! ## A firing that runs -/

section
variable {s : State} {o : SlotOps} {c : Ctx}

/-- A firing in the last row of R28 has the effect of its instruction. -/
theorem State.runFiring_of_runs (h : Runs s o c) (f : Ctx → Host.Outcome State Fault Refusal) : s.runFiring o f = f c := by
  simp only [State.runFiring, h.1, h.2]

theorem State.compute_of_runs (h : Runs s o c) (f : Ctx → Result) : s.compute o f = .next (s.deliver o c (f c)) := s.runFiring_of_runs h _

theorem State.fnLanes_of_runs (h : Runs s o c) (fn : Fn) (opc : Nat) : s.fnLanes fn opc o c = (s.fnResult fn opc o c).2 := if_pos h.2

/-- A correctly rounded function with room in the Jointer answers its lanes, at once or through the Jointer (R144 to R146). -/
theorem State.function_of_room (h : Runs s o c) {fn : Fn} {opc : Nat} (hroom : s.jointerFull c (s.fnResult fn opc o c).2 = false) :
    s.function fn opc o = .next (if (s.fnResult fn opc o c).2 = 0 then s.deliver o c (s.fnResult fn opc o c).1
      else s.toJointer o c (fnTy o.ty).1 (s.fnResult fn opc o c).1 (s.fnResult fn opc o c).2) := by
  simp only [State.function, h.1, State.fnLanes_of_runs h, hroom, Bool.false_eq_true, if_false, State.runFiring_of_runs h]

end

/-! ## The lanes of a function -/

/-- Every function but POW takes A as its one operand (R140). -/
theorem State.fnResult_one (s : State) {fn : Fn} (hfn : fn ≠ .pow) (opc : Nat) (o : SlotOps) (c : Ctx) :
    let ty := (fnTy o.ty).1
    let m := rndOf o.mod (s.rmodeOf c.br c.u)
    let ls := (c.lanesA ty).zip (c.lanesA ty)
    let rs := ls.map (fun x => crLane fn (fmtOf ty) m.1 x.1 x.2)
    s.fnResult fn opc o c =
      (laneResult c c.atok.isScalar (laneBits ty) (rs.map (fun x => (x.1, x.2.1))) ((fnTy o.ty).2 ||| m.2 ||| rsvx (o.x != 0)),
       secondLanes opc ty m.1.code (if c.atok.isScalar then ls.take 1 else ls) rs) := by
  simp only [State.fnResult, beq_eq_false_iff_ne.2 hfn, Bool.false_eq_true, if_false]

/-- The instructions of one operand run their function (R334, R308, R410, R431). -/
theorem exec_fnOps {p : (SlotOps → Instr) × Fn × Nat} (hp : p ∈ fnOps) (o : SlotOps) (s : State) :
    exec (p.1 o) s = s.function p.2.1 p.2.2 o := by
  revert p
  simp only [fnOps, List.forall_mem_cons]
  exact ⟨rfl, rfl, rfl, rfl, rfl, rfl, rfl, rfl, rfl, rfl, rfl, rfl, rfl, rfl, rfl, fun _ h => nomatch h⟩

theorem fnOps_ne_pow : ∀ p ∈ fnOps, p.2.1 ≠ .pow := by decide

/-- The fast-approximate instructions run their function (R338, R308, R399, R431). -/
theorem exec_apOps {p : (SlotOps → Instr) × Fn × Nat} (hp : p ∈ apOps) (o : SlotOps) (s : State) :
    exec (p.1 o) s = s.approx p.2.1 p.2.2 o := by
  revert p
  simp only [apOps, List.forall_mem_cons]
  exact ⟨rfl, rfl, rfl, rfl, rfl, rfl, rfl, rfl, rfl, rfl, fun _ h => nomatch h⟩

/-! ## FEXPL -/

/-- Counting a deprecated firing changes virtual devices and platforms alone (R254, R255). -/
theorem State.deprecate_eq (s : State) (rid : Nat) : ∃ vs ps, s.deprecate rid = { s with vdevs := vs, platforms := ps } := by
  simp only [State.deprecate]
  split
  · split
    · exact ⟨_, _, rfl⟩
    · exact ⟨_, s.platforms, rfl⟩
  · exact ⟨s.vdevs, s.platforms, rfl⟩

@[simp] theorem State.deprecate_firing? (s : State) (rid : Nat) : (s.deprecate rid).firing? = s.firing? := by
  obtain ⟨_, _, h⟩ := s.deprecate_eq rid
  rw [h]; rfl
@[simp] theorem State.deprecate_jointerFull (s : State) (rid : Nat) (c : Ctx) (n : Nat) :
    (s.deprecate rid).jointerFull c n = s.jointerFull c n := by
  obtain ⟨_, _, h⟩ := s.deprecate_eq rid
  rw [h]; rfl
@[simp] theorem State.deprecate_fnResult (s : State) (rid : Nat) (fn : Fn) (opc : Nat) (o : SlotOps) (c : Ctx) :
    (s.deprecate rid).fnResult fn opc o c = s.fnResult fn opc o c := by
  obtain ⟨_, _, h⟩ := s.deprecate_eq rid
  rw [h]; rfl

/-- A firing of FEXPL with room in the Jointer counts and does what EXP does (R254, R345). -/
theorem exec_fexpl_of_room {s : State} {o : SlotOps} {c : Ctx} (h : Runs s o c)
    (hroom : s.jointerFull c (s.fnResult .exp 0x30 o c).2 = false) :
    exec (.fexpl o) s = (s.deprecate c.br.rid).function .exp 0x30 o := by
  show execFexpl o s = _
  simp [execFexpl, h.1, h.2, State.fnLanes_of_runs h, hroom]

/-! ## The function instructions -/

theorem correctlyRoundedFunctionsComplete : CorrectlyRoundedFunctionsComplete := by
  intro o s c h
  refine ⟨fun p hp hroom => ?fnOps, fun hroom => State.function_of_room h hroom, fun hroom => ?fexpl⟩
  case fnOps =>
    have hres := s.fnResult_one (fnOps_ne_pow p hp) p.2.2 o c
    rw [exec_fnOps hp, State.function_of_room h (by rw [hres]; exact hroom), hres]
    rfl
  case fexpl =>
    have hd : Runs (s.deprecate c.br.rid) o c := ⟨(s.deprecate_firing? _).trans h.1, h.2⟩
    have hres := s.fnResult_one (fn := .exp) (by decide) 0x30 o c
    have hfree : s.jointerFull c (s.fnResult .exp 0x30 o c).2 = false := by rw [hres]; exact hroom
    rw [exec_fexpl_of_room h hfree, State.function_of_room hd (by simpa using hfree), State.deprecate_fnResult, hres]
    rfl

theorem approximateFunctionsComplete : ApproximateFunctionsComplete := fun _ hp o s _ h => (exec_apOps hp o s).trans (State.compute_of_runs h _)

/-- Settles O16: a firing that runs with room in the Jointer answers the result of its lanes, and DEPCOUNT is nothing that a function reads. -/
theorem functionInstructionsComplete : Obligations.FunctionInstructionsComplete :=
  ⟨correctlyRoundedFunctionsComplete, approximateFunctionsComplete⟩

end Sys2Proof.Machine
end

section
/-! PROOFS. Translation (R172, R174, R175, R177, R179, R183, R186): XLATE and PWIN as they fire, the walk of a request, and the D bit of a write's
leaf. -/

namespace Sys2Proof.Machine

open Sys2Proof Claims

/-! ## XLATE and PWIN -/

section
variable {s : State} {o : SlotOps} {c : Ctx}

/-- An XLATE that runs waits while its element has eight walks of XLATE, answers a cause at an address that is not canonical, and else goes to its walk
(R174, R175, R445). -/
theorem execXlate_of_runs (h : Runs s o c) : ∃ w, exec (.xlate o) s =
    let wr := o.mod.getLsbD 1
    let r : Req := { Req.make s c (.xlate wr) (c.addr o) 1 0 with stage := .walk }
    if 8 ≤ (s.reqs.filter (fun q => (q.kind == .xlate true || q.kind == .xlate false) && q.br == r.br && q.cx == r.cx && q.cy == r.cy)).length
    then s.wait
    else if !canonVa (BitVec.ofNat 64 r.va) then .next (s.xlateBad c o w { cause := .vaCanon, addr := r.va, wr := wr })
    else .next (s.putReq { r with warn := w }) := ⟨_, s.runFiring_of_runs h _⟩

/-- A cause that an XLATE finds leaves as a fault token where T1 names a target (R175, R178). -/
theorem State.xlateBad_of_target (s : State) (c : Ctx) (h : o.t1 ≠ 0x1FF) (w : BitVec 30) (i : FaultInfo) :
    s.xlateBad c o w i = (s.raiseWarn c.br c.u w).emit c o.t1 (faultTok c.tag i) := if_neg h

/-- A PWIN that runs installs a window whose check value matches and whose reserved bits are zero, and takes any other as forged (R177, R382). -/
theorem execPwin_of_runs (h : Runs s o c) : ∃ w, exec (.pwin o) s =
    let v := s.vdOf c.br.rid
    let p := ((s.bent? c.br).map (·.pkg)).getD { px := 0, py := 0 }
    if c.atok.pay.toNat / 2 ^ 224 ≠ (Config.windowCheck v.part v.vd (s.bootOf p) (c.atok.pay.setWidth 224)).toNat ∨ c.atok.pay.toNat / 2 ^ 181 % 2 ^ 11 ≠ 0
    then .next (s.fault c { cause := .winForged })
    else .next (((s.updElemOf c (fun e => { e with pwin := e.pwin.set (o.xf 0 3) (some (windowOf c.atok.pay s.now)) })).raiseWarn c.br c.u w).emit c o.t0
      c.atok.plain) := ⟨_, s.runFiring_of_runs h _⟩

end

theorem translationInstructionsComplete : TranslationInstructionsComplete := by
  intro o s c h va r free
  obtain ⟨w, hxlate⟩ := execXlate_of_runs h
  obtain ⟨w', hpwin⟩ := execPwin_of_runs h
  refine ⟨fun hfree hcanon => ⟨w, ?walks⟩, fun hfree hcanon ht => ⟨w, ?answers⟩, fun hgood => ⟨w', ?installs⟩, fun hforged => ?forged⟩
  case walks =>
    have hva : ¬ (!canonVa (BitVec.ofNat 64 va)) = true := by simp [hcanon]
    exact hxlate.trans ((if_neg (Nat.not_le.2 hfree)).trans (if_neg hva))
  case answers =>
    have hva : (!canonVa (BitVec.ofNat 64 va)) = true := by simp [hcanon]
    rw [← s.xlateBad_of_target c ht]
    exact hxlate.trans ((if_neg (Nat.not_le.2 hfree)).trans (if_pos hva))
  case installs => exact hpwin.trans (if_neg fun hbad => hbad.elim (· hgood.1) (· hgood.2))
  case forged => exact hpwin.trans (if_pos (Decidable.not_and_iff_or_not.1 hforged))

/-! ## The walk of a request -/

section
variable {s : State} {n : Nat} {r : Req} {b : Bent}

theorem State.req?_onEvent (s : State) (e : Subject) (n : Nat) : (onEvent s e).req? n = s.req? n := rfl
theorem State.bent?_onEvent (s : State) (e : Subject) (br : BentRef) : (onEvent s e).bent? br = s.bent? br := rfl
theorem State.cur_onEvent (s : State) (e : Subject) : (onEvent s e).cur = .event e := rfl

variable (hreq : s.req? n = some r) (hstage : r.stage = .walk) (hb : s.bent? r.br = some b)

include hreq hstage hb

/-- The walk of an XLATE that ends at a leaf answers a window token at T0 (R175, R176). -/
theorem execWalk_xlate_ok {wr : Bool} {w : Window} {t : State} (hkind : r.kind = .xlate wr)
    (hwalk : (onEvent s (.num n)).walk b.pkg r.vdr (r.va % 2 ^ 55) r.kind.need = (.ok w, t)) :
    exec .walk (onEvent s (.num n)) = .next ((((t.dropReq n).updBent r.br (fun b => b.clearFrozen r.ctx.u r.blk r.slot r.tag)).raiseWarn
      r.br r.ctx.u r.warn).emit r.ctx (s.reqOps r).t0 (s.windowTok r.vdr b.pkg r.tag w)) := by
  show execWalk (onEvent s (.num n)) = _
  rw [hkind] at hwalk
  simp only [execWalk, State.cur_onEvent, State.req?_onEvent, State.bent?_onEvent, hreq, hstage, hb, hkind, hwalk, ne_eq, not_true, if_false]
  rfl

/-- The walk of an XLATE that finds a fault answers it at T1, where T1 names a target and no entry was in error (R175, R186). -/
theorem execWalk_xlate_bad {wr : Bool} {i : FaultInfo} {t : State} (hkind : r.kind = .xlate wr)
    (hwalk : (onEvent s (.num n)).walk b.pkg r.vdr (r.va % 2 ^ 55) r.kind.need = (.bad i, t)) (ht : (s.reqOps r).t1 ≠ 0x1FF)
    (hecc : i.cause ≠ .eccUncorr) : exec .walk (onEvent s (.num n)) =
      .next (((t.dropReq n).raiseWarn r.br r.ctx.u r.warn).emit r.ctx (s.reqOps r).t1 (faultTok r.tag i)) := by
  show execWalk (onEvent s (.num n)) = _
  have ht' : ((onEvent s (.num n)).reqOps r).t1 ≠ 0x1FF := ht
  rw [hkind] at hwalk
  simp only [execWalk, State.cur_onEvent, State.req?_onEvent, State.bent?_onEvent, hreq, hstage, hb, hkind, hwalk, ht', hecc, ne_eq, not_true, if_false,
    decide_false, Bool.or_self, Bool.false_eq_true]
  exact congrArg _ (State.xlateBad_of_target _ _ ht' ..)

variable (hkind : ∀ wr, r.kind ≠ .xlate wr)

include hkind

/-- The walk of an access installs its window, and the request goes on with it (R179). -/
theorem execWalk_access_ok {w : Window} {t u : State}
    (hwalk : (onEvent s (.num n)).walk b.pkg r.vdr ((onEvent s (.num n)).xvaOf r) r.kind.need = (.ok w, t))
    (hgo : ((t.updElem r.br r.cx r.cy (fun e => e.install w)).updBent r.br (fun b => b.clearFrozen r.ctx.u r.blk r.slot r.tag)).translated r w =
      .done u) : exec .walk (onEvent s (.num n)) = .next u := by
  show execWalk (onEvent s (.num n)) = _
  simp only [execWalk, State.cur_onEvent, State.req?_onEvent, State.bent?_onEvent, hreq, hstage, hb, hwalk, hgo, ne_eq, not_true, if_false]

/-- A fault that the walk of an access finds is taken by its instruction (R179, R180). -/
theorem execWalk_access_bad {i : FaultInfo} {t : State}
    (hwalk : (onEvent s (.num n)).walk b.pkg r.vdr ((onEvent s (.num n)).xvaOf r) r.kind.need = (.bad i, t)) :
    exec .walk (onEvent s (.num n)) = .next (t.walkFault r i) := by
  show execWalk (onEvent s (.num n)) = _
  simp only [execWalk, State.cur_onEvent, State.req?_onEvent, State.bent?_onEvent, hreq, hstage, hb, hwalk, ne_eq, not_true, if_false]

end

theorem walkCompletes : WalkCompletes := fun _ _ _ _ hreq hstage hb =>
  ⟨fun _ _ _ => execWalk_xlate_ok hreq hstage hb, fun _ _ _ => execWalk_xlate_bad hreq hstage hb,
    fun _ _ _ hkind => execWalk_access_ok hreq hstage hb hkind, fun _ _ hkind => execWalk_access_bad hreq hstage hb hkind⟩

/-! ## The dirty logger -/

theorem dirtyLoggingCompletes : DirtyLoggingCompletes := by
  intro s n ga r b t u hreq hstage hga hb
  refine ⟨fun hset hgo => ?logged, fun hset => ?error⟩
  case logged =>
    have hhome : (t.updElem r.br r.cx r.cy (·.markDirty r.ptea)).toHome { r with leaf := r.leaf ||| 16 } ga = .done u := hgo
    simp only [hstage, hga] at hhome
    show execDirtyLoggerSet (onEvent s (.num n)) = _
    simp only [execDirtyLoggerSet, State.cur_onEvent, State.req?_onEvent, State.bent?_onEvent, hreq, hstage, hga, hb, hset, hhome]
  case error =>
    show execDirtyLoggerSet (onEvent s (.num n)) = _
    simp only [execDirtyLoggerSet, State.cur_onEvent, State.req?_onEvent, State.bent?_onEvent, hreq, hstage, hga, hb, hset]

/-- Settles O29: XLATE and PWIN at a firing that runs, a walk by the kind of its request and the end of its walk, and dirty logging by whether the entry
can be read. -/
theorem translationCompletes : Obligations.TranslationCompletes := ⟨translationInstructionsComplete, walkCompletes, dirtyLoggingCompletes⟩

end Sys2Proof.Machine
end

section
/-! PROOFS. Sync points, migration and ECC (R173, R182, R186, R269). -/

namespace Sys2Proof.Machine

open Sys2Proof

section
variable {s : State} {p : Pkg}

/-- TGEN of a virtual device on a package rises by one, modulo 2^32 (R173). -/
theorem State.tgenOf_raiseTgen {v : VdRef} {d : Vdev} (hd : s.vdev? v = some d) : (s.raiseTgen v p).tgenOf v p = (s.tgenOf v p + 1) % 2 ^ 32 := by
  have hraised := State.vdev?_updVdev s v v
    (fun d => { d with tgen := (p, (s.tgenOf v p + 1) % 2 ^ 32) :: d.tgen.filter (fun t => t.1 != p) }) fun _ => rfl
  rw [if_pos rfl, hd] at hraised
  rw [State.tgenOf, State.raiseTgen, hraised]
  simp

/-- A memory port with room takes the record of a page that it has none of (R182). -/
theorem execMigrationStart_of_room {new_ old : Nat}
    (hroom : (s.migs.filter (fun m => m.pkg == p && s.portAux m.new_ == s.portAux (gaOf p new_ / 2 ^ 16 * 2 ^ 16))).length < 256)
    (hnew : s.migs.any (fun m => m.new_ == gaOf p new_ / 2 ^ 16 * 2 ^ 16) = false) :
    let m : MigRec :=
      { pkg := p, new_ := gaOf p new_ / 2 ^ 16 * 2 ^ 16, old := old / 2 ^ 16 * 2 ^ 16, state := .pending, bits := List.replicate 256 false }
    exec (.migrationStart p new_ old) s = .next { s with migs := s.migs ++ [m] } :=
  if_pos (by simp only [hroom, hnew, decide_true, Bool.not_false, Bool.and_self])

/-- The port of an ACTIVE record pulls a line that is absent, where the old home has no error (R182, R186). -/
theorem execMigrationLinePull_of_absent {new_ line : Nat} {m : MigRec} (hm : s.migOf (gaOf p new_) = some m) (hactive : m.state = .active)
    (habsent : m.bits.getD line true = false) (hecc : s.eccIn (m.old + 256 * line) 256 = false) :
    exec (.migrationLinePull p new_ line) s = .next (s.pullLine m line) := by
  show execMigrationLinePull p new_ line s = _
  simp only [execMigrationLinePull, hm]
  exact if_pos (by simp only [hactive, habsent, hecc, beq_self_eq_true, Bool.not_false, Bool.and_self])

/-- An uncorrectable error that an element would consume freezes it, and the instruction that would fire takes it (R186). -/
theorem execEccUncorrectable_elem {br : BentRef} {cx cy : Nat} {b : Bent} {e : Elem} {r : Ready} {rs : List Ready} (hb : s.bent? br = some b)
    (he : s.elem? br cx cy = some e) (hlive : e.eccFrozen = false)
    (hcand : ((s.count .eccu b.pkg 66).updElem br cx cy (fun e => { e with eccFrozen := true })).candidates br (.elem cx cy) = r :: rs) :
    exec (.eccUncorrectable (.elem br cx cy)) s =
      .next ((((s.count .eccu b.pkg 66).updElem br cx cy (fun e => { e with eccFrozen := true })).takeReady br (.elem cx cy) r).fault
        { br := br, u := .elem cx cy, blk := r.blk, slot := r.slot, tag := r.tag, a := r.a, b := r.b, p := r.p } { cause := .eccUncorr }) := by
  show execEccUncorrectable (.elem br cx cy) s = _
  simp only [execEccUncorrectable, hb, he, hlive, hcand, Bool.false_eq_true, if_false]

end

/-- Settles O50: each event is its own change of the state under its conditions, and the entry that a sync point puts first is the one that TGEN reads. -/
theorem memorySystemEventsComplete : Obligations.MemorySystemEventsComplete := by
  intro s p
  refine ⟨fun v d hd => ⟨_, rfl, State.tgenOf_raiseTgen hd, rfl, rfl⟩, fun _ _ => execMigrationStart_of_room,
    fun _ _ _ => execMigrationLinePull_of_absent, fun _ => rfl, ?elem, fun _ => rfl⟩
  case elem =>
    rintro br cx cy b e r rs hb he hlive rfl
    exact execEccUncorrectable_elem hb he hlive

end Sys2Proof.Machine
end

section
/-! PROOFS. The host (R182, R186, R258, R259, R264, R265, R269): what an access of its reads and writes, when it is performed and when it waits, and the
registers that it sets. -/

namespace Sys2Proof.Machine

open Sys2Proof Claims

/-! ## The bytes of an access -/

section
variable {s : State} {p : Pkg}

/-- The memory port of a page that does not migrate is ready for a byte (R182). -/
theorem State.portReady_of_no_record {ga : Nat} (h : s.migOf ga = none) : s.portReady ga 1 = .ready s := by
  have hone : (ga + 1 + 255) / 256 - ga / 256 = 1 := by omega
  have hpage : (ga / 256 + 0) * 256 / 2 ^ 16 * 2 ^ 16 = ga / 2 ^ 16 * 2 ^ 16 := by omega
  have hline : s.migOf ((ga / 256 + 0) * 256) = none := by rw [State.migOf, hpage]; exact h
  simp only [State.portReady, hone, List.range_one, List.map_cons, List.map_nil, State.portLines, hline]

theorem State.readBytes_one (s : State) (ga : Nat) : [(s.readBytes ga 1).headD 0] = s.readBytes ga 1 := by
  obtain ⟨b, hb⟩ := List.length_eq_one_iff.1 (s.readKey_length ga 1 0)
  rw [State.readBytes, hb, List.headD_cons]

theorem State.hostGet_byte {ga : Nat} (hmig : s.migOf ga = none) (hecc : s.eccIn ga 1 = false) :
    s.hostGet [some ga] = some (s.readBytes ga 1, s) := by
  simp only [State.hostGet, State.portReady_of_no_record hmig, hecc, Bool.false_eq_true, if_false, Option.map_some, State.readBytes_one]

theorem State.hostPut_byte {ga : Nat} (hmig : s.migOf ga = none) (b : Byte) : s.hostPut [some ga] [b] = some (s.writeBytes ga [b]) := by
  simp only [State.hostPut, State.portReady_of_no_record hmig]

/-- A read at mapped addresses answers its bytes and counts nothing (R259). -/
theorem State.hostDo_read_byte {ga : Nat} (hmig : s.migOf ga = none) (hecc : s.eccIn ga 1 = false) (bad : Bool) :
    s.hostDo p [some ga] none bad = s.updPlat p (fun q => { q with hostRead := s.readBytes ga 1 }) := by
  simp [State.hostDo, State.hostGet_byte hmig hecc]

theorem State.hostDo_write_byte {ga : Nat} (hmig : s.migOf ga = none) (b : Byte) (bad : Bool) :
    s.hostDo p [some ga] (some [b]) bad = s.writeBytes ga [b] := by
  simp [State.hostDo, State.hostPut_byte hmig]

/-- A read of a reserved byte leaves ones for the host, counted or not (R259). -/
theorem State.stores_hostDo_reserved_read (s : State) (p : Pkg) (bad : Bool) :
    (s.hostDo p [none] none bad).stores = (s.updPlat p (fun q => { q with hostRead := [0xFF] })).stores := by
  cases bad with
  | false => rfl
  | true => exact State.stores_count ..

/-- A write to a reserved byte is discarded, counted or not (R259). -/
theorem State.stores_hostDo_reserved_write (s : State) (p : Pkg) (b : Byte) (bad : Bool) : (s.hostDo p [none] (some [b]) bad).stores = s.stores := by
  cases bad with
  | false => rfl
  | true => exact State.stores_count ..

end

theorem hostBytes : HostBytes := by
  intro s p q ga bad hq
  have hread := s.stores_hostDo_reserved_read p bad
  refine ⟨⟨_, rfl, ?ones, (State.mem_of_stores hread).trans (s.updPlat_mem p _)⟩, rfl, fun _ => rfl, fun hmig hecc => ?stands,
    fun hmig b => State.hostDo_write_byte hmig b bad, fun b => State.mem_of_stores (s.stores_hostDo_reserved_write p b bad)⟩
  case ones =>
    have hones := (State.plat?_of_stores hread p).trans (State.plat?_updPlat_self hq fun _ => rfl)
    rw [hones, Option.map_some]
  case stands =>
    have hbytes := (congrArg (State.plat? · p) (State.hostDo_read_byte hmig hecc bad)).trans (State.plat?_updPlat_self hq fun _ => rfl)
    rw [hbytes, Option.map_some]

/-! ## Accesses to memory -/

section
variable {s : State} {p : Pkg} {q : Platform}

/-- An access that names memory waits behind those that wait and for its migrating lines, and is else performed (R182, R259). -/
theorem execHostMemoryAccess_of_range (hq : s.plat? p = some q) {acc : HostAccess} {as : List (Option Nat)} {bytes : Option (List Byte)}
    (hrange : s.hostRange q acc = some (as, bytes)) : exec (.hostMemoryAccess p acc) s =
      if (s.hostWaits.any (·.1 == p) || s.hostBlocked as) = true then .next { s with hostWaits := s.hostWaits ++ [(p, acc)] }
      else .next (s.hostDo p as bytes (!q.recovery)) := by
  show execHostMemoryAccess p acc s = _
  cases acc with
  | barRead | barWrite | memRead | memWrite => simp only [execHostMemoryAccess, hq, hrange]
  | regRead | setApbase | setReclen | resume => cases hrange

theorem State.hostRange_barRead (hq : s.plat? p = some q) {off n : Nat} (h : off + n ≤ 2 ^ 36) : s.hostRange q (.barRead off n) =
    some (if q.recovery then recoveryAddrs p q.recstack off n else s.hostAddrs p false (q.apbase + off) n, none) := by
  rw [← Platform.pkg_of_plat? hq]
  exact if_pos h

theorem State.hostRange_barWrite (hq : s.plat? p = some q) {off n : Nat} {bs : List Byte} (hlen : bs.length = n) (h : off + n ≤ 2 ^ 36) :
    s.hostRange q (.barWrite off bs) =
      some (if q.recovery then recoveryAddrs p q.recstack off n else s.hostAddrs p false (q.apbase + off) n, some bs) := by
  rw [← Platform.pkg_of_plat? hq, ← hlen]
  rw [← hlen] at h
  exact if_pos h

theorem State.hostRange_memRead (hq : s.plat? p = some q) (hcxl : q.cxl = true) (hrec : q.recovery = false) (pa n : Nat) :
    s.hostRange q (.memRead pa n) = some (s.hostAddrs p true pa n, none) := by
  rw [← Platform.pkg_of_plat? hq]
  exact if_pos (by rw [hcxl, hrec]; rfl)

theorem State.hostRange_memWrite (hq : s.plat? p = some q) (hcxl : q.cxl = true) (hrec : q.recovery = false) (pa : Nat) {n : Nat} {bs : List Byte}
    (hlen : bs.length = n) : s.hostRange q (.memWrite pa bs) = some (s.hostAddrs p true pa n, some bs) := by
  rw [← Platform.pkg_of_plat? hq, ← hlen]
  exact if_pos (by rw [hcxl, hrec]; rfl)

/-! ## Registers and settings -/

/-- APBASE takes a multiple of 64 GiB below 2 PiB while the package is not in recovery, and no other value (R259, R264). -/
theorem execHostMemoryAccess_setApbase (hq : s.plat? p = some q) (v : Nat) : exec (.hostMemoryAccess p (.setApbase v)) s =
    if v % 2 ^ 36 = 0 ∧ v < 0x8000000000000 ∧ q.recovery = false then .next (s.updPlat p (fun q => { q with apbase := v })) else .next s := by
  show execHostMemoryAccess p (.setApbase v) s = _
  simp only [execHostMemoryAccess, hq, Bool.not_eq_true']

theorem execHostMemoryAccess_setReclen (hq : s.plat? p = some q) (v : Nat) (hrec : q.recovery = true) : exec (.hostMemoryAccess p (.setReclen v)) s =
    .next (s.updPlat p (fun q => { q with reclen := v, recfail := q.recfail || decide (0x10000000 < v) })) := by
  show execHostMemoryAccess p (.setReclen v) s = _
  simp only [execHostMemoryAccess, hq, hrec, if_true]

theorem execHostMemoryAccess_regRead (hq : s.plat? p = some q) (r : HostReg) : exec (.hostMemoryAccess p (.regRead r)) s =
    .next (s.updPlat p (fun q => { q with hostRead := bytesOf 8 (s.hostReg q r) })) := by
  show execHostMemoryAccess p (.regRead r) s = _
  simp only [execHostMemoryAccess, hq]

theorem execHostMemoryAccess_resume (hq : s.plat? p = some q) : exec (.hostMemoryAccess p .resume) s =
    .next (s.hostResume q (s.hostWaits.filter (·.1 == p))) := by
  show execHostMemoryAccess p .resume s = _
  simp only [execHostMemoryAccess, hq]

theorem mem_setIns_self (l : List Nat) (a : Nat) : a ∈ setIns l a := by
  induction l with
  | nil => exact List.mem_singleton_self a
  | cons k rest ih =>
    simp only [setIns]
    split
    · exact List.mem_cons_self
    · split
      next heq => exact heq ▸ List.mem_cons_self
      next => exact List.mem_cons_of_mem _ ih

theorem not_mem_setDel_self (l : List Nat) (a : Nat) : a ∉ setDel l a := by simp [setDel]

/-- A vector that the host enables or disables stands in the set of enabled vectors, or does not (R258). -/
theorem execMsixVectorEnable_spec (hq : s.plat? p = some q) {vec : Nat} (hvec : vec < 2048) (on : Bool) :
    ∃ t q', exec (.msixVectorEnable p vec on) s = .next t ∧ t.plat? p = some q' ∧ q'.msix = if on then setIns q.msix vec else setDel q.msix vec :=
  ⟨_, _, rfl, State.plat?_updPlat_self hq (fun d => by split <;> rfl), by rw [if_pos hvec]⟩

theorem execCxlEnable_of_plat? (hq : s.plat? p = some q) : exec .cxlEnable (onEvent s (.pkg p)) =
    .next ((onEvent s (.pkg p)).updPlat p (fun q => { q with cxl := true })) := by
  show execCxlEnable (onEvent s (.pkg p)) = _
  simp only [execCxlEnable, State.eventPkg_onEvent hq, Platform.pkg_of_plat? hq]

/-- A platform that has met an attestation request: what the responder answers stands last, ciphered in the session that the request comes in (R265). -/
def Platform.answered (q : Platform) (r : SpdmReq) : Platform :=
  match q.respond r.ask with
  | some (code, bs, session) =>
    if r.secured then (match q.session with
      | some k => { q with spdm := q.spdm ++ [(code, Config.sm4Gcm k bs)], session := session }
      | none => q)
    else { q with spdm := q.spdm ++ [(code, bs)], session := session }
  | none => q

@[simp] theorem Platform.pkg_answered (q : Platform) (r : SpdmReq) : (q.answered r).pkg = q.pkg := by
  unfold Platform.answered
  split
  · split
    · split <;> rfl
    · rfl
  · rfl

/-- An attestation request changes the platform of its package to one that has answered it (R265). -/
theorem execSpdmRequest_spec (hq : s.plat? p = some q) (r : SpdmReq) :
    ∃ t, exec (.spdmRequest p r) s = .next t ∧ t.plat? p = some (q.answered r) :=
  ⟨_, rfl, State.plat?_updPlat_self (f := (·.answered r)) hq (Platform.pkg_answered · r)⟩

section
variable {r : SpdmReq} {code : Nat} {bs : List Byte} {session : Option (BitVec 128)} (hr : q.respond r.ask = some (code, bs, session))
include hr

theorem Platform.answered_of_plain (hplain : r.secured = false) :
    q.answered r = { q with spdm := q.spdm ++ [(code, bs)], session := session } := by
  simp only [Platform.answered, hr, hplain, Bool.false_eq_true, if_false]

theorem Platform.answered_of_secured (hsecured : r.secured = true) {k : BitVec 128} (hk : q.session = some k) :
    q.answered r = { q with spdm := q.spdm ++ [(code, Config.sm4Gcm k bs)], session := session } := by
  simp only [Platform.answered, hr, hsecured, hk, if_true]

end

end

/-- Settles O56: an access is performed or waits as the addresses of its bytes say, and each setting is one change of the package's platform. -/
theorem hostEventsComplete : Obligations.HostEventsComplete := by
  refine ⟨hostBytes, fun s p q hq => ⟨?bar, execHostMemoryAccess_resume hq, ?cxlMem,
    fun r => ⟨_, execHostMemoryAccess_regRead hq r, State.plat?_updPlat_self hq fun _ => rfl⟩,
    fun v => ⟨fun hmul hlow hrec => ?apbaseTakes, fun hbad => ?apbaseKeeps⟩,
    fun v hrec => ⟨_, execHostMemoryAccess_setReclen hq v hrec, State.plat?_updPlat_self hq fun _ => rfl⟩,
    fun vec hvec => ⟨?enables, ?disables⟩,
    ⟨_, execCxlEnable_of_plat? hq, State.plat?_updPlat_self hq fun _ => rfl⟩,
    fun r code bs session hr => ⟨fun hplain => ?plain, fun k hsecured hk => ?secured⟩,
    fun name idx => ⟨rfl, rfl⟩⟩⟩
  case bar =>
    intro off n hn as held
    have hread := execHostMemoryAccess_of_range hq (State.hostRange_barRead hq hn)
    have hwrite := fun (bs : List Byte) (hlen : bs.length = n) => execHostMemoryAccess_of_range hq (State.hostRange_barWrite hq hlen hn)
    constructor
    · intro hfree
      have hfree : ¬ held = true := Bool.eq_false_iff.1 hfree
      exact ⟨hread.trans (if_neg hfree), fun bs hlen => (hwrite bs hlen).trans (if_neg hfree)⟩
    · intro hheld
      exact ⟨hread.trans (if_pos hheld), fun bs hlen => (hwrite bs hlen).trans (if_pos hheld)⟩
  case cxlMem =>
    intro pa n hcxl hrec hfirst hfree
    have hread := execHostMemoryAccess_of_range hq (State.hostRange_memRead hq hcxl hrec pa n)
    have hwrite := fun (bs : List Byte) (hlen : bs.length = n) => execHostMemoryAccess_of_range hq (State.hostRange_memWrite hq hcxl hrec pa hlen)
    simp only [hfirst, hfree, hrec, Bool.or_self, Bool.false_eq_true, if_false, Bool.not_false] at hread hwrite
    exact ⟨hread, hwrite⟩
  case apbaseTakes =>
    exact ⟨_, (execHostMemoryAccess_setApbase hq v).trans (if_pos ⟨hmul, hlow, hrec⟩), State.plat?_updPlat_self hq fun _ => rfl⟩
  case apbaseKeeps =>
    refine (execHostMemoryAccess_setApbase hq v).trans (if_neg fun ⟨hmul, hlow, hrec⟩ => ?_)
    rcases hbad with hoff | hhigh | hrecovery
    · exact hoff hmul
    · exact Nat.not_lt.2 hhigh hlow
    · exact Bool.false_ne_true (hrec.symm.trans hrecovery)
  case enables =>
    obtain ⟨t, q', ht, hq', hmsix⟩ := execMsixVectorEnable_spec hq hvec true
    exact ⟨t, q', ht, hq', hmsix ▸ mem_setIns_self _ _⟩
  case disables =>
    obtain ⟨t, q', ht, hq', hmsix⟩ := execMsixVectorEnable_spec hq hvec false
    exact ⟨t, q', ht, hq', hmsix ▸ not_mem_setDel_self _ _⟩
  case plain =>
    rw [← Platform.answered_of_plain hr hplain]
    exact execSpdmRequest_spec hq r
  case secured =>
    rw [← Platform.answered_of_secured hr hsecured hk]
    exact execSpdmRequest_spec hq r

end Sys2Proof.Machine
end

section
/-! PROOFS. Requests that are lost or repeated (R201, R202, R205 to R207): trimmed headers and what asks for their messages, the source's copies, the
tables of the homes, and errors on their way back. -/

namespace Sys2Proof.Machine

open Sys2Proof Claims

/-! ## Trimmed headers (R201, R202) -/

/-- The trimmed header of a message that its ingress has recorded before. -/
def State.oldTrim (s : State) (p : Pkg) (die : Nat) (m : Msg) : Option TrimEntry :=
  s.trims.find? (fun e => e.pkg == p && e.die == die && e.space == m.space && e.seq == m.seq && e.msg.body == m.body)

/-- A die ingress that has taken in a trimmed header: the header counts for the bent of its message and restarts the timer of the request that a trimmed
reply answers, and the one recorded before it is gone (R201, R203, R208). -/
def State.noteHeader (s : State) (m : Msg) : State :=
  let t := s.takeIn m
  let t := match s.bentOf m with
    | some br => t.updBent br (fun b => { b with trimCnt := satInc b.trimCnt })
    | none => t
  let t := match m.body with
    | .rep id _ => t.updReq id (fun r => { r with deadline := s.now + 4000000 })
    | _ => t
  t.arrivedWhole m

theorem State.noteHeader_mem (s : State) (m : Msg) : (s.noteHeader m).mem = s.mem := by
  unfold State.noteHeader
  split <;> cases m.body <;> rfl

/-- What a die ingress records of a trimmed header, the n-th of its message: it is due after 64 cycles, doubled for each header before (R201). -/
def State.trimRecord (s : State) (p : Pkg) (die : Nat) (m : Msg) (n : Nat) : TrimEntry :=
  { pkg := p, die := die, space := m.space, seq := m.seq, n := n, due := some (s.now + 64 * 2 ^ (n - 1)),
    msg := { m with trim := false, vc := m.kind.vc } }

section
variable {s : State} {p : Pkg} {die : Nat} {m : Msg}

/-- The header of a message that is still to come is recorded, and the ninth ends its message (R201, R202). -/
theorem execTrimmedHeaderArrival_of_unsettled (hm : s.atIngress p die (·.trim) = some m) (hset : s.settledMsg m = false)
    (hroom : (s.oldTrim p die m).isSome = true ∨ (s.trims.filter (fun e => e.pkg == p && e.die == die)).length < 1024) :
    let n := (s.oldTrim p die m).elim 0 (·.n) + 1
    exec (.trimmedHeaderArrival p die) s =
      if 9 ≤ n then .next ((s.noteHeader m).exhaust p die { m with trim := false, vc := m.kind.vc })
      else .next { s.noteHeader m with trims := (s.noteHeader m).trims ++ [s.trimRecord p die m n] } := by
  have hfull : ((s.oldTrim p die m).isNone && 1024 ≤ (s.trims.filter (fun e => e.pkg == p && e.die == die)).length) = false := by
    rcases hroom with hold | hlt
    · simp [Option.isSome_iff_ne_none.1 hold]
    · simp [hlt]
  show execTrimmedHeaderArrival p die s = _
  unfold State.oldTrim at hfull
  simp only [execTrimmedHeaderArrival, hm, hfull, hset, Bool.false_eq_true, if_false]
  rfl

/-- The ingress asks for the message of a recorded header whose time has come (R201, R202). -/
theorem execRereqTimer_of_due {idx d : Nat} {e : TrimEntry} (he : (s.trims.filter (fun e => e.pkg == p && e.die == die))[idx]? = some e)
    (hdue : e.due = some d) (hd : d ≤ s.now) :
    ∃ unit, exec (.rereqTimer p die idx) s = .next ((({ s with trims := updIf s.trims (· == e) (fun e => { e with due := none }) } : State).count
      .rereq p (portVc die e.msg.vc)).sendHeader .rereq (dieCell p die) e.msg.src e.msg.part unit e.space e.seq e.msg.tag e.msg.body) := by
  show ∃ unit, execRereqTimer p die idx s = _
  simp only [execRereqTimer, he, hdue, if_neg (Nat.not_lt.2 hd)]
  exact ⟨_, rfl⟩

/-- The egress that is asked for a request sends its copy again (R202). -/
theorem execRereqArrival_of_copy {id : Nat} {sp : Space} {c : TxCopy} (hm : s.atIngress p die (fun m => m.kind == .rereq && !m.trim) = some m)
    (hbody : m.body = .req id) (hspace : m.space = some sp) (hc : s.copies.find? (fun c => c.space == sp && c.seq == m.seq) = some c) :
    exec (.rereqArrival p die) s = .next (((s.takeIn m).count .resent p (portVc die c.msg.vc)).resend c.msg) := by
  show execRereqArrival p die s = _
  simp only [execRereqArrival, hm, hbody, hspace, hc]

end

/-! ## The table of a home (R205, R206) -/

/-- A request that goes to its home. -/
def State.goHome (s : State) (id : Nat) : State := s.updReq id (fun r => { r with stage := .home, reply := none })

section
variable {s : State} {p : Pkg} {die id : Nat} {m : Msg} {sp : Space} {r : Req} {d : Dedup}
variable (hm : s.atIngress p die (fun m => m.kind.vc == 1 && !m.trim) = some m) (hbody : m.body = .req id) (hspace : m.space = some sp)
  (hr : s.req? id = some r) (htag : s.tagInPart p m.part m.tag = true)

include hm hbody hspace hr htag

/-- The first request of a space takes a free table (R206). -/
theorem execRequestDedup_first (hnone : s.dedups.find? (·.holds sp) = none) (hroom : (s.dedups.filter (·.pkg == p)).length < 4096) :
    let d : Dedup := { pkg := p, die := die, part := m.part, spkg := m.src.pkg, sdie := m.src.die, hi := 0, entries := [] }
    exec (.requestDedup p die) s = .next (((s.takeIn m).putDedup (d.accept m.seq m.seq id)).goHome id) := by
  show execRequestDedup p die s = _
  simp only [execRequestDedup, hm, hbody, hspace, hr, htag, hnone, if_neg (Nat.not_le.2 hroom), Bool.not_true, Bool.false_eq_true, if_false]
  rfl

/-- A home with a table for the space: a SEQ above HI moves HI up to it; one at or below HI is accepted where the table does not hold it, dropped while it
is performed, and answered by the reply that the table keeps; one that HI has passed by more than 255 is refused (R205). -/
theorem execRequestDedup_of_table (hd : s.dedups.find? (·.holds sp) = some d) :
    let k := (d.hi + 512 - m.seq) % 512
    let t := s.takeIn m
    exec (.requestDedup p die) s = .next
      (if 384 ≤ k then (t.putDedup (d.accept m.seq m.seq id)).goHome id
      else if k ≤ 255 then (d.entries.find? (·.seq == m.seq)).elim ((t.putDedup (d.accept d.hi m.seq id)).goHome id) (fun x =>
        x.reply.elim (t.count .dupdrop p (portVc die 1)) (fun a =>
          (((t.count .cached p (portVc die 1)).count .resent p (portVc die 2)).updReq id (fun r => { r with stage := .toIssuer })).sendReply
            { r with seq := m.seq } sp a))
      else (t.count .stale p (portVc die 1)).sendError (dieCell p die) m.src m.part (.cont id) (some sp) m.seq m.tag (some id)
        Cause.staleReplay.code 0 r.va) := by
  show execRequestDedup p die s = _
  simp only [execRequestDedup, hm, hbody, hspace, hr, htag, hd, Bool.not_true, Bool.false_eq_true, if_false]
  split
  · rfl
  · split
    · cases d.entries.find? (·.seq == m.seq) with
      | none => rfl
      | some x => cases hx : x.reply <;> simp only [hx, Option.elim]
    · rfl

end

/-! ## Errors (R207) -/

section
variable {s : State} {n id code cause addr part sd dd vc : Nat} {m : Msg} {req rank : Option Nat} {r : Req} {sp dp : Pkg}

/-- An ERROR ends the request whose continuation it names, and releases the copy of it (R198, R207). -/
theorem execErrorArrival_of_request (hm : s.inbox.find? (fun m => m.mid == n && m.kind == .error) = some m)
    (hbody : m.body = .err req rank code cause addr) (hunit : m.unit = .cont id) (hspace : m.space = some (.vc part sp sd dp dd vc))
    (hr : s.req? id = some r) (hkind : r.kind ≠ .rstp) (hfrozen : r.stage ≠ .frozen) (hreply : r.stage ≠ .reply) (hwaited : r.lingers = false) :
    exec .errorArrival (onEvent s (.num n)) = .next ((((onEvent s (.num n)).takeIn m).release (.vc part sp sd dp dd vc) m.seq).reqError r
      { cause := errorCause code, addr := addr, aux := cause }) := by
  have hm' : (onEvent s (.num n)).inbox.find? (fun m => m.mid == n && m.kind == .error) = some m := hm
  show execErrorArrival (onEvent s (.num n)) = _
  simp only [execErrorArrival, State.cur_onEvent, hm', hbody, hunit, hspace, State.req?_onEvent, hr, hkind, hfrozen, hreply, hwaited, decide_false,
    Bool.false_and, or_self, Bool.false_eq_true, if_false]

end

/-- Settles O59: a header by its number among those of its message, a sequenced request by how far its SEQ lies below HI, and an ERROR at the request
that its continuation names. -/
theorem retransmissionEventsComplete : Obligations.RetransmissionEventsComplete := by
  intro s p die
  refine ⟨fun m hm hset => ?header, fun _ _ _ => execRereqTimer_of_due, fun _ _ _ _ => execRereqArrival_of_copy,
    fun m id sp r hm hbody hspace hr htag => ⟨execRequestDedup_first hm hbody hspace hr htag, fun d hd => ?table⟩,
    fun _ _ _ _ _ _ _ _ _ _ _ _ _ _ _ => execErrorArrival_of_request⟩
  case header =>
    intro old n hroom
    have hexec := execTrimmedHeaderArrival_of_unsettled hm hset hroom
    refine ⟨fun hn => ?recorded, fun hn => ⟨_, s.noteHeader_mem m, hexec.trans (if_pos hn)⟩⟩
    case recorded =>
      exact ⟨_, s.trimRecord p die m n, hexec.trans (if_neg (Nat.not_le.2 hn)), List.mem_append_right _ (List.mem_singleton_self _), rfl, rfl, rfl, rfl,
        s.noteHeader_mem m⟩
  case table =>
    have hexec := execRequestDedup_of_table hm hbody hspace hr htag hd
    refine ⟨fun hk => ?newer, fun hk he => ?late, fun hk x he => ⟨fun hx => ?pending, fun a hx => ?done⟩, fun hlow hhigh => ?stale⟩
    case newer => rw [hexec, if_pos hk]; rfl
    case late => rw [hexec, if_neg (by omega), if_pos hk, he]; rfl
    case pending => rw [hexec, if_neg (by omega), if_pos hk, he, Option.elim_some, hx]; rfl
    case done => rw [hexec, if_neg (by omega), if_pos hk, he, Option.elim_some, hx]; rfl
    case stale => rw [hexec, if_neg (by omega), if_neg (by omega)]

end Sys2Proof.Machine
end

section
/-! PROOFS. Messages, SACKs and links (R193 to R196, R198, R204, R208, R224): which message an output sends and where it comes to stand, the windows of
ordered messages and what acknowledges them, and links that err or go down. -/

namespace Sys2Proof.Machine

open Sys2Proof Claims

/-! ## Outputs (R194 to R196) -/

/-- An output serves every channel (R195). -/
theorem mem_vcOrder {vc : Nat} (h : vc < 8) (now : Nat) : vc ∈ vcOrder now := by
  rcases (by omega : vc = 7 ∨ vc = 6 ∨ vc < 6) with rfl | rfl | hlow
  · exact List.mem_cons_self
  · exact List.mem_cons_of_mem _ List.mem_cons_self
  · have hturn : (now + (vc + 6 - now % 6) % 6) % 6 = vc := by omega
    exact List.mem_append_right _ (List.mem_map.2 ⟨_, List.mem_range.2 (Nat.mod_lt _ (by decide)), hturn⟩)

/-- A search of the channels that answers at one of them alone finds that answer, wherever the rotation begins (R195). -/
theorem findSome?_vcOrder {α : Type} {vc : Nat} (h : vc < 8) (now : Nat) (a : α) :
    (vcOrder now).findSome? (fun v => if vc = v then some a else none) = some a := by
  obtain ⟨b, hb⟩ := Option.isSome_iff_exists.1
    (List.findSome?_isSome_iff.2 ⟨vc, mem_vcOrder h now, by rw [if_pos rfl]; rfl⟩ :
      ((vcOrder now).findSome? (fun v => if vc = v then some a else none)).isSome = true)
  obtain ⟨v, _, hv⟩ := List.exists_of_findSome?_eq_some hb
  rw [hb, ← hv]
  split at hv
  · rw [if_pos ‹_›]
  · cases hv

/-- A state whose queue has sent its first message: an empty queue is gone. -/
def State.sentFrom (s : State) (q : FQueue) (rest : List Msg) : State :=
  { s with fqueues := (updIf s.fqueues (· == q) (fun q => { q with msgs := rest })).filter (fun q => !q.msgs.isEmpty) }

section
variable {s : State} {n out : Node}

/-- An output with one queue sends that queue's first message, if it can go (R195). -/
theorem execFlitHop_of_queue {q : FQueue} (hq : s.fqueues.filter (fun q => q.node == n && q.out == out) = [q]) (hvc : q.vc < 8) {t : State}
    (hmove : s.moveHead q = some t) : exec (.flitHop n out) s = .next t := by
  have hserve : (fun v => ([q].filter (·.vc == v)).findSome? (fun q => s.moveHead q)) = fun v => if q.vc = v then some t else none := by
    funext v
    by_cases h : q.vc = v <;> simp [h, hmove]
  show execFlitHop n out s = _
  simp only [execFlitHop, hq, hserve, findSome?_vcOrder hvc, Option.getD_some]

/-- The first message of a queue towards another router crosses its link, or turns back where the link is down (R195, R208). -/
theorem State.moveHead_of_link {q : FQueue} {m : Msg} {rest : List Msg} (hm : q.msgs = m :: rest) (hout : q.out ≠ q.node) :
    s.moveHead q = if s.hopDown q.node q.out then some ((s.sentFrom q rest).bounce q.node m)
      else (s.sentFrom q rest).standsAt q.node q.out { m with sub := (s.sentFrom q rest).subAfter q.node q.out m.sub } := by
  simp only [State.moveHead, hm, if_neg hout]
  rfl

end

/-! ## A message at a router (R195, R196, R209, R212, R224) -/

section
variable {s : State} {n r : Node} {m : Msg}

/-- A token outside the range of its partition goes no further than the ingress of the die that it enters (R224). -/
theorem State.standsAt_of_drop {c : CellId} (h : s.ingressDrops n r m = some c) : s.standsAt n r m = some (s.ingressRange c.pkg c.die m.part m.tag) := by
  simp only [State.standsAt, h]

variable (hkeep : s.ingressDrops n r m = none) (htree : m.isTree = false)

include hkeep htree

/-- A message with no way on is at its goal, or turns back (R196; log 19). -/
theorem State.standsAt_of_end (h : s.nextNode r m.dst m.hubUnit = none) :
    s.standsAt n r m = if s.atGoal r m.dst m.hubUnit then s.arrivesAt n r m else some (s.bounce r m) := by
  simp only [State.standsAt, hkeep, htree, h, Bool.false_eq_true, if_false]

/-- A message that no reduction slot takes goes on to its next output (R195, R212). -/
theorem State.standsAt_of_next {next : Node} (h : s.nextNode r m.dst m.hubUnit = some next) (hslot : s.intoSlot r next m = none) :
    s.standsAt n r m = s.toOutput r next m := by
  simp only [State.standsAt, hkeep, htree, h, hslot, Bool.false_eq_true, if_false]

omit hkeep htree

/-- The ingress keeps a trimmed header until it is noted (R201). -/
theorem State.arrivesAt_of_trim (h : m.trim = true) : s.arrivesAt n r m = some { s with inbox := s.inbox ++ [m] } := if_pos h

/-- The ingress keeps a read request for an event of its own (R205). -/
theorem State.arrivesAt_of_rdreq {id : Nat} (htrim : m.trim = false) (hkind : m.kind = .rdreq) (hbody : m.body = .req id) (htag : s.tagLost m = false)
    (hspace : m.space = none) : s.arrivesAt n r m = some { s with inbox := s.inbox ++ [m] } := by
  simp only [State.arrivesAt, htrim, htag, hkind, hbody, hspace, Option.isSome_none, Bool.false_eq_true, if_false]

end

/-- Counting changes the RAS counters alone (R203). -/
theorem State.count_eq (s : State) (name : RasName) (pkg : Pkg) (idx : Nat) : ∃ c, s.count name pkg idx = { s with ras := c } := by
  simp only [State.count]
  split <;> exact ⟨_, rfl⟩

/-- A message enters an output whose slots hold it, whole or trimmed, and changes the router queues and the counters alone (R194, R195, R199). -/
theorem State.toOutput_of_free {s : State} {node out : Node} {m : Msg} (h : OutputFree s node out m) :
    ∃ qs c, s.toOutput node out m = some { s with fqueues := qs, ras := c } := by
  simp only [State.toOutput, if_pos h.1, if_pos h.2]
  split
  · obtain ⟨qs, hqs, _⟩ := s.enqueue_spec node out 7 m.sub { m with trim := true, vc := 7 }
    obtain ⟨c, hc⟩ := State.count_eq { s with fqueues := qs } .trimmed node.port.1 (portVc node.port.2 m.vc)
    exact ⟨qs, c, by rw [hqs, hc]⟩
  · obtain ⟨qs, hqs, _⟩ := s.enqueue_spec node out m.vc m.sub m
    exact ⟨qs, s.ras, by rw [hqs]⟩

/-- The message that an output with one queue sends, by what stands in its way (R193 to R196, R208, R224). -/
theorem flitHop_completes {s : State} {n out : Node} {q : FQueue} {m : Msg} {rest : List Msg}
    (hq : s.fqueues.filter (fun q => q.node == n && q.out == out) = [q]) (hvc : q.vc < 8) (hm : q.msgs = m :: rest) (hout : out ≠ n) :
    (s.hopDown n out = true → exec (.flitHop n out) s = .next ((s.sentFrom q rest).bounce n m)) ∧
    (s.hopDown n out = false → ∀ t, (s.sentFrom q rest).standsAt n out { m with sub := (s.sentFrom q rest).subAfter n out m.sub } = some t →
      exec (.flitHop n out) s = .next t) := by
  obtain ⟨hnode, rfl⟩ : q.node = n ∧ q.out = out := by
    have hmem : q ∈ s.fqueues.filter (fun q => q.node == n && q.out == out) := hq ▸ List.mem_singleton_self q
    simpa using (List.mem_filter.1 hmem).2
  subst hnode
  have hmove := State.moveHead_of_link (s := s) hm hout
  refine ⟨fun hdown => execFlitHop_of_queue hq hvc (hmove.trans (if_pos hdown)), fun hup t ht => execFlitHop_of_queue hq hvc ?_⟩
  rw [hmove, hup, if_neg Bool.false_ne_true, ht]

/-! ## Windows and SACKs (R198, R204) -/

section
variable {s : State} {p : Pkg} {die : Nat}

/-- The request next in its window goes to its home while nothing of its space is performed (R204). -/
theorem execOrderedMessageDelivery_of_next {idx id : Nat} {w : Reorder} {m : Msg} {r : Req}
    (hw : (s.reorders.filter (fun w => w.space.home.pkg == p && w.space.home.die == die))[idx]? = some w)
    (hm : w.held.find? (·.seq == w.next) = some m) (hfree : s.performing w.space = false) (hbody : m.body = .req id) (hr : s.req? id = some r)
    (htag : s.tagInPart p m.part m.tag = true) :
    exec (.orderedMessageDelivery p die idx) s = .next ((s.putWindow
      (({ w with held := w.held.erase m, next := (w.next + 1) % 512 } : Reorder).skip 512)).updReq id (fun r =>
      { r with stage := .home, reply := none })) := by
  show execOrderedMessageDelivery p die idx s = _
  simp only [execOrderedMessageDelivery, hw, hm, hfree, hbody, hr, htag, Bool.not_true, Bool.false_eq_true, if_false]

/-- A window with something to acknowledge sends one SACK for all of it (R204). -/
theorem execSackSend_of_window {i part sd dd vc : Nat} {w : Reorder} {sp dp : Pkg} (hw : s.reorders[i]? = some w) (hdue : w.unsacked ≠ 0)
    (hspace : w.space = .vc part sp sd dp dd vc) :
    exec .sackSend (onEvent s (.num i)) = .next (((onEvent s (.num i)).putWindow { w with unsacked := 0 }).sendHeader .sack w.space.home
      (dieCell sp sd) part .egress (some w.space) (s.lastDone w) (BitVec.ofNat 32 (part + 16 * vc)) .empty) := by
  have hw' : (onEvent s (.num i)).reorders[i]? = some w := hw
  have hlast : (onEvent s (.num i)).lastDone w = s.lastDone w := rfl
  show execSackSend (onEvent s (.num i)) = _
  simp only [execSackSend, State.cur_onEvent, hw', if_neg hdue, State.sack, hlast]
  rw [hspace]

/-- A SACK ends every message of its space at or before its SEQ (R198). -/
theorem execSackArrival_of_sack {m : Msg} {sp : Space} (hm : s.atIngress p die (fun m => m.kind == .sack && !m.trim) = some m)
    (hspace : m.space = some sp) : exec (.sackArrival p die) s =
      .next ((s.copies.filter (fun c => c.space == sp && (m.seq + 512 - c.seq) % 512 < 256)).foldl (fun t c => t.sacked c) (s.takeIn m)) := by
  show execSackArrival p die s = _
  simp only [execSackArrival, hm, hspace]

end

/-! ## Links (R186, R208) -/

theorem execLinkCrcRetry_of_edge {s : State} {n out : Node} (beat : Nat) (h : edgeOut n out = true) :
    exec (.linkCrcRetry n out beat) s = .next (s.count .linkretry n.pkg (retryIdx n)) := by
  show execLinkCrcRetry n out beat s = _
  rw [execLinkCrcRetry, if_pos h]

/-- A link as LINK_DOWN adds it to those that are down: once. -/
def withDown (l : List DownLink) (x : DownLink) : List DownLink := if l.contains x then l else l ++ [x]

theorem mem_withDown (l : List DownLink) (x d : DownLink) : d ∈ withDown l x ↔ d ∈ l ∨ d = x := by
  unfold withDown
  split
  · next h => exact ⟨.inl, fun hd => hd.elim id fun heq => heq ▸ List.contains_iff_mem.1 h⟩
  · simp

/-- LINK_DOWN adds both directions to the links that are down (R208). -/
theorem execLinkDown_eq (s : State) (p : Pkg) (e : Edge) (half : Nat) :
    let here : DownLink := { pkg := p, edge := e, half := half }
    let there : DownLink := { pkg := s.neighbour p e, edge := e.opposite, half := half }
    exec (.linkDown p e half) s = .next { s with down := withDown (withDown s.down here) there } := rfl

/-- Settles O58: a hop by what stands in the way of the first message, a window by its next message and by what it has to acknowledge, and a link by its
two directions. -/
theorem fabricEventsComplete : Obligations.FabricEventsComplete := by
  intro s
  refine ⟨fun n out t hmoves => ?firstThatCan, fun n out q m rest hq hvc hm hout => ?hop, fun _ _ _ _ _ _ _ => execOrderedMessageDelivery_of_next,
    fun _ _ _ _ _ _ _ _ => execSackSend_of_window, fun _ _ _ _ => execSackArrival_of_sack, fun _ _ => execLinkCrcRetry_of_edge,
    fun p e half => ⟨_, execLinkDown_eq s p e half, ?here, ?there, fun d hd => ?kept, rfl⟩⟩
  case firstThatCan =>
    show execFlitHop n out s = _
    simp only [execFlitHop, hmoves, Option.getD_some]
  case hop =>
    intro s1 m1
    obtain ⟨hdown, hup⟩ := flitHop_completes hq hvc hm hout
    refine ⟨hdown, fun c h hdrop => hup h _ (State.standsAt_of_drop hdrop), fun h hkeep htree => ?_⟩
    have hend (hnone : s1.nextNode out m.dst m.hubUnit = none) := State.standsAt_of_end (m := m1) hkeep htree hnone
    refine ⟨fun hnone hgoal => hup h _ ((hend hnone).trans (if_neg (Bool.eq_false_iff.1 hgoal))), fun nx hnext hslot hfree => ?onward,
      fun hnone hgoal htrim => hup h _ ((hend hnone).trans ?trimmed), fun id hnone hgoal htrim hkind hbody htag hspace =>
        hup h _ ((hend hnone).trans ?request)⟩
    case onward =>
      obtain ⟨_, _, ht⟩ := State.toOutput_of_free hfree
      exact ⟨_, ht, hup h _ ((State.standsAt_of_next hkeep htree hnext hslot).trans ht)⟩
    case trimmed => exact (if_pos hgoal).trans (State.arrivesAt_of_trim htrim)
    case request => exact (if_pos hgoal).trans (State.arrivesAt_of_rdreq htrim hkind hbody htag hspace)
  case here => exact (mem_withDown ..).2 (.inl ((mem_withDown ..).2 (.inr rfl)))
  case there => exact (mem_withDown ..).2 (.inr rfl)
  case kept => exact (mem_withDown ..).2 (.inl ((mem_withDown ..).2 (.inl hd)))

end Sys2Proof.Machine
end

section
/-! PROOFS. Groups (R194, R195, R197, R209 to R213, R307, R367, R369): AGRP and the trees it installs, MCRED and MCST as they issue, and the messages of
groups in the routers. -/

namespace Sys2Proof.Machine

open Sys2Proof Claims

/-! ## Messages of groups (R194, R195, R197, R209, R212) -/

/-- Injecting a message changes the router queues alone (R195). -/
theorem State.inject_eq (s : State) (n : Node) (m : Msg) : ∃ qs, s.inject n m = { s with fqueues := qs } :=
  let ⟨qs, h, _⟩ := s.enqueue_spec (s.standing n) (s.standing n) m.vc 0 m
  ⟨qs, h⟩

/-- An operation leaves where no route of it crosses a die edge, or its space and the retransmit buffer have room (R197, R209). -/
theorem State.mcSend_of_room {s : State} {m : McOp} (h : OpCanLeave s m) : ∃ t, s.mcSend m = some t := by
  rcases h with hnear | hroom
  · simp only [State.mcSend, hnear, Bool.not_false, if_true]
    exact ⟨_, rfl⟩
  · simp only [State.mcSend, hroom, Bool.not_true, Bool.and_false, Bool.false_eq_true, if_false]
    split <;> exact ⟨_, rfl⟩

theorem State.branch_of_up {s : State} {k : McCopy} {out : Node} (h : s.hopDown k.node out = false) : s.branch k out = s.toOutput k.node out k.msg := by
  simp only [State.branch, h, Bool.false_eq_true, if_false]

/-- A copy goes on to an output that is down, where it is lost, or has room (R194, R195, R208, R209). -/
theorem State.branch_of_room {s : State} {k : McCopy} {out : Node} (h : s.hopDown k.node out = true ∨ OutputFree s k.node out k.msg) :
    ∃ t, s.branch k out = some t := by
  cases hdown : s.hopDown k.node out with
  | true => exact ⟨_, if_pos hdown⟩
  | false =>
    obtain ⟨_, _, ht⟩ := State.toOutput_of_free (h.resolve_left (by simp [hdown]))
    exact ⟨_, (State.branch_of_up hdown).trans ht⟩

/-- A new number changes no way around fenced routers (log 19). -/
theorem State.newId_around (s : State) (c : CellId) (k : Nat) (seen front : List CellId) : s.newId.2.around c k seen front = s.around c k seen front := by
  induction k generalizing seen front with
  | zero => rfl
  | succ k ih => simp only [State.around, ih]; rfl

theorem State.newId_nextCell (s : State) : s.newId.2.nextCell = s.nextCell := by
  funext c goals dst
  simp only [State.nextCell, State.newId_around]
  rfl

/-- A new number changes no route (R196). -/
theorem State.newId_nextNode (s : State) (n : Node) (dst : CellId) (hub : Option Nat) : s.newId.2.nextNode n dst hub = s.nextNode n dst hub := by
  have hout : s.newId.2.nextOut = s.nextOut := by
    funext c e
    simp only [State.nextOut, State.newId_nextCell]
    rfl
  cases n <;> simp only [State.nextNode, State.newId_nextCell, hout] <;> rfl

/-- A contribution leaves a router whose output towards the root is empty, a leaf as the copy that it is, and a combined one as a message of one slot
(R194, R195, R212). -/
theorem State.sendNode_of_room {s : State} {n : Node} {x : RedSlot} (h : NodeCanLeave s n x) : ∃ t, s.sendNode n x = some t := by
  obtain ⟨hempty, hleaf⟩ := h
  have hgoes (out : Node) (hout : s.nextNode n x.root none = some out) (m : Msg) (hm : m.slots ≤ vcSlots m.vc) :
      ∃ t, s.newId.2.toOutput n out { m with sub := x.sub } = some t := by
    have hocc (v : Nat) : s.newId.2.occupancy n out v x.sub = 0 := hempty out hout v
    obtain ⟨_, _, ht⟩ := State.toOutput_of_free (s := s.newId.2) (node := n) (out := out) (m := { m with sub := x.sub })
      ⟨by rw [hocc, Nat.zero_add]; exact hm, by rw [hocc]; decide⟩
    exact ⟨_, ht⟩
  have hcopy : s.newId.2.leafCopy x.n = s.leafCopy x.n := rfl
  simp only [State.sendNode, State.newId_nextNode, hcopy]
  cases hout : s.nextNode n x.root none with
  | none => exact ⟨_, rfl⟩
  | some out =>
    cases hc : s.leafCopy x.n with
    | none => exact hgoes out hout _ (by simp [Msg.slots, MKind.vc, vcSlots])
    | some c => exact hgoes out hout c.msg (hleaf c hc)

theorem groupMessagesLeave : GroupMessagesLeave := by
  refine ⟨fun _ _ => State.mcSend_of_room, fun s node out m hfree => ?output, fun _ _ _ _ hup ht => (State.branch_of_up hup).trans ht,
    fun _ _ _ => State.sendNode_of_room⟩
  case output =>
    obtain ⟨_, _, ht⟩ := State.toOutput_of_free hfree
    exact ⟨_, ht, rfl, rfl⟩

/-! ## AGRP, MCRED and MCST (R210, R211, R307, R367, R369) -/

/-- Putting a request into the state changes the requests and the message numbers alone. -/
theorem State.putReq_eq (s : State) (r : Req) : ∃ rs n, s.putReq r = { s with reqs := rs, nextId := n } := by
  unfold State.putReq
  split
  · exact ⟨_, s.nextId, rfl⟩
  · exact ⟨_, _, rfl⟩

/-- The CONFIG message of a tree changes the router queues and the message numbers alone (R210). -/
theorem State.sendConfig_eq (s : State) (c : Ctx) (part req : Nat) : ∃ qs n, s.sendConfig c part req = { s with fqueues := qs, nextId := n } := by
  obtain ⟨qs, h⟩ := State.inject_eq s.newId.2 (.cell (s.newId.2.srcCell c))
    { mid := s.newId.1, kind := .config, src := s.newId.2.srcCell c, dst := s.newId.2.srcCell c, unit := .cont req, hubDst := false, tag := c.tag,
      len := 0, trim := false, gen := 0, seq := 0, space := none, part := part, sub := 0, body := .install req }
  exact ⟨qs, _, h⟩

/-- No router of a tree has acknowledged it as its entries are made (R210). -/
theorem State.not_acked_treeEntries {s : State} {part group cx cy : Nat} {br : BentRef} {src : CellId} {ms : List Member} {x : GroupEntry}
    (h : x ∈ s.treeEntries part group br cx cy src ms) : x.acked = false := by
  obtain ⟨_, _, rfl⟩ := List.mem_map.1 h
  rfl

/-- A state with a group in place of the one of its number on its AG, and with the entries of its tree, which starts at a cell (R210, R307). -/
def State.plant (s : State) (g : GroupSet) (src : CellId) : State :=
  { s with
    groupSets := s.groupSets.filter (fun x => !(x.br == g.br && x.cx == g.cx && x.cy == g.cy && x.group == g.group)) ++ [g]
    groups := s.groups.filter (fun x => !(x.owner == g.br && x.cx == g.cx && x.cy == g.cy && x.group == g.group)) ++
      s.treeEntries g.part g.group g.br g.cx g.cy src g.members }

/-- A planted group whose CONFIG message has left: memory is as it was, the group stands with its AG, and each of its entries is one of the new tree
(R210). -/
theorem State.plant_spec (s : State) (r : Req) (g : GroupSet) (src : CellId) (c : Ctx) (part : Nat) :
    let u := ((s.putReq r).plant g src).sendConfig c part r.id
    u.mem = s.mem ∧ g ∈ u.groupSets ∧ ∀ x ∈ u.groups, x.owner = g.br → x.cx = g.cx → x.cy = g.cy → x.group = g.group → x.acked = false := by
  obtain ⟨_, _, hput⟩ := s.putReq_eq r
  obtain ⟨_, _, hconfig⟩ := ((s.putReq r).plant g src).sendConfig_eq c part r.id
  have hmem : (s.putReq r).mem = s.mem := by rw [hput]
  simp only [hconfig]
  refine ⟨hmem, List.mem_append_right _ (List.mem_singleton_self g), fun x hx hbr hcx hcy hgroup => ?acked⟩
  case acked =>
    rcases List.mem_append.1 hx with hold | hnew
    · simp [hbr, hcx, hcy, hgroup] at hold
    · exact State.not_acked_treeEntries hnew

section
variable {s : State} {o : SlotOps} {c : Ctx} {e : Elem}

/-- An AGRP whose group is free and whose member list is read plants the group's tree and sends its CONFIG message (R210, R307). -/
theorem execAgrp_of_list (h : Runs s o c) (he : s.elemOf c = some e) (haligned : laneAt c.atok.pay 64 0 % 16 = 0)
    (hunused : s.groupOps c.br e.cx e.cy (o.xf 0 8) = [])
    (hinstalled : s.groupSets.any (fun x => x.br == c.br && x.cx == e.cx && x.cy == e.cy && x.group == o.xf 0 8 && !x.installed) = false)
    {bs : List Byte} {wins : List Window} {t : State} :
    let v := s.vdOf c.br.rid
    let addrs := (List.range (16 * (o.xf 8 6 + 1))).map (fun i => (laneAt c.atok.pay 64 0 + i) % 2 ^ 64)
    let x : Access := { br := c.br, spad := s.srcCell c, loc := false, need := needRd, sh := false, gens := s.gensNow v (addrs.map (· % 2 ^ 55)),
                        tile := false, owner := 0, ag := some (e.cx, e.cy), since := s.nextId }
    s.engineLoad x [] addrs = .ok bs wins t →
    let ms := t.pageDies (s.srcCell c) v ((List.range (o.xf 8 6 + 1)).map (fun r =>
      let m := memberOf ((bs.drop (16 * r)).take 16)
      { m with abs := m.abs || !s.inDomain m.pkg }))
    ∃ r : Req,
      let g : GroupSet := { part := v.part, group := o.xf 0 8, br := c.br, cx := e.cx, cy := e.cy, req := r.id, installed := false, members := ms.1 }
      exec (.agrp o) s = .next (((ms.2.putReq r).plant g (s.srcCell c)).sendConfig c v.part r.id) := by
  intro v addrs x hload ms
  have hload' := hload
  dsimp only [x, addrs, v] at hload'
  show ∃ r, execAgrp o s = _
  simp only [execAgrp, State.runFiring_of_runs h, he, haligned, hunused, hinstalled, hload', ne_eq, not_true, if_false, List.isEmpty_nil, Bool.not_true,
    Bool.or_self, Bool.false_eq_true]
  exact ⟨_, rfl⟩

/-- An operation that finds its group installed and room on its AG issues (R211, R213, R367, R369). -/
theorem State.mcIssue_of_room (he : s.elemOf c = some e) {data : Option W256} {leaf : Nat} (haligned : laneAt c.atok.pay 64 0 % leaf = 0) {g : GroupSet}
    (hg : s.groupSets.find? (fun x => x.br == c.br && x.cx == e.cx && x.cy == e.cy && x.group == o.xf 0 8 && x.installed) = some g)
    (hfresh : s.mcops.find? (fun m => m.br == c.br && m.blk == c.blk && m.slot == c.slot && m.tag == c.tag && m.frozen) = none)
    (hroom : (s.mcops.filter (fun m => m.br == c.br && m.cx == e.cx && m.cy == e.cy)).length < 16) :
    let m : McOp :=
      { id := s.nextId, br := c.br, cx := e.cx, cy := e.cy, blk := c.blk, slot := c.slot, tag := c.tag, a := c.a, b := c.b, p := c.p, data := data,
        group := o.xf 0 8, off := laneAt c.atok.pay 64 0, rnd := BitVec.ofNat 3 (rndOf o.mod (s.rmodeOf c.br c.u)).1.code,
        members := g.members.map (fun x => if x.abs || !s.reachable (s.srcCell c) x then McState.absent else .waiting),
        deadlines := g.members.map (fun _ => s.now + 4000000), nodes := [], space := none, seq := 0, busy := [], frozen := false }
    ∀ t, ({ s with nextId := s.nextId + 1, mcops := s.mcops ++ [m] } : State).mcSend m = some t → s.mcIssue o c data leaf = .next t := by
  intro m t ht
  dsimp only [m] at ht
  simp only [State.mcIssue, he, haligned, hg, hfresh, if_neg (Nat.not_le.2 hroom), bne_self_eq_false, Bool.and_false, Bool.false_eq_true, ne_eq,
    not_true, if_false, State.newId, ht]

/-- MCRED and MCST wait for their group, and MCST looks at its offset first (R211, R369). -/
theorem State.mcIssue_of_no_group (he : s.elemOf c = some e) {data : Option W256} {leaf : Nat}
    (haligned : data.isSome = true → laneAt c.atok.pay 64 0 % leaf = 0)
    (hg : s.groupSets.find? (fun x => x.br == c.br && x.cx == e.cx && x.cy == e.cy && x.group == o.xf 0 8 && x.installed) = none) :
    s.mcIssue o c data leaf = s.wait := by
  have hoff : ¬ (data.isSome && laneAt c.atok.pay 64 0 % leaf != 0) = true := by simpa using haligned
  simp only [State.mcIssue, he, hg, if_neg hoff]

/-- An MCST whose offset is not aligned faults, whatever its group (R369). -/
theorem State.mcIssue_of_misaligned (he : s.elemOf c = some e) {data : W256} {leaf : Nat} (h : laneAt c.atok.pay 64 0 % leaf ≠ 0) :
    s.mcIssue o c (some data) leaf = .next (s.fault c { cause := .misaligned, addr := laneAt c.atok.pay 64 0, wr := true }) := by
  simp only [State.mcIssue, he, Option.isSome_some, Bool.true_and, if_pos (bne_iff_ne.2 h)]

theorem execMcred_of_runs (h : Runs s o c) : exec (.mcred o) s = s.mcIssue o c none (leafBytes o) := s.runFiring_of_runs h _
theorem execMcst_of_runs (h : Runs s o c) : exec (.mcst o) s = s.mcIssue o c (some c.btok.plain.pay) 32 := s.runFiring_of_runs h _

end

theorem groupInstructionsComplete : GroupInstructionsComplete := by
  intro o s c e h he g off
  refine ⟨?agrp, ?issues,
    fun hg => ⟨(execMcred_of_runs h).trans (State.mcIssue_of_no_group he nofun hg),
      fun haligned => (execMcst_of_runs h).trans (State.mcIssue_of_no_group he (fun _ => haligned) hg)⟩,
    fun hoff => (execMcst_of_runs h).trans (State.mcIssue_of_misaligned he hoff)⟩
  case agrp =>
    intro bs wins t haligned hunused hinstalled v addrs x hload ms
    obtain ⟨r, hexec⟩ := execAgrp_of_list h he haligned hunused hinstalled hload
    obtain ⟨hmem, hset, hacked⟩ := State.plant_spec ms.2 r _ (s.srcCell c) c v.part
    exact ⟨_, hexec, hmem, ⟨_, hset, rfl, rfl, rfl, rfl⟩, hacked⟩
  case issues =>
    intro set_ hg hfresh hroom ms op with_ goes
    have hgoes {i : Instr} {data : Option W256} (hissue : ∀ t, (with_ (op data)).mcSend (op data) = some t → exec i s = .next t) : goes i (op data) :=
      ⟨hissue, fun hcan => (State.mcSend_of_room hcan).imp fun t ht => ⟨ht, hissue t ht⟩⟩
    exact ⟨fun haligned => hgoes fun t ht => (execMcred_of_runs h).trans (State.mcIssue_of_room he haligned hg hfresh hroom t ht),
      fun haligned => hgoes fun t ht => (execMcst_of_runs h).trans (State.mcIssue_of_room he haligned hg hfresh hroom t ht)⟩

/-! ## A group at work (R209 to R213) -/

section
variable {s : State}

/-- A router that CONFIG has reached takes its entry while one of its 1,024 is free, and acknowledges (R210). -/
theorem execGroupInstallAck_of_room {req : Nat} {n : Node} {r : Req} {g : GroupSet} (hr : s.req? req = some r)
    (hg : s.groupSets.find? (·.req == req) = some g) (hroom : (s.groups.filter (fun x => x.node == n && x.acked)).length < 1024) :
    let mine := fun (x : GroupEntry) => (x.owner == g.br && x.cx == g.cx && x.cy == g.cy && x.group == g.group) && x.node == n && x.came
    exec (.groupInstallAck req n) s =
      .next (({ s with groups := updIf s.groups mine (fun x => { x with acked := true }) } : State).groupReady r g) := by
  show execGroupInstallAck req n s = _
  simp only [execGroupInstallAck, hr, hg, decide_eq_false (Nat.not_le.2 hroom), Bool.and_false, Bool.false_eq_true, if_false]

/-- A copy goes to the first of its outputs, and leaves once it has gone to all (R209). -/
theorem execMulticastForward_of_branch {i : Nat} {k : McCopy} {out : Node} {rest : List Node} {t : State} (hk : s.mccopies[i]? = some k)
    (hpending : k.pending = out :: rest) (ht : (onEvent s (.num i)).branch k out = some t) :
    exec .multicastForward (onEvent s (.num i)) = .next
      { t with mccopies := if rest.isEmpty then t.mccopies.eraseIdx i else t.mccopies.set i { k with pending := rest } } := by
  have hk' : (onEvent s (.num i)).mccopies[i]? = some k := hk
  show execMulticastForward (onEvent s (.num i)) = _
  simp only [execMulticastForward, State.cur_onEvent, hk', hpending, List.findSome?_cons, ht, Option.map_some, List.erase_cons_head]

/-- A contribution whose sibling has not come in 256 cycles goes on alone (R212). -/
theorem execMcupSlotTimeout_of_sent {i : Nat} {x : RedSlot} {u : State} (hx : s.redslots[i]? = some x) (hlate : x.since + 256 ≤ s.now)
    (hu : ({ onEvent s (.num i) with redslots := s.redslots.erase x } : State).sendNode x.node x = some u) :
    exec .mcupSlotTimeout (onEvent s (.num i)) = .next u := by
  have hx' : (onEvent s (.num i)).redslots[i]? = some x := hx
  have hlate' : ¬ (onEvent s (.num i)).now < x.since + 256 := Nat.not_lt.2 hlate
  show execMcupSlotTimeout (onEvent s (.num i)) = _
  simp only [execMcupSlotTimeout, State.cur_onEvent, hx', if_neg hlate']
  exact congrArg (fun t : Option State => Host.Outcome.next (t.getD (onEvent s (.num i)))) hu

/-- The contribution that waits in a router for another one as its sibling (R212). -/
def State.siblingSlot (s : State) (x : RedSlot) : Option RedSlot :=
  let xn := x.n.lift (s.redN x) 6
  s.redslots.find? (fun y => y.node == x.node && y.n.req == x.n.req && y != x &&
    (let yn := y.n.lift (s.redN x) 6
     yn.k == xn.k && yn.first == xn.sibling))

/-- What two siblings become: one contribution, joined in the order of their ranks (R6, R196, R212). -/
def State.joinSlots (s : State) (x y : RedSlot) : RedSlot :=
  let xn := x.n.lift (s.redN x) 6
  let yn := y.n.lift (s.redN x) 6
  let z := if xn.first < yn.first then joinNodes xn yn else joinNodes yn xn
  { x with sub := Nat.max x.sub y.sub, n := z.lift (s.redN x) 6 }

/-- A state without two contributions that have become one, nor the copies of those that were leaves (R198, R212). -/
def State.withoutPair (s : State) (x y : RedSlot) : State :=
  (({ s with redslots := (s.redslots.erase x).erase y } : State).releaseLeaf x.n).releaseLeaf y.n

/-- Two siblings in a router become one contribution, which goes on (R212). -/
theorem execMcupCombine_of_sent {i : Nat} {x y : RedSlot} {u : State} (hx : s.redslots[i]? = some x) (hy : s.siblingSlot x = some y)
    (hu : ((onEvent s (.num i)).withoutPair x y).sendNode x.node (s.joinSlots x y) = some u) :
    exec .mcupCombine (onEvent s (.num i)) = .next u := by
  have hx' : (onEvent s (.num i)).redslots[i]? = some x := hx
  have hy' : (onEvent s (.num i)).siblingSlot x = some y := hy
  simp only [State.siblingSlot] at hy'
  show execMcupCombine (onEvent s (.num i)) = _
  simp only [execMcupCombine, State.cur_onEvent, hx', hy']
  exact congrArg (fun t : Option State => Host.Outcome.next (t.getD (onEvent s (.num i)))) hu

/-- A member that has been silent for 4,000,000 cycles is absent, and its write is applied late (R213, R369). -/
theorem execMemberAbsentTimeout_of_silent {id rank : Nat} {m : McOp} (hm : s.mcops.find? (·.id == id) = some m)
    (hlate : m.deadlines.getD rank 0 ≤ s.now) (hfrozen : m.frozen = false)
    (hsilent : m.members.getD rank .absent = .waiting ∨ m.members.getD rank .absent = .arrived ∨ m.members.getD rank .absent = .answered) :
    exec (.memberAbsentTimeout id rank) s =
      .next ((s.lateWrite m rank).updOp id (fun m => { m with members := m.members.set rank .absent })) := by
  show execMemberAbsentTimeout id rank s = _
  simp only [execMemberAbsentTimeout, hm]
  exact if_pos ⟨hlate, by rw [hfrozen]; rfl, hsilent⟩

end

theorem groupEventsComplete : GroupEventsComplete := by
  intro s
  refine ⟨fun _ _ _ _ => execGroupInstallAck_of_room,
    fun i k out rest hk hpending => ⟨fun t => execMulticastForward_of_branch hk hpending, fun hroom => ?forwards⟩,
    fun i x hx => ⟨fun y u hy => ⟨execMcupCombine_of_sent hx hy, fun hcan => ?combines⟩, fun hlate =>
      ⟨fun u => execMcupSlotTimeout_of_sent hx hlate, fun hcan => ?timesOut⟩⟩,
    fun _ _ _ => execMemberAbsentTimeout_of_silent⟩
  case forwards =>
    obtain ⟨t, ht⟩ := State.branch_of_room (s := onEvent s (.num i)) hroom
    exact ⟨t, ht, execMulticastForward_of_branch hk hpending ht⟩
  case combines => exact (State.sendNode_of_room hcan).imp fun u hu => ⟨hu, execMcupCombine_of_sent hx hy hu⟩
  case timesOut => exact (State.sendNode_of_room hcan).imp fun u hu => ⟨hu, execMcupSlotTimeout_of_sent hx hlate hu⟩

/-- Settles O40: AGRP plants its tree, MCRED and MCST issue where their group is installed, and every message of a group leaves where its output has
room. -/
theorem groupsComplete : Obligations.GroupsComplete := ⟨groupInstructionsComplete, groupMessagesLeave, groupEventsComplete⟩

end Sys2Proof.Machine
end

section
/-! PROOFS. Queue words (R216, R219, R386 to R394): finding a queue after one is put, and what the word in the latch makes of its queue. -/

namespace Sys2Proof.Machine

open Sys2Proof Claims

/-! ## Finding a queue -/

theorem Queue.key_of_queue? {s : State} {v : VdRef} {q : Nat} {x : Queue} (hx : s.queue? v q = some x) : x.vdr = v ∧ x.q = q := by
  simpa using List.find?_some hx

/-- A queue that is put takes the place of the queue with its own key. -/
theorem State.putQueue_eq_updQueue (s : State) (x : Queue) : s.putQueue x = s.updQueue x.vdr x.q (fun y => { x with vdr := y.vdr, q := y.q }) := by
  have hsame : ∀ y ∈ s.queues, (if (y.vdr == x.vdr && y.q == x.q) = true then x else y) =
      if (y.vdr == x.vdr && y.q == x.q) = true then { x with vdr := y.vdr, q := y.q } else y := by
    intro y _
    split
    next hkey =>
      obtain ⟨hv, hq⟩ : y.vdr = x.vdr ∧ y.q = x.q := by simpa using hkey
      rw [hv, hq]
    next => rfl
  rw [State.putQueue, State.updQueue, State.updQueue, updIf, updIf, List.map_congr_left hsame]

theorem State.queue?_putQueue (s : State) (x : Queue) (u : VdRef) (p : Nat) : (s.putQueue x).queue? u p =
    if u = x.vdr ∧ p = x.q then (s.queue? u p).map (fun y => { x with vdr := y.vdr, q := y.q }) else s.queue? u p := by
  rw [State.putQueue_eq_updQueue]
  exact State.queue?_updQueue _ _ _ _ _ _ fun _ => ⟨rfl, rfl⟩

theorem State.queue?_putQueue_self {s : State} {x y : Queue} (hy : s.queue? x.vdr x.q = some y) : (s.putQueue x).queue? x.vdr x.q = some x := by
  obtain ⟨hv, hq⟩ := Queue.key_of_queue? hy
  rw [State.queue?_putQueue, if_pos ⟨rfl, rfl⟩, hy, Option.map_some, hv, hq]

theorem State.queue?_putQueue_of_ne (s : State) (x : Queue) {u : VdRef} {p : Nat} (hne : (u, p) ≠ (x.vdr, x.q)) :
    (s.putQueue x).queue? u p = s.queue? u p := by
  rw [State.queue?_putQueue, if_neg fun h => hne (Prod.ext h.1 h.2)]

theorem State.vdev?_updVdev_self {s : State} {v : VdRef} {d : Vdev} (hd : s.vdev? v = some d) {f : Vdev → Vdev} (hf : ∀ d, (f d).vdr = d.vdr) :
    (s.updVdev v f).vdev? v = some (f d) := by
  rw [State.vdev?_updVdev s v v f hf, if_pos rfl, hd, Option.map_some]

/-! ## The word in the latch -/

section
variable {s : State} {v : VdRef} {q : Nat} {ws : List W64} {x : Queue} (hcur : s.cur = .word v q ws) (hx : s.queue? v q = some x)
include hcur hx

/-- A word runs on the queue that it was fetched from (R216). -/
theorem State.runWord_of_latch (f : Queue → Host.Outcome State Fault Refusal) : s.runWord f = f x := by
  simp only [State.runWord, State.wordQueue, hcur, hx]

theorem execQwge_of_latch (sem : BitVec 10) (val : W64) : exec (.qwge sem val) s = .next (s.putQueue
    (if val ≤ s.semVal (s.semHome x.vdr).1 ((s.semHome x.vdr).2 + sem.toNat) then x.past
      else { x with state := .wait, work := some (.waitGe ((s.semHome x.vdr).2 + sem.toNat) val) })) :=
  State.runWord_of_latch hcur hx _

theorem execQweq_of_latch (sem : BitVec 10) (val : W64) : exec (.qweq sem val) s = .next (s.putQueue
    (if val = s.semVal (s.semHome x.vdr).1 ((s.semHome x.vdr).2 + sem.toNat) then x.past
      else { x with state := .wait, work := some (.waitEq ((s.semHome x.vdr).2 + sem.toNat) val) })) :=
  State.runWord_of_latch hcur hx _

theorem execQsig_of_latch (sem : BitVec 10) (scope : BitVec 4) (val : W64) : exec (.qsig sem scope val) s =
    if s.postedWait x.vdr scope = true then .next (s.putQueue { x with state := .exec, work := some (.sig sem.toNat val scope.toNat) })
    else .next (s.semWord x sem.toNat (.add val)) :=
  State.runWord_of_latch hcur hx _

theorem execQfnc_of_latch (scope : BitVec 4) : exec (.qfnc scope) s = .next (s.putQueue
    (if s.postedWait x.vdr scope = true then { x with state := .wait, work := some (.fence scope.toNat) } else x.past)) :=
  State.runWord_of_latch hcur hx _

/-- A timer that a QTMR arms stands behind those of other numbers; a delay of zero arms none (R391). -/
theorem execQtmr_of_latch (sem : BitVec 10) (tid : BitVec 3) (delay : BitVec 40) : exec (.qtmr sem tid delay) s =
    .next (s.putQueue { x.past with timers := x.timers.filter (·.tid != tid.toNat) ++
      (if delay = 0 then [] else [{ tid := tid.toNat, due := s.now + delay.toNat, sem := sem.toNat }]) }) := by
  have hrun : exec (.qtmr sem tid delay) s = _ := State.runWord_of_latch hcur hx _
  rw [hrun]
  split <;> simp

/-- QINTR posts its record while the mailbox holds fewer than 64, and its queue goes on (R390). -/
theorem execQintr_of_room {d : Vdev} (hd : s.vdev? x.vdr = some d) (hroom : d.mailbox.length < 64) (vec : BitVec 11) (code : BitVec 32) :
    ∃ t d', exec (.qintr vec code) s = .next t ∧ t.vdev? x.vdr = some d' ∧ d'.mailbox = d.mailbox ++
      [{ part := x.vdr.part, vd := x.vdr.vd, queue := x.q, index := x.qptr, code := code.toNat }] ∧ t.queue? x.vdr x.q = some x.past := by
  obtain ⟨rfl, rfl⟩ := Queue.key_of_queue? hx
  have hrun : exec (.qintr vec code) s = _ := State.runWord_of_latch hcur hx _
  simp only [hd, if_neg (Nat.not_le.2 hroom)] at hrun
  exact ⟨_, _, hrun, State.vdev?_updVdev_self (s := s.putQueue x.past) hd fun _ => rfl, rfl, State.queue?_putQueue_self (x := x.past) hx⟩

theorem execQintr_of_full {d : Vdev} (hd : s.vdev? x.vdr = some d) (hfull : 64 ≤ d.mailbox.length) (vec : BitVec 11) (code : BitVec 32) :
    exec (.qintr vec code) s = .next (s.putQueue { x with state := .exec, work := some (.intr vec.toNat code.toNat) }) := by
  have hrun : exec (.qintr vec code) s = _ := State.runWord_of_latch hcur hx _
  simpa only [hd, if_pos hfull] using hrun

/-- A word that starts a phase leaves its own queue in ADMIT with the phase, and every other queue as it was (R219). -/
theorem exec_enterAdmit_of_latch {i : Instr} {w : QWork} {sem : BitVec 10} {sg : Bool} {add : BitVec 32}
    (hi : exec i s = s.runWord (fun x => .next (s.enterAdmit x w sem sg add))) :
    ∃ t y, exec i s = .next t ∧ t.queue? v q = some y ∧ y.state = .admitting ∧ y.work = some w ∧
      y.sig = (if sg then some (sem.toNat, add.toNat) else none) ∧ y.admitAt = s.now ∧ y.qptr = x.qptr ∧ y.prog = x.prog ∧
      (∀ u p, (u, p) ≠ (v, q) → t.queue? u p = s.queue? u p) := by
  obtain ⟨rfl, rfl⟩ := Queue.key_of_queue? hx
  let y : Queue := { x with
    state := .admitting, work := some w, sig := if sg then some (sem.toNat, add.toNat) else none, admitAt := s.now }
  exact ⟨s.putQueue y, y, hi.trans (State.runWord_of_latch hcur hx _), State.queue?_putQueue_self (x := y) hx, rfl, rfl, rfl, rfl, rfl, rfl,
    fun u p hne => State.queue?_putQueue_of_ne s y hne⟩

end

theorem queueWordsComplete : QueueWordsComplete := by
  intro s v q ws x hcur hx
  refine ⟨State.runWord_of_latch hcur hx _, fun _ => State.runWord_of_latch hcur hx _, fun _ => State.runWord_of_latch hcur hx _,
    fun sem val => ⟨fun hge => ?reaches, fun hlt => ?below, fun heq => ?equals, fun hne => ?differs, State.runWord_of_latch hcur hx _,
      fun sc hfree => ?signals, fun sc hposted => ?held, fun _ _ => State.runWord_of_latch hcur hx _, execQtmr_of_latch hcur hx sem⟩,
    fun sc hfree => ?passes, fun sc hposted => ?waits, fun _ => State.runWord_of_latch hcur hx _,
    fun d vec code hd => ⟨fun hroom => execQintr_of_room hcur hx hd hroom vec code, fun hfull => execQintr_of_full hcur hx hd hfull vec code⟩⟩
  case reaches => rw [execQwge_of_latch hcur hx, if_pos hge]
  case below => rw [execQwge_of_latch hcur hx, if_neg hlt]
  case equals => rw [execQweq_of_latch hcur hx, if_pos heq]
  case differs => rw [execQweq_of_latch hcur hx, if_neg hne]
  case signals => rw [execQsig_of_latch hcur hx, hfree, if_neg Bool.false_ne_true]
  case held => rw [execQsig_of_latch hcur hx, hposted, if_pos rfl]
  case passes => rw [execQfnc_of_latch hcur hx, hfree, if_neg Bool.false_ne_true]
  case waits => rw [execQfnc_of_latch hcur hx, hposted, if_pos rfl]

theorem phaseWordsEnterAdmit : PhaseWordsEnterAdmit := by
  intro s v q ws x sem sg add hcur hx
  refine ⟨fun _ _ _ => exec_enterAdmit_of_latch hcur hx rfl, fun sh src dst len => exec_enterAdmit_of_latch hcur hx ?aligned,
    fun _ _ _ => exec_enterAdmit_of_latch hcur hx rfl, fun _ => exec_enterAdmit_of_latch hcur hx rfl, fun _ => exec_enterAdmit_of_latch hcur hx rfl⟩
  case aligned =>
    simp only [← Nat.div_mul_self_eq_mod_sub_self]
    rfl

/-- Settles O44: each word is run on the queue that it was fetched from, and what it leaves there is one queue in that queue's place. -/
theorem queueProgramsComplete : Obligations.QueueProgramsComplete := ⟨queueWordsComplete, phaseWordsEnterAdmit⟩

end Sys2Proof.Machine
end

section
/-! PROOFS. Semaphores and the events of queues (R216, R218, R386, R388, R390, R391): the hub's operations, timers, Kiln's starts and stops, and
mailboxes. -/

namespace Sys2Proof.Machine

open Sys2Proof Claims

/-! ## Semaphores (R218, R386, R388) -/

section
variable (s : State) (p u : Pkg) (n m : Nat) (val : W64)

theorem State.semVal_setSem_self : (s.setSem p n val).semVal p n = val := by
  have hgone : (s.sems.filter fun c => !(c.pkg == p && c.n == n)).find? (fun c => c.pkg == p && c.n == n) = none :=
    List.find?_eq_none.2 fun c hc => by
      have hout := (List.mem_filter.1 hc).2
      rw [Bool.not_eq_true'] at hout
      exact Bool.eq_false_iff.1 hout
  simp only [State.setSem, State.semVal]
  split
  next hzero => rw [hgone, hzero]; rfl
  next => simp

theorem State.semVal_setSem_of_ne (hne : (u, m) ≠ (p, n)) : (s.setSem p n val).semVal u m = s.semVal u m := by
  have hother : ∀ c : SemCell, (c.pkg == u && c.n == m) = true → (c.pkg == p && c.n == n) = false := by
    intro c hc
    obtain ⟨rfl, rfl⟩ : c.pkg = u ∧ c.n = m := by simpa using hc
    simpa [Prod.ext_iff] using hne
  have hkept : (s.sems.filter fun c => !(c.pkg == p && c.n == n)).find? (fun c => c.pkg == u && c.n == m) =
      s.sems.find? (fun c => c.pkg == u && c.n == m) := by
    rw [List.find?_filter]
    congr 1
    funext c
    cases hc : c.pkg == u && c.n == m with
    | false => simp
    | true => simp [hother c hc]
  simp only [State.setSem, State.semVal]
  split
  next => rw [hkept]
  next =>
    have hhead : (p == u && n == m) = false := Bool.eq_false_iff.2 fun h => by
      obtain ⟨rfl, rfl⟩ : p = u ∧ n = m := by simpa using h
      exact hne rfl
    rw [List.find?_cons, hhead, hkept]

variable {s} in
/-- Only a queue in WAIT is moved when a semaphore takes a value (R218). -/
theorem State.queue?_setSem_of_awake {v : VdRef} {q : Nat} {x : Queue} (hx : s.queue? v q = some x) (hawake : x.state ≠ .wait) :
    (s.setSem p n val).queue? v q = some x := by
  have hstays : x.wakes n val = false := by
    unfold Queue.wakes
    split
    next hstate _ => exact absurd hstate hawake
    next hstate _ => exact absurd hstate hawake
    next => rfl
  have hfind : (s.setSem p n val).queue? v q = (s.queue? v q).map fun x => if (s.semHome x.vdr).1 == p && x.wakes n val then x.past else x :=
    find?_updIf _ _ _ _ fun _ => rfl
  rw [hfind, hx, Option.map_some, hstays, Bool.and_false, if_neg Bool.false_ne_true]

end

/-- The value that an operation leaves in a semaphore (R386, R388). -/
def SemOp.result (op : SemOp) (old : W64) : W64 :=
  match op with
  | .add v => old + v
  | .signal v _ => old + v
  | .set v => v
  | .jnz dec _ => if old = 0 then 0 else if dec then old - 1 else old

/-- The queue of an operation's word once the operation is performed (R353, R386, R388). -/
def SemOp.onward (op : SemOp) (old : W64) (x : Queue) : Queue :=
  match op with
  | .signal _ stop => if stop then { x.past with state := .stopped } else x.past
  | .jnz _ target => if old = 0 then x.past else { x.past with qptr := target }
  | _ => x.past

theorem SemOp.onward_qptr (op : SemOp) (old : W64) (x : Queue) : (op.onward old x).qptr = match op with
    | .jnz _ target => if old = 0 then x.past.qptr else target
    | _ => x.past.qptr := by
  cases op with
  | add | set => rfl
  | signal _ stop => cases stop <;> rfl
  | jnz _ target => exact apply_ite Queue.qptr ..

/-- The queue keeps its key, and it does not wait. -/
theorem SemOp.onward_key (op : SemOp) (old : W64) (x : Queue) :
    (op.onward old x).vdr = x.vdr ∧ (op.onward old x).q = x.q ∧ (op.onward old x).state ≠ .wait := by
  cases op with
  | add | set => exact ⟨rfl, rfl, nofun⟩
  | signal _ stop => cases stop <;> exact ⟨rfl, rfl, nofun⟩
  | jnz _ target =>
    simp only [SemOp.onward]
    split <;> exact ⟨rfl, rfl, nofun⟩

/-- The queue whose word asked for an operation, if it is in EXEC with that word still. -/
def State.askerOf (s : State) (r : SemReq) : Option Queue :=
  (r.queue.bind (fun q => s.queue? r.vdr q)).filter (fun x => match x.work with
    | some (.semOp _) => true
    | _ => false)

/-- A state with the queue that asked, if one did, put as it goes on. -/
def State.putAsker (s : State) (asker : Option Queue) (f : Queue → Queue) : State :=
  match asker with
  | some x => s.putQueue (f x)
  | none => s

theorem State.putAsker_eq_self_with_queues (s : State) (asker : Option Queue) (f : Queue → Queue) :
    s.putAsker asker f = { s with queues := (s.putAsker asker f).queues } := by
  cases asker <;> rfl

/-- The hub performs the operation that reached it first: the queue that asked goes on, and the semaphore takes its value (R218). -/
theorem execSemaphoreOperation_of_first {s : State} {p : Pkg} {r : SemReq} (hcur : s.cur = .event (.pkg p))
    (hr : s.semReqs.find? (·.pkg == p) = some r) : execSemaphoreOperation s =
      .next ((({ s with semReqs := s.semReqs.erase r } : State).putAsker (s.askerOf r) (r.op.onward (s.semVal p r.n))).setSem p r.n
        (r.op.result (s.semVal p r.n))) := by
  simp only [execSemaphoreOperation, hcur, hr, State.putAsker, SemOp.onward, SemOp.result]
  cases r.op with
  | add | signal | set => rfl
  | jnz dec target =>
    show (if s.semVal p r.n = 0 then _ else _) = _
    by_cases hzero : s.semVal p r.n = 0
    · simp only [if_pos hzero]
      rw [← hzero]
      rfl
    · simp only [if_neg hzero]
      rfl

/-- The queue that asked, once its operation is performed: it has gone on, and the semaphore's new value does not move it again. -/
theorem State.queue?_performed {s : State} {r : SemReq} {q m : Nat} {x : Queue} (hq : r.queue = some q) (hx : s.queue? r.vdr q = some x)
    (hwork : x.work = some (.semOp m)) (reqs : List SemReq) (p : Pkg) (old val : W64) :
    ((({ s with semReqs := reqs } : State).putAsker (s.askerOf r) (r.op.onward old)).setSem p r.n val).queue? r.vdr q =
      some (r.op.onward old x) := by
  obtain ⟨hv, hn⟩ := Queue.key_of_queue? hx
  obtain ⟨hv', hn', hawake⟩ := r.op.onward_key old x
  have hasker : s.askerOf r = some x := by simp [State.askerOf, hq, hx, hwork]
  have hkey : ({ s with semReqs := reqs } : State).queue? (r.op.onward old x).vdr (r.op.onward old x).q = some x := by rwa [hv', hn', hv, hn]
  have hput := State.queue?_putQueue_self hkey
  rw [hv', hn', hv, hn] at hput
  rw [hasker]
  exact State.queue?_setSem_of_awake p r.n val hput hawake

theorem semaphoreOperationsComplete : SemaphoreOperationsComplete := by
  intro s p r hr
  have hexec := execSemaphoreOperation_of_first (s := onEvent s (.pkg p)) rfl hr
  have hput := State.putAsker_eq_self_with_queues { onEvent s (.pkg p) with semReqs := s.semReqs.erase r } ((onEvent s (.pkg p)).askerOf r)
    (r.op.onward (s.semVal p r.n))
  refine ⟨_, hexec, ?performed, ?mem, ?raisings, ?value, ?others, ?asker⟩
  case performed => exact (congrArg State.semReqs hput :)
  case mem => exact (congrArg State.mem hput :)
  case raisings => exact (congrArg State.raisings hput :)
  case value =>
    refine (State.semVal_setSem_self ..).trans ?_
    cases r.op <;> rfl
  case others =>
    intro u n hne
    exact (State.semVal_setSem_of_ne _ _ _ _ _ _ hne).trans (congrArg (State.semVal · u n) hput :)
  case asker =>
    intro q x m hq hx hwork
    exact ⟨_, State.queue?_performed (s := onEvent s (.pkg p)) hq hx hwork .., r.op.onward_qptr _ x⟩

/-! ## Timers, starts, stops and mailboxes (R216, R390, R391) -/

section
variable {s : State} {v : VdRef} {q : Nat} {x : Queue} (hx : s.queue? v q = some x)
include hx

theorem execQueueTimerExpiry_of_due {tid : Nat} {t : QTimer} (ht : x.timers.find? (fun t => t.tid == tid && t.due ≤ s.now) = some t) :
    exec (.queueTimerExpiry v q tid) s =
      .next ((s.putQueue { x with timers := x.timers.filter (·.tid != tid) }).sendSem v t.sem (.add 1) none) := by
  show execQueueTimerExpiry v q tid s = _
  simp only [execQueueTimerExpiry, hx, ht]

theorem execKilnQueueStart_of_stopped (hstopped : x.state = .stopped) :
    exec (.kilnQueueStart v q) s = .next (s.putQueue { x with state := .ready, work := none }) := by
  show execKilnQueueStart v q s = _
  simp only [execKilnQueueStart, hx, hstopped, beq_self_eq_true, if_true]

/-- Kiln stops a queue that runs no phase, and the operation of its word no longer reaches the hub (R216). -/
theorem execKilnQueueStop_of_not_run (hrun : x.state ≠ .run) : exec (.kilnQueueStop v q) s =
    .next (({ s with semReqs := s.semReqs.filter (fun r => !r.ofWord v q) } : State).putQueue { x with state := .stopped, work := none }) := by
  show execKilnQueueStop v q s = _
  simp only [execKilnQueueStop, hx, beq_false_of_ne hrun, Bool.false_and, Bool.false_eq_true, if_false]

end

/-- The host takes the oldest record of a mailbox, and finds its bytes where it reads (R390). -/
theorem execInterruptMailboxDrain_of_vdev? {s : State} {v : VdRef} {d : Vdev} (hd : s.vdev? v = some d) :
    exec .interruptMailboxDrain (onEvent s (.vdev v)) =
      .next (((onEvent s (.vdev v)).updVdev v (fun d => { d with mailbox := d.mailbox.drop 1 })).updPlat d.home (fun q =>
        { q with hostRead := (d.mailbox.head?).elim [] MailRec.bytes })) := by
  have hd' : (onEvent s (.vdev v)).vdev? v = some d := hd
  show execInterruptMailboxDrain (onEvent s (.vdev v)) = _
  simp only [execInterruptMailboxDrain, show (onEvent s (.vdev v)).cur = .event (.vdev v) from rfl, hd']

theorem queueEventsComplete : QueueEventsComplete := by
  refine ⟨fun s v q tid x t hx => ⟨execQueueTimerExpiry_of_due hx, execKilnQueueStart_of_stopped hx, execKilnQueueStop_of_not_run hx⟩,
    fun s v d hd => ⟨_, execInterruptMailboxDrain_of_vdev? hd, ?taken, rfl, rfl, ?read⟩⟩
  case taken =>
    have htaken := State.vdev?_updVdev_self (s := onEvent s (.vdev v)) hd (f := fun d => { d with mailbox := d.mailbox.drop 1 }) fun _ => rfl
    exact (congrArg (Option.map (·.mailbox)) htaken :)
  case read =>
    intro m rest q hbox hq
    have hread := State.plat?_updPlat_self (s := (onEvent s (.vdev v)).updVdev v (fun d => { d with mailbox := d.mailbox.drop 1 })) hq
      (f := fun q => { q with hostRead := (d.mailbox.head?).elim [] MailRec.bytes }) fun _ => rfl
    rw [hread, hbox]
    rfl

/-- Settles O45: the hub's operation moves the queue that asked and writes one semaphore, and the other events change the one queue, semaphore request
or mailbox that they name. -/
theorem queueControlCompletes : Obligations.QueueControlCompletes := ⟨semaphoreOperationsComplete, queueEventsComplete⟩

end Sys2Proof.Machine
end

section
/-! PROOFS. Rounds and slots (R226 to R232, R237, R354): the end of the quantum and of the grace window, the saving of a cluster's image, the restoring of
the next slot's, and the start of a slot. -/

namespace Sys2Proof.Machine

open Sys2Proof Claims

section
variable {s : State} {n : Nat} {p : Partition} (hp : s.part? n = some p)
include hp

theorem State.eventPart_onEvent : (onEvent s (.num n)).eventPart = some p := hp

theorem execQuantumEnd_of_over (hphase : p.phase = .quantum) (hover : p.slotStart + p.q ≤ s.now) :
    exec .quantumEnd (onEvent s (.num n)) =
      .next ((onEvent s (.num n)).updPart p.lay.part (fun p => { p with phase := .grace })) := by
  have hdue : p.slotStart + p.q ≤ (onEvent s (.num n)).now := hover
  show execQuantumEnd (onEvent s (.num n)) = _
  simp only [execQuantumEnd, State.eventPart_onEvent hp, hphase, hdue, beq_self_eq_true, decide_true, Bool.and_self, if_true]

/-- At the end of the grace window every phase that still runs is drained, and nothing is saved yet (R227, R230). -/
theorem execGraceWindowEnd_of_over {d : Vdev} (hphase : p.phase = .grace) (hover : p.slotStart + p.q + p.w ≤ s.now) (hd : s.slotVd p = some d) :
    exec .graceWindowEnd (onEvent s (.num n)) =
      .next ((((((onEvent s (.num n)).raisingsOf d.vdr).filter (·.state == .running)).foldl (fun s r =>
        (s.drainRaising r).updRaising r.rid (fun r => { r with state := .drained })) (onEvent s (.num n))).updPart p.lay.part (fun p =>
        { p with phase := .guard })).updVdev d.vdr (fun d => { d with savedClus := [] })) := by
  have hdue : p.slotStart + p.q + p.w ≤ (onEvent s (.num n)).now := hover
  have hslot : (onEvent s (.num n)).slotVd p = some d := hd
  show execGraceWindowEnd (onEvent s (.num n)) = _
  simp only [execGraceWindowEnd, State.eventPart_onEvent hp, hphase, hdue, hslot, beq_self_eq_true, decide_true, Bool.and_self, if_true]

/-- A cluster's image is saved in the guard of its slot, once, when the raisings that hold it are at rest (R230, R231). -/
theorem execClusterImageSaveDone_of_rest {d : Vdev} {c : Clu} (hphase : p.phase = .guard) (hd : s.slotVd p = some d)
    (hheld : (s.occupied d.vdr).contains c = true) (hunsaved : d.savedClus.any (·.1 == c) = false)
    (hrest : ∀ r ∈ s.raisingsOf d.vdr, r.clusters.contains c = true → s.atRest r.rid = true) :
    exec (.clusterImageSaveDone n c) s = .next ((s.saveCluster d c (s.cluIdx n c) 0).updVdev d.vdr (fun d =>
      { d with savedClus := d.savedClus ++ [(c, s.cluIdx n c)] })) := by
  have hall : (s.raisingsOf d.vdr).all (fun r => !r.clusters.contains c || s.atRest r.rid) = true :=
    List.all_eq_true.2 fun r hr => by
      cases hc : r.clusters.contains c with
      | false => rfl
      | true => exact hrest r hr hc
  show execClusterImageSaveDone n c s = _
  simp only [execClusterImageSaveDone, hp, hd, hphase, hheld, hunsaved, hall, beq_self_eq_true, Bool.not_false, Bool.and_self, if_true]

end

/-! ## Restoring -/

theorem State.slotSaved_of_saved {s : State} {p : Partition}
    (hsaved : ∀ d, s.slotVd p = some d → ∀ c ∈ s.occupied d.vdr, d.savedClus.any (·.1 == c) = true) : s.slotSaved p = true := by
  unfold State.slotSaved
  split
  next d hd => exact List.all_eq_true.2 (hsaved d hd)
  next => rfl

/-- Where Kiln moves nothing, a raising's bents are restored where they last were. -/
theorem State.origins_of_no_moves (s : State) (p : Partition) (r : Raising) : s.origins p [] r = r.bents.map Bent.origin := by
  have hindexed : ∀ bs : List Bent, (List.range bs.length).filterMap (fun i => bs[i]?.map Bent.origin) = bs.map Bent.origin := by
    intro bs
    induction bs with
    | nil => rfl
    | cons b bs ih => simpa [List.range_succ_eq_map, List.filterMap_map, Function.comp_def] using ih
  exact hindexed r.bents

theorem State.restoreTo_of_no_moves (s : State) (p : Partition) (rs : List Raising) :
    s.restoreTo p [] rs = rs.map (fun r => (r, r.bents.map Bent.origin)) := by
  simp only [State.restoreTo, State.origins_of_no_moves, ite_self]

/-- A partition at its next slot, once the images of the outgoing virtual device are saved (R227). -/
def Partition.nextSlot (p : Partition) (members : Nat) : Partition :=
  let slot := (p.slot + 1) % Nat.max 1 members
  { p with slot := slot, slotStart := p.slotStart + p.q + p.g, round := p.round + (if slot = 0 then 1 else 0), phase := .saved }

/-- A state in which the next slot's images can be written back: its partition at that slot, and the partition's clusters cleared (R227, R232). -/
def State.cleared (s : State) (n : Nat) (p p2 : Partition) : State :=
  p.lay.clusters.foldl (fun s c => s.clearCluster c) (s.updPart n (fun _ => p2))

/-- When every image is saved, the next slot's raisings come back from theirs, where the slot has a virtual device (R227, R232). -/
theorem execClusterRestore_of_saved {s : State} {n : Nat} {p : Partition} (hp : s.part? n = some p) (hphase : p.phase = .guard)
    (hsaved : s.slotSaved p = true) (hgoes : p.suspended = false) (moves : List (BentRef × Origin)) {o : Option Vdev} :
    let p2 := p.nextSlot (s.vdevs.filter (·.vdr.part == n)).length
    let s2 := s.cleared n p p2
    s2.slotVd p2 = o → exec (.clusterRestore n moves) s = .next (o.elim s2 (fun d =>
      (s2.restoreTo p moves ((s2.raisingsOf d.vdr).filter (·.state == .drained))).foldl
        (fun s x => s.bringBack d x.1 x.2 (fun c => s.cluIdx n c) 0) s2)) := by
  intro p2 s2 ho
  have hready : (p.phase == .guard && s.slotSaved p && !p.suspended) = true := by rw [hphase, hsaved, hgoes]; rfl
  show execClusterRestore n moves s = _
  simp only [p2, s2, State.cleared, Partition.nextSlot] at ho
  simp only [execClusterRestore, hp, hready, if_true, ho]
  cases o <;> rfl

/-! ## The start of a slot -/

/-- A restored phase goes on: a HALT saved with it takes effect, and a BRK that stopped it leaves its bents sealed (R316, R354). -/
def State.goesOn (s : State) (r : Raising) : State :=
  if r.halts ≠ [] then (s.updRaising r.rid (fun r => { r with state := .running })).applyHalt r.rid
  else if r.brkStop = true then s.updRaising r.rid (fun r => { r with state := .running })
  else (s.updRaising r.rid (fun r => { r with state := .running })).unsealRaising r.rid

/-- A virtual device's energy counter takes an allotment, and holds no more than one (R237). -/
def State.allot (s : State) (d : Vdev) : State :=
  s.updVdev d.vdr (fun d => { d with energy := min (d.energy + Int.ofNat (s.allotment d)) (Int.ofNat (s.allotment d)) })

/-- At the start of a slot the counter is raised, the drained phases go on, and launches are admitted, in this order (R227, R237, R354). -/
theorem execSlotStart_of_due {s : State} {n : Nat} {p : Partition} {d : Vdev} (hp : s.part? n = some p) (hphase : p.phase = .saved)
    (hdue : p.slotStart ≤ s.now) (hgoes : p.suspended = false)
    (hd : ((onEvent s (.num n)).updPart p.lay.part (fun p => { p with phase := .quantum, qtOff := 0 })).slotVd p = some d) :
    let s2 := ((onEvent s (.num n)).updPart p.lay.part (fun p => { p with phase := .quantum, qtOff := 0 })).allot d
    exec .slotStart (onEvent s (.num n)) =
      .next (((((s2.raisingsOf d.vdr).filter (·.state == .drained)).foldl State.goesOn s2).askAll d.vdr).admitMany d.vdr 64) := by
  have hdue' : p.slotStart ≤ (onEvent s (.num n)).now := hdue
  have hgo : State.goesOn = fun s r =>
      let s := s.updRaising r.rid (fun r => { r with state := .running })
      if !r.halts.isEmpty then s.applyHalt r.rid else if r.brkStop then s else s.unsealRaising r.rid := by
    funext s r
    simp [State.goesOn]
  show execSlotStart (onEvent s (.num n)) = _
  simp only [execSlotStart, State.eventPart_onEvent hp, hphase, hdue', hgoes, hd, hgo, beq_self_eq_true, decide_true, Bool.not_false, Bool.and_self,
    if_true]
  rfl

/-- Settles O52: each event of a round is its own change of the state once its time has come, and without moves of Kiln's every bent comes back to its
own origin. -/
theorem roundEventsComplete : Obligations.RoundEventsComplete := by
  intro s n p hp
  refine ⟨execQuantumEnd_of_over hp, fun d => execGraceWindowEnd_of_over hp, fun d c => execClusterImageSaveDone_of_rest hp,
    fun hphase hsaved hgoes => ?restores, fun d hphase hdue hgoes => execSlotStart_of_due hp hphase hdue hgoes⟩
  case restores =>
    have hrestore := execClusterRestore_of_saved hp hphase (State.slotSaved_of_saved hsaved) hgoes
    refine ⟨fun moves => hrestore moves, fun _ moves => hrestore moves, fun d hd => (hrestore [] hd).trans ?_⟩
    simp only [Option.elim_some, State.restoreTo_of_no_moves, List.foldl_map]
    rfl

end Sys2Proof.Machine
end

section
/-! PROOFS. Firmware, layouts and heat (R222, R263, R266, R267, R270): what a package's platform takes from an update, a confirmed boot, a commit and a
temperature, and which raisings go when its dies lose power. -/

namespace Sys2Proof.Machine

open Sys2Proof Claims

/-! ## The raisings that a package loses -/

@[simp] theorem State.raisings_noteStrays (s : State) (rid : Nat) : (s.noteStrays rid).raisings = s.raisings := by
  unfold State.noteStrays
  split
  · refine List.foldlRecOn (motive := fun t : State => t.raisings = s.raisings) _ _ rfl fun t ht i _ => ?_
    split
    · dsimp only
      split <;> exact ht
    · exact ht
  · rfl

/-- Raisings that are dropped one after another are gone, and no others (R235, R353). -/
theorem State.mem_raisings_dropRaisings {l : List Raising} {s : State} {r : Raising}
    (hr : r ∈ (l.foldl (fun s r => (s.noteStrays r.rid).dropRaising r.rid) s).raisings) : r ∈ s.raisings ∧ ∀ x ∈ l, x.rid ≠ r.rid := by
  induction l generalizing s with
  | nil => exact ⟨hr, nofun⟩
  | cons x xs ih =>
    obtain ⟨hrest, hothers⟩ := ih hr
    have hkept : r ∈ (s.noteStrays x.rid).raisings.filter (·.rid != x.rid) := hrest
    obtain ⟨hmem, hne⟩ := List.mem_filter.1 hkept
    rw [State.raisings_noteStrays] at hmem
    exact ⟨hmem, List.forall_mem_cons.2 ⟨fun h => by simp [h] at hne, hothers⟩⟩

/-- No raising that stands has a bent on a package whose raisings are lost (R235). -/
theorem State.not_on_pkg_of_loseRaisings {s : State} {p : Pkg} {r : Raising} (hr : r ∈ (s.loseRaisings p).raisings) :
    r.bents.any (·.pkg == p) = false := by
  obtain ⟨hmem, hothers⟩ := State.mem_raisings_dropRaisings hr
  exact Bool.eq_false_iff.2 fun hon => hothers r (List.mem_filter.2 ⟨hmem, hon⟩) rfl

section
variable {s : State} {p : Pkg} {q : Platform} (hq : s.plat? p = some q)
include hq

/-! ## Firmware (R263) -/

theorem execFirmwareUpdate_of_ready (image : List Byte) (hready : q.ready = true) :
    ∃ t, exec (.firmwareUpdate p image) s = .next t ∧ t.plat? p = some { q with flash := image } ∧ t.mem = s.mem := by
  refine ⟨_, rfl, ?_, rfl⟩
  have hflash := State.plat?_updPlat_self hq (f := fun q => if q.ready then { q with flash := image } else q) fun d => by split <;> rfl
  rwa [if_pos hready] at hflash

/-- Kiln's confirmation raises the fused minimum to the version of the image that runs (R263). -/
theorem execBootConfirm_of_kiln (hkiln : q.kiln = true) : ∃ t, exec .bootConfirm (onEvent s (.pkg p)) = .next t ∧
    t.plat? p = some { q with fusedMin := Nat.max q.fusedMin (Config.securityVersion q.running) } := by
  obtain rfl := Platform.pkg_of_plat? hq
  have hq' : (onEvent s (.pkg q.pkg)).eventPkg = some q := State.eventPkg_onEvent hq
  have hfused := State.plat?_updPlat_self (s := onEvent s (.pkg q.pkg)) hq (f := fun q => if q.kiln then
    { q with fusedMin := Nat.max q.fusedMin (Config.securityVersion q.running) } else q) fun d => by split <;> rfl
  rw [if_pos hkiln] at hfused
  refine ⟨_, ?_, hfused⟩
  show execBootConfirm _ = _
  simp only [execBootConfirm, hq']

/-! ## Layouts (R222, R267) -/

/-- What a commit that is not refused leaves, by the stage that a watchdog reset of the management processor cuts it off in (R267). -/
def State.committed (s : State) (p : Pkg) (lay : Layout) (cut : Option Nat) : State :=
  let t := s.updPlat p (fun q => { q.phaseOne lay (cut != some 0) with layoutBusy := false })
  match cut with
  | some 0 => t
  | some 1 => t
  | some 2 => t.updPlat p (fun q => { q with activeB := q.intent.bankB })
  | _ => t.phaseTwo p

/-- A commit of a layout that keeps the bounds is refused as busy where it alters a partition that stands, and is else made (R222, R267). -/
theorem execLayoutCommit_of_ok {lay : Layout} (hready : q.ready = true) (hvalid : q.intent.valid = false) (hok : lay.ok p = true) (cut : Option Nat) :
    exec (.layoutCommit p lay cut) s = .next (if s.layoutAlters p lay = true then s.updPlat p (fun q => { q with layoutBusy := true })
      else s.committed p lay cut) := by
  show execLayoutCommit p lay cut s = _
  simp only [execLayoutCommit, hq, hready, hvalid, hok, Bool.not_true, Bool.or_self, Bool.false_eq_true, if_false]
  split
  next => rfl
  next => rcases cut with _ | _ | _ | _ | _ <;> rfl

/-- The management processor rolls its change forward when the intent record is valid and of the bank's layout, and else discards it (R267). -/
theorem execMpWatchdogReset_of_plat? : exec .mpWatchdogReset (onEvent s (.pkg p)) =
    if (q.intent.valid && Config.sm3 (q.bank q.intent.bankB).bytes == q.intent.digest) = true then .next ((onEvent s (.pkg p)).phaseTwo p)
    else .next ((onEvent s (.pkg p)).updPlat p (fun q => { q with intent := { q.intent with valid := false } })) := by
  obtain rfl := Platform.pkg_of_plat? hq
  show execMpWatchdogReset _ = _
  simp only [execMpWatchdogReset, State.eventPkg_onEvent hq]

/-! ## Heat (R270) -/

theorem execThermal105c_of_plat? : exec .thermal105c (onEvent s (.pkg p)) = .next ((onEvent s (.pkg p)).updPlat p (fun q =>
    { q with thermal := if q.thermal == .off then .off else .hot, admitStop := true })) := by
  obtain rfl := Platform.pkg_of_plat? hq
  show execThermal105c _ = _
  simp only [execThermal105c, State.eventPkg_onEvent hq]

theorem execThermal115c_of_plat? : exec .thermal115c (onEvent s (.pkg p)) = .next ((((onEvent s (.pkg p)).loseRaisings p).dropTransit p).updPlat p
    (fun q => { q with thermal := .off, power := false, admitStop := true })) := by
  obtain rfl := Platform.pkg_of_plat? hq
  show execThermal115c _ = _
  simp only [execThermal115c, State.eventPkg_onEvent hq]

/-- The dies of a package that is too hot lose power and their raisings; its memory stands (R270). -/
theorem execThermal115c_spec : ∃ t q', exec .thermal115c (onEvent s (.pkg p)) = .next t ∧ t.plat? p = some q' ∧ q'.power = false ∧
    q'.admitStop = true ∧ t.mem = s.mem ∧ ∀ r ∈ t.raisings, r.bents.any (·.pkg == p) = false := by
  have hstores : (((onEvent s (.pkg p)).loseRaisings p).dropTransit p).stores = (onEvent s (.pkg p)).stores := State.stores_loseRaisings ..
  exact ⟨_, _, execThermal115c_of_plat? hq, State.plat?_updPlat_self ((State.plat?_of_stores hstores p).trans hq) fun _ => rfl, rfl, rfl,
    (State.mem_of_stores hstores :), fun r hr => State.not_on_pkg_of_loseRaisings hr⟩

theorem execTemperatureFall_of_hot (es : List (Nat × Nat)) (hhot : q.thermal = .hot) :
    exec (.temperatureFall p es) s = .next (s.updPlat p (fun q => { q with thermal := .warm, admitStop := false })) := by
  show execTemperatureFall p es s = _
  simp only [execTemperatureFall, hq, hhot]

end

/-- Settles O55: each event changes the platform of its package as it stands, a commit goes as far as its cut lets it, and the raisings that a package
without power loses are those with a bent on it. -/
theorem platformEventsComplete : Obligations.PlatformEventsComplete := by
  intro s p q hq
  refine ⟨execFirmwareUpdate_of_ready hq, execBootConfirm_of_kiln hq, fun lay hready hvalid hok => ?commit, fun hvalid hdigest => ?forward,
    fun hbad => ?discard, fun _ => rfl, ⟨_, _, execThermal105c_of_plat? hq, State.plat?_updPlat_self hq fun _ => rfl, rfl, rfl, rfl⟩,
    execThermal115c_spec hq, fun es hhot => ⟨_, execTemperatureFall_of_hot hq es hhot, State.plat?_updPlat_self hq fun _ => rfl⟩⟩
  case commit =>
    have hcommit := execLayoutCommit_of_ok hq hready hvalid hok
    have hmade : s.layoutAlters p lay = false → ∀ cut, exec (.layoutCommit p lay cut) s = .next (s.committed p lay cut) :=
      fun hnew cut => by rw [hcommit, hnew, if_neg Bool.false_ne_true]
    exact ⟨fun halters => by rw [hcommit, if_pos halters], fun hnew => hmade hnew none, fun hnew => hmade hnew (some 0),
      fun hnew => hmade hnew (some 1), fun hnew => hmade hnew (some 2)⟩
  case forward => rw [execMpWatchdogReset_of_plat? hq, hvalid, hdigest, if_pos (by simp)]
  case discard =>
    rw [execMpWatchdogReset_of_plat? hq, if_neg]
    rcases hbad with hinvalid | hdigest
    · simp [hinvalid]
    · simp [hdigest]

end Sys2Proof.Machine
end

section
/-! PROOFS. The state right after reset (R259, R262, R270). -/

namespace Sys2Proof.Machine

open Sys2Proof

/-- Settles O8: the lists of the reset state are empty, and the package at the origin stands as its own reset leaves it. -/
theorem resetLeavesTheMachineEmpty : Obligations.ResetLeavesTheMachineEmpty := by
  refine ⟨rfl, rfl, rfl, rfl, rfl, rfl, rfl, rfl, rfl, fun _ => rfl, Platform.reset, ?package⟩
  case package => exact ⟨rfl, rfl, rfl, rfl, rfl, rfl⟩

end Sys2Proof.Machine
end

section
/-! PROOFS. The system instructions (R271, R272, R294, R315, R317, R332, R352, R372 to R374, R400, R438, R448) as they fire. -/

namespace Sys2Proof.Machine

open Sys2Proof Claims

section
variable {s : State} {o : SlotOps} {c : Ctx} (h : Runs s o c)

/-! ## MFS and MTS (R271, R272, R372, R374) -/

include h

/-- A register that the element or its bent holds is answered at once. -/
theorem execMfs_of_near {x : W64} (hnear : s.nearReg c (o.xf 0 12) = some x) :
    ∃ w, exec (.mfs o) s = .next ((s.raiseWarn c.br c.u w).emit2 c o (scalarTok c.tag x.toNat)) :=
  ⟨_, (s.runFiring_of_runs h _).trans (by simp only [hnear]; rfl)⟩

/-- A register that the hub holds is asked for there. -/
theorem execMfs_of_hub (hnear : s.nearReg c (o.xf 0 12) = none) (hhub : (s.hubReg c.br (s.vdOf c.br.rid) (o.xf 0 12)).isSome = true) :
    ∃ w, exec (.mfs o) s = .next (s.putReq { Req.make s c (.mfsHub (o.xf 0 12)) 0 8 0 with stage := .home, warn := w }) :=
  ⟨_, (s.runFiring_of_runs h _).trans (by simp only [hnear, hhub, if_true]; rfl)⟩

/-- A number that neither holds reads as 0, under SRRD (R272). -/
theorem execMfs_of_reserved (hnear : s.nearReg c (o.xf 0 12) = none) (hhub : s.hubReg c.br (s.vdOf c.br.rid) (o.xf 0 12) = none) :
    ∃ w, exec (.mfs o) s = .next ((s.raiseWarn c.br c.u (w ||| warnBit 27)).emit2 c o (scalarTok c.tag 0)) :=
  ⟨_, (s.runFiring_of_runs h _).trans (by simp only [hnear, hhub, Option.isSome_none, Bool.false_eq_true, if_false]; rfl)⟩

theorem execMts_of_runs : ∃ w, exec (.mts o) s =
    .next (((s.writeReg c (o.xf 0 12) (c.atok.plain.pay.setWidth 64)).raiseWarn c.br c.u w).emit2 c o c.atok.plain) :=
  ⟨_, s.runFiring_of_runs h _⟩

/-! ## CLFLG, RDTIM, ENRG, YIELD and HALT (R317, R332, R352, R400, R448) -/

/-- A CLFLG that runs clears its element's FLAGS, and on an AG the engine's too. -/
theorem execClflg_of_runs : ∃ w, exec (.clflg o) s =
    let t := s.updElemOf c (fun e => { e with flags := 0 })
    .next (((if s.isAg c then t.updBent c.br (fun b => { b with engFlags := 0 }) else t).raiseWarn c.br c.u w).emit2 c o c.atok.plain) :=
  ⟨_, s.runFiring_of_runs h _⟩

theorem execRdtim_of_plat? {p : Platform} (hp : s.plat? (s.srcCell c).pkg = some p) : ∃ w, exec (.rdtim o) s =
    .next ((s.raiseWarn c.br c.u w).emit2 c o (scalarTok c.tag (s.now - p.cycles0))) :=
  ⟨_, (s.runFiring_of_runs h _).trans (by simp only [hp, Option.elim_some]; rfl)⟩

theorem execEnrg_of_runs : ∃ w, exec (.enrg o) s = .next (s.putReq { Req.make s c .enrg 0 8 0 with stage := .home, warn := w }) :=
  ⟨_, s.runFiring_of_runs h _⟩

omit h in
theorem Partition.quantumOver_iff (p : Partition) (now : Nat) :
    p.quantumOver now = true ↔ p.phase = .grace ∨ (p.phase = .quantum ∧ p.slotStart + p.q ≤ now) := by
  simp [Partition.quantumOver]

theorem execYield_of_part? {p : Partition} (hp : s.part? (s.vdOf c.br.rid).part = some p) : ∃ w, exec (.yield o) s =
    .next ((s.raiseWarn c.br c.u w).emit c (if p.phase = .grace ∨ (p.phase = .quantum ∧ p.slotStart + p.q ≤ s.now) then o.t1 else o.t0)
      c.atok.plain) :=
  ⟨_, (s.runFiring_of_runs h _).trans (by simp only [hp, Partition.quantumOver_iff]; rfl)⟩

/-- A HALT that runs stands among its raising's halts, with the cycle in which it fired. -/
theorem execHalt_of_runs : ∃ w, exec (.halt o) s =
    let x : HaltReq := { code := o.xf 0 16, stop := o.x.getLsbD 16, bent := c.br.bent, blk := c.blk, slot := c.slot, at_ := s.now }
    .next ((s.updRaising c.br.rid (fun r => { r with halts := r.halts ++ [x] })).raiseWarn c.br c.u w) := ⟨_, s.runFiring_of_runs h _⟩

/-! ## TRAP and BRK (R315, R438, R439) -/

omit h in
@[simp] theorem State.putReq_posts (s : State) (r : Req) : (s.putReq r).posts = s.posts := by
  obtain ⟨_, _, hput⟩ := s.putReq_eq r
  rw [hput]

/-- A TRAP that runs waits while four of its element wait, and else posts to Kiln and waits for the reply. -/
theorem execTrap_of_runs : ∃ w, exec (.trap o) s =
    let r : Req := { Req.make s c .trap 0 8 0 with stage := .deferred, cx := (s.ctxCell c).1, cy := (s.ctxCell c).2 }
    let p : KilnPost := { br := c.br, blk := c.blk, slot := c.slot, tag := c.tag, code := o.xf 0 16, pay := c.atok.pay, debug := false }
    if 4 ≤ (s.reqs.filter (fun q => q.kind == .trap && q.br == r.br && q.cx == r.cx && q.cy == r.cy)).length then s.wait
    else .next { s.putReq { r with warn := w } with posts := s.posts ++ [p] } :=
  ⟨_, (s.runFiring_of_runs h _).trans (by simp only [State.putReq_posts]; rfl)⟩

/-- A BRK passes A on while its virtual device's DBGEN is 0, and else holds its emission, lets the BRKs of its cycle
fire and stops its raising. -/
theorem execBrk_of_vdev? {d : Vdev} (hd : s.vdev? (s.vdOf c.br.rid) = some d) : ∃ w, exec (.brk o) s =
    if d.dbgen = false then .next ((s.raiseWarn c.br c.u w).emit2 c o c.atok.plain)
    else .next ((((s.holdBrk c o).brkSweep c).updRaising c.br.rid (fun r => { r with brkStop := true })).sealRaising c.br.rid) :=
  ⟨_, (s.runFiring_of_runs h _).trans (by simp only [hd, Option.elim_some, Bool.not_eq_true']; rfl)⟩

end

/-- Settles O42: each instruction, at a firing that runs, is its own change of the state. -/
theorem systemInstructionsComplete : Obligations.SystemInstructionsComplete := by
  intro o s c h
  obtain ⟨w, hclflg⟩ := execClflg_of_runs h
  refine ⟨fun x => execMfs_of_near h, execMfs_of_hub h, execMfs_of_reserved h, execMts_of_runs h, fun hcp => ⟨w, ?element⟩,
    fun hag => ⟨w, ?engine⟩, fun p => execRdtim_of_plat? h, execEnrg_of_runs h, fun p => execYield_of_part? h, execHalt_of_runs h,
    fun hroom => ?trap, fun d hd => ?brk⟩
  case element => simpa only [hcp, Bool.false_eq_true, if_false] using hclflg
  case engine => simpa only [hag, if_true] using hclflg
  case trap =>
    obtain ⟨w, htrap⟩ := execTrap_of_runs h
    exact ⟨w, htrap.trans (if_neg (Nat.not_le.2 hroom))⟩
  case brk =>
    obtain ⟨w, hbrk⟩ := execBrk_of_vdev? h hd
    refine ⟨fun hoff => ⟨w, hbrk.trans (if_pos hoff)⟩, fun hon => hbrk.trans (if_neg (by simp [hon])), ?held⟩
    case held => exact ⟨_, _, rfl, rfl, rfl, rfl, rfl⟩

end Sys2Proof.Machine
end

section
/-! PROOFS. Status registers (R125, R271, R272, R294, R374): what a write leaves of an element, and what a read finds in it. -/

namespace Sys2Proof.Machine

open Sys2Proof Claims

/-! ## Reading -/

/-- The value of a status register in an element and its bent, by the table of R271; none for a number that neither holds. -/
def Bent.statusReg (b : Bent) (e : Elem) (now : Nat) : Nat → Option W64
  | 0x000 => some ((e.flags ||| b.engFlags).setWidth 64)
  | 0x001 => some (e.rmode.setWidth 64)
  | 0x002 => some ((e.warn ||| b.engWarn).setWidth 64)
  | 0x003 => some (e.nondet.setWidth 64)
  | 0x010 => some b.bentId
  | 0x020 => some (BitVec.ofNat 64 (b.cycles now))
  | 0x030 => some b.spillCnt
  | 0x031 => some b.trimCnt
  | 0x032 => some b.refaultCnt
  | _ => none

theorem State.nearReg_of_elemOf {s : State} {c : Ctx} {b : Bent} {e : Elem} (hb : s.bent? c.br = some b) (he : s.elemOf c = some e) (n : Nat) :
    s.nearReg c n = b.statusReg e s.now n := by
  simp only [State.nearReg, hb, he]
  rfl

/-- The numbers of R271 that an element or its bent holds. -/
theorem State.nearReg_eq_none {s : State} {c : Ctx} {n : Nat}
    (hn : n ∉ [0x000, 0x001, 0x002, 0x003, 0x010, 0x020, 0x030, 0x031, 0x032]) : s.nearReg c n = none := by
  unfold State.nearReg
  split
  next => split <;> simp_all
  next => rfl

/-- The numbers of R271 that the hub holds. -/
theorem State.hubReg_eq_none {s : State} {br : BentRef} {v : VdRef} {n : Nat}
    (hn : n ∉ [0x004, 0x005, 0x011, 0x012, 0x013, 0x014, 0x015, 0x021, 0x022]) : s.hubReg br v n = none := by
  unfold State.hubReg
  split
  next => split <;> simp_all
  next => rfl

/-! ## Writing -/

/-- An element after a write of one of its status registers: FLAGS, RMODE (0, under the warning of a reserved mode, for one above 4), WARN or NONDET
(R125, R294, R374). -/
def Elem.written (e : Elem) (n : Nat) (v : W64) : Elem :=
  { e with
    flags := if n = 0x000 then v.setWidth 8 else e.flags
    rmode := if n = 0x001 then (if 5 ≤ v.toNat % 8 then 0 else v.setWidth 3) else e.rmode
    warn := if n = 0x002 then v.setWidth 30 else if n = 0x001 ∧ 5 ≤ v.toNat % 8 then e.warn ||| warnBit 5 else e.warn
    nondet := if n = 0x003 then v.setWidth 2 else e.nondet }

/-- Two changes of the same items of a list are one, where the first keeps what they are told by. -/
theorem updIf_updIf {α : Type} (l : List α) (p : α → Bool) {f : α → α} (g : α → α) (hf : ∀ x, p (f x) = p x) :
    updIf (updIf l p f) p g = updIf l p (g ∘ f) := by
  simp only [updIf, List.map_map]
  refine List.map_congr_left fun x _ => ?_
  by_cases hx : p x = true <;> simp [hx, hf]

/-- Two changes of a bent are one. -/
theorem State.updBent_updBent (s : State) (br : BentRef) (f g : Bent → Bent) : (s.updBent br f).updBent br g = s.updBent br (g ∘ f) := by
  simp only [State.updBent, State.updRaising]
  rw [updIf_updIf]
  · simp only [Function.comp_def, List.modify_modify_eq]
  · exact fun _ => rfl

/-- Two changes of an element are one, where the first keeps its place. -/
theorem State.updElem_updElem (s : State) (br : BentRef) (cx cy : Nat) {f : Elem → Elem} (g : Elem → Elem)
    (hf : ∀ e, (f e).cx = e.cx ∧ (f e).cy = e.cy) : (s.updElem br cx cy f).updElem br cx cy g = s.updElem br cx cy (g ∘ f) := by
  have helems (l : List Elem) := updIf_updIf l (fun e => e.cx == cx && e.cy == cy) (f := f) g fun e => by simp only [hf]
  simp only [State.updElem, State.updBent_updBent, Function.comp_def, helems]

/-- A write of a status register on an element that is no AG changes that element alone. -/
theorem State.writeReg_eq {s : State} {c : Ctx} {cx cy n : Nat} (hu : c.u = .elem cx cy) (hag : s.isAg c = false) (hn : n < 4) (v : W64) :
    s.writeReg c n v = s.updElem c.br cx cy (·.written n v) := by
  obtain rfl | rfl | rfl | rfl : n = 0x000 ∨ n = 0x001 ∨ n = 0x002 ∨ n = 0x003 := by omega
  case inr.inl =>
    by_cases hbad : 5 ≤ v.toNat % 8
    · simp only [State.writeReg, State.warnAs, State.raiseWarn, State.updElemOf, hu, hag, hbad, Bool.false_eq_true, if_true, if_false]
      rw [State.updElem_updElem]
      · simp [Elem.written, hbad, Function.comp_def]
      · exact fun _ => ⟨rfl, rfl⟩
    · simp [State.writeReg, State.updElemOf, hu, hag, hbad, Elem.written]
  all_goals simp [State.writeReg, State.updElemOf, hu, hag, Elem.written]

/-- Any other number is reserved for a write, which sets SRWR and writes nothing (R272). -/
theorem State.writeReg_of_reserved (s : State) (c : Ctx) {n : Nat} (hn : n ∉ [0x000, 0x001, 0x002, 0x003]) (v : W64) :
    s.writeReg c n v = s.raiseWarn c.br c.u (warnBit 28) := by
  unfold State.writeReg
  split <;> simp_all [State.warnAs]

/-! ## Reading what was written -/

theorem State.unit_of_elemOf {s : State} {c : Ctx} {e : Elem} (he : s.elemOf c = some e) : ∃ cx cy, c.u = .elem cx cy := by
  cases hu : c.u with
  | elem cx cy => exact ⟨cx, cy, rfl⟩
  | station cX cY => simp [State.elemOf, hu] at he

section
variable {s : State} {c : Ctx} {b : Bent} {e : Elem} {n : Nat} (hb : s.bent? c.br = some b) (he : s.elemOf c = some e) (hag : s.isAg c = false)
  (hn : n < 4)
include hb he hag hn

/-- A read after a write finds what the write left of the element. -/
theorem State.nearReg_writeReg (v : W64) (m : Nat) : (s.writeReg c n v).nearReg c m = b.statusReg (e.written n v) s.now m := by
  obtain ⟨cx, cy, hu⟩ := State.unit_of_elemOf he
  have helem : s.elem? c.br cx cy = some e := by simpa only [State.elemOf, hu] using he
  rw [State.writeReg_eq hu hag hn]
  have hb' : (s.updElem c.br cx cy (·.written n v)).bent? c.br =
      some { b with elems := updIf b.elems (fun e => e.cx == cx && e.cy == cy) (·.written n v) } := by
    rw [State.updElem, State.bent?_updBent, if_pos rfl, hb, Option.map_some]
  have he' : (s.updElem c.br cx cy (·.written n v)).elemOf c = some (e.written n v) := by
    simp only [State.elemOf, hu]
    rw [State.elem?_updElem, if_pos ⟨rfl, rfl, rfl⟩, helem, Option.map_some]
    exact fun _ => ⟨rfl, rfl⟩
  rw [State.nearReg_of_elemOf hb' he']
  rfl

/-- A write of a register other than RMODE, which can warn, leaves every other register as it was. -/
theorem State.nearReg_writeReg_of_ne (v : W64) {m : Nat} (hne : n ≠ m) (hmode : n ≠ 0x001) :
    (s.writeReg c n v).nearReg c m = s.nearReg c m := by
  rw [State.nearReg_writeReg hb he hag hn, State.nearReg_of_elemOf hb he]
  unfold Bent.statusReg
  split <;> simp [Elem.written, hne, hmode]

omit hb in
/-- A write leaves every other element as it was. -/
theorem State.elem?_writeReg_of_ne (v : W64) {x y : Nat} (hne : c.u ≠ .elem x y) : (s.writeReg c n v).elem? c.br x y = s.elem? c.br x y := by
  obtain ⟨cx, cy, hu⟩ := State.unit_of_elemOf he
  have hother : ¬ (c.br = c.br ∧ x = cx ∧ y = cy) := by
    rintro ⟨-, rfl, rfl⟩
    exact hne hu
  rw [State.writeReg_eq hu hag hn, State.elem?_updElem, if_neg hother]
  exact fun _ => ⟨rfl, rfl⟩

end

theorem statusRegisterWritesReadBack : StatusRegisterWritesReadBack := by
  intro s c b e v hb he hag
  have hread {n : Nat} (hn : n < 4) : (s.writeReg c n v).nearReg c n = b.statusReg (e.written n v) s.now n :=
    State.nearReg_writeReg hb he hag hn v n
  refine ⟨hread (by decide), fun hgood => (hread (by decide)).trans ?mode, fun hbad => (hread (by decide)).trans ?noMode, hread (by decide),
    (hread (by decide)).trans ?nondet, fun n m hne hmode hn => State.nearReg_writeReg_of_ne hb he hag hn v hne hmode,
    fun n x y hn => State.elem?_writeReg_of_ne he hag hn v⟩
  case mode =>
    have hmode : (v.setWidth 3).setWidth 64 = BitVec.ofNat 64 (v.toNat % 8) := by bv_omega
    simp [Bent.statusReg, Elem.written, Nat.not_le.2 hgood, hmode]
  case noMode => simp [Bent.statusReg, Elem.written, hbad]
  case nondet =>
    have hcode : (v.setWidth 2).setWidth 64 = BitVec.ofNat 64 (v.toNat % 4) := by bv_omega
    simp [Bent.statusReg, Elem.written, hcode]

theorem reservedRegisterNumbers : ReservedRegisterNumbers := by
  intro o s c h
  refine ⟨fun hn => execMfs_of_reserved h (State.nearReg_eq_none ?near) (State.hubReg_eq_none ?hub), fun hn => ?mts⟩
  case near | hub => simp_all
  case mts =>
    obtain ⟨w, hmts⟩ := execMts_of_runs h
    exact ⟨w, by rw [hmts, State.writeReg_of_reserved s c hn]⟩

/-- Settles O43: a write is one change of the element's registers, which a read finds there, and a number that R271 does not list is held
neither by its element nor at the hub. -/
theorem statusRegistersFollowTheirTable : Obligations.StatusRegistersFollowTheirTable := ⟨statusRegisterWritesReadBack, reservedRegisterNumbers⟩

end Sys2Proof.Machine
end

section
/-! PROOFS. Ingress windows (R259 to R261): the slot that a BAR2 offset names, the record at INGHEAD, and the token that waits first. -/

namespace Sys2Proof.Machine

open Sys2Proof Claims

/-! ## Records written by the host -/

/-- Each window of 64 KiB holds 1024 slots of 64 bytes, and each partition 64 windows. -/
theorem windowAt_offset {part vd slot : Nat} (hslot : slot < 1024) (hvd : vd < 64) :
    windowAt ((64 * part + vd) * 0x10000 + 64 * slot) = ({ part := part, vd := vd }, slot) := by
  simp only [windowAt, Prod.mk.injEq, VdRef.mk.injEq]
  omega

/-- A record for a window of a package whose BAR2 serves it takes its slot, or is dropped and counted where the slot still holds one. -/
theorem execIngressRecordWrite_of_window {s : State} {v : VdRef} {d : Vdev} {q : Platform} (hd : s.vdev? v = some d) (hq : s.plat? d.home = some q)
    (hbar : q.bar2 = true) {slot : Nat} (hslot : slot < 1024) (hpart : v.part < 16) (hvd : v.vd < 64) (r : BitVec 512) :
    exec (.ingressRecordWrite d.home ((64 * v.part + v.vd) * 0x10000 + 64 * slot) r) s =
      if d.ingress.slots.any (·.1 == slot) = true then .next (s.ingDrop d)
      else .next (s.updVdev v (fun d => { d with ingress := { d.ingress with slots := d.ingress.slots ++ [(slot, r)] } })) := by
  have haligned : ((64 * v.part + v.vd) * 0x10000 + 64 * slot) % 64 = 0 := by omega
  have hrange : ¬ 2 ^ 26 ≤ (64 * v.part + v.vd) * 0x10000 + 64 * slot := by omega
  show execIngressRecordWrite d.home _ r s = _
  simp only [execIngressRecordWrite, windowAt_offset hslot hvd, hd, hq, hbar, haligned, hrange, bne_self_eq_false, ne_eq, not_true, decide_false,
    Option.elim_some, Bool.not_true, Bool.or_self, Bool.false_eq_true, if_false]

/-! ## Records consumed by the hub -/

theorem State.vdev?_onEvent (s : State) (e : Subject) (v : VdRef) : (onEvent s e).vdev? v = s.vdev? v := rfl

section
variable {s : State} {v : VdRef} {d : Vdev} {n : Nat} {r : BitVec 512} (hd : s.vdev? v = some d)
  (hr : d.ingress.slots.find? (·.1 == d.ingress.head) = some (n, r))
include hd hr

theorem State.headRecord_onEvent : (onEvent s (.vdev v)).headRecord = some (d, r) := by
  simp only [State.headRecord, State.cur_onEvent, State.vdev?_onEvent, hd, hr, Option.map_some]

/-- An OPEN that no token stands before binds its window, and asks for its image (R261). -/
theorem execIngressOpen_of_open (hopen : recF r 0 2 = 1) (hwait : d.ingress.waiting = []) :
    let e := onEvent s (.vdev v)
    let id := BitVec.ofNat 64 (recF r 32 8)
    let qsel := if 128 ≤ recF r 48 1 then some (recF r 48 1 % 64) else none
    let b : Binding := { image := id, qsel := qsel, rid := e.boundNow d.vdr id qsel, ended := false, rejected := false, since := s.now }
    exec .ingressOpen e = .next (((e.consume d.vdr).updVdev d.vdr (fun d =>
      { d with ingress := { d.ingress with binding := some b } })).askImage d.vdr id (recF r 40 8) none none true) := by
  show execIngressOpen _ = _
  simp only [execIngressOpen, State.headRecord_onEvent hd hr, hopen, hwait, List.isEmpty_nil, ne_eq, not_true, Bool.not_true, Bool.false_eq_true,
    or_self, if_false]
  rfl

/-- A TOKEN to a port, while the window's binding holds, waits for its raising (R261). -/
theorem execIngressToken_of_binding {b : Binding} (htok : recF r 0 2 = 2) (hb : d.ingress.binding = some b) (hended : b.ended = false)
    (hrej : b.rejected = false) (hport : recF r 10 1 % 4 ≠ 3) : exec .ingressToken (onEvent s (.vdev v)) =
      .next (((onEvent s (.vdev v)).consume d.vdr).updVdev d.vdr (fun d =>
        { d with ingress := { d.ingress with waiting := d.ingress.waiting ++ [r] } })) := by
  show execIngressToken _ = _
  simp [execIngressToken, State.headRecord_onEvent hd hr, htok, hb, hended, hrej, hport]

/-- A record of no type of R260, or a TOKEN to the reserved port, is dropped (R261). -/
theorem execIngressToken_of_reserved (hopen : recF r 0 2 ≠ 1) (hbad : recF r 0 2 ≠ 2 ∨ recF r 10 1 % 4 = 3) :
    exec .ingressToken (onEvent s (.vdev v)) = .next (((onEvent s (.vdev v)).consume d.vdr).ingDrop d) := by
  show execIngressToken _ = _
  simp only [execIngressToken, State.headRecord_onEvent hd hr, hopen, if_false]
  rw [if_pos (hbad.imp_right .inr)]

end

/-! ## Tokens that wait for their raising -/

/-- The port that a TOKEN record names (R260). -/
def recDest (r : BitVec 512) : Dest := { bent := recF r 8 1, blk := recF r 2 2, slot := recF r 9 1, port := recPort r }

/-- The message that a hub sends for a TOKEN record, as a state numbers it (R190, R191, R261). -/
def State.recMsg (s : State) (v : VdRef) (home : Pkg) (rid : Nat) (cell : CellId) (r : BitVec 512) : Msg :=
  { mid := s.nextId, kind := .token, src := dieCell home 0, dst := cell, unit := .slot rid (recDest r), hubDst := false, tag := (recToken r).tag,
    len := 0, trim := false, gen := s.genOf cell, seq := 0, space := none, part := v.part, sub := 0, body := .tok rid (recDest r) (recToken r) }

/-- The token that waits first leaves the hub for the cell of its slot, once the raising of its binding is placed (R191, R261). -/
theorem execIngressTokenInject_of_placed {s : State} {v : VdRef} {d : Vdev} {r : BitVec 512} {rest : List (BitVec 512)} {b : Binding} {rid : Nat}
    {x : Raising} {n : Bent} {pl : PBlock} {p : PSlot} (hd : s.vdev? v = some d) (hwait : d.ingress.waiting = r :: rest)
    (hb : d.ingress.binding = some b) (hended : b.ended = false) (hrej : b.rejected = false) (hrid : b.rid = some rid)
    (hx : s.raising? rid = some x) (hn : x.bents[recF r 8 1]? = some n) (hpl : x.blocks[recF r 2 2]? = some pl)
    (hp : pl.slots[recF r 9 1]? = some p) (hon : pl.bent = recF r 8 1) :
    let cell := n.cell (s.slotCell n p).1 (s.slotCell n p).2
    let t := (onEvent s (.vdev v)).updVdev v (fun d => { d with ingress := { d.ingress with waiting := rest } })
    exec .ingressTokenInject (onEvent s (.vdev v)) =
      .next (t.newId.2.inject (.hub d.home 3 (if cell.pkg = d.home then cell.die else 0)) (t.recMsg v d.home rid cell r)) := by
  intro cell t
  have hx' : (onEvent s (.vdev v)).raising? rid = some x := hx
  show execIngressTokenInject (onEvent s (.vdev v)) = _
  simp only [execIngressTokenInject, State.cur_onEvent, State.vdev?_onEvent, hd, hwait, hb, hended, hrej, hrid, hx', hn, hpl, hp, hon, if_true,
    Bool.or_self, Bool.false_eq_true, if_false]
  rfl

/-- Settles O57: the host's record by whether its slot is free, the hub's by its type, and the first token that waits by where its slot is placed. -/
theorem ingressEventsComplete : Obligations.IngressEventsComplete := by
  intro s v d hd
  refine ⟨fun slot r q hq hbar hslot hpart hvd => ?write, fun n r hr => ⟨execIngressOpen_of_open hd hr,
    fun b => execIngressToken_of_binding hd hr, execIngressToken_of_reserved hd hr⟩,
    fun r rest b rid x n pl p hwait hb hended hrej hrid hx hn hpl hp hon => ?inject⟩
  case write =>
    have hwrite := execIngressRecordWrite_of_window hd hq hbar hslot hpart hvd r
    exact ⟨fun hfree => hwrite.trans (if_neg (Bool.eq_false_iff.1 hfree)), fun hheld => hwrite.trans (if_pos hheld)⟩
  case inject =>
    exact ⟨_, recDest r, State.recMsg _ v d.home rid _ r, execIngressTokenInject_of_placed hd hwait hb hended hrej hrid hx hn hpl hp hon,
      rfl, rfl, rfl, rfl, rfl, rfl⟩

end Sys2Proof.Machine
end

section
/-! PROOFS. Slot words (R273, R288): the fields of a word are all of it, what the decoder makes of each code of the grid, and the codes of the grid
that are undefined. -/

namespace Sys2Proof.Machine

open Sys2Proof

/-! ## The fields of a slot word (R273) -/

/-- The OPC and the other fields of a slot word are all of it. -/
theorem word_ofWord (w : W64) : (SlotOps.ofWord w).word (slotOpc w) = w := by
  simp only [SlotOps.word, SlotOps.ofWord, slotOpc, BitVec.ofNat_toNat, BitVec.setWidth_eq, BitVec.extractLsb'_append_extractLsb'_eq_extractLsb',
    BitVec.extractLsb'_eq_self]

theorem decodeSlot_eq_ok_iff {w : W64} {i : Instr} : decodeSlot w = .ok i ↔ ofOpcode (slotOpc w) (SlotOps.ofWord w) = some i := by
  rw [decodeSlot]
  cases ofOpcode (slotOpc w) (SlotOps.ofWord w) with
  | none => exact iff_of_false nofun nofun
  | some j => simp

theorem decodeSlot_of_none {w : W64} (h : ofOpcode (slotOpc w) (SlotOps.ofWord w) = none) :
    decodeSlot w = .error (.undefinedOpcode (slotOpc w)) := by rw [decodeSlot, h]

/-! ## The codes of the grid (R288) -/

/-- An instruction whose one word has the OPC and the fields given. -/
def Encodes (i : Instr) (opc : Nat) (o : SlotOps) : Prop := encode i = [o.word opc] ∧ i.ops? = some o

/-- The two forms of an OPC have one word when their fields agree. -/
theorem Encodes.ite {p : Prop} [Decidable p] {i j : Instr} {opc : Nat} {o : SlotOps} (hi : Encodes i opc o) (hj : Encodes j opc o) :
    Encodes (if p then i else j) opc o := by split <;> assumption

/-- So have the four operations of ATOM and of RATM (R309, R395). -/
theorem Encodes.atomForm {add or swap cas : Instr} {opc : Nat} {o : SlotOps} (hadd : Encodes add opc o) (hor : Encodes or opc o)
    (hswap : Encodes swap opc o) (hcas : Encodes cas opc o) : Encodes (atomForm o add or swap cas) opc o := (hcas.ite hswap).ite (hor.ite hadd)

/-- The instruction that a code stands for is encoded with that code. The cases named are the codes of more than one form: TAGI, TAGX, STI, SHDW and
TCVT, then ATOM and RATM. -/
theorem encodes_of_ofOpcode {opc : Nat} {o : SlotOps} {i : Instr} (h : ofOpcode opc o = some i) : Encodes i opc o := by
  revert h
  fun_cases ofOpcode opc o <;> rintro ⟨⟩
  case case82 | case83 | case95 | case106 | case114 => exact .ite ⟨rfl, rfl⟩ ⟨rfl, rfl⟩
  case case96 | case123 => exact .atomForm ⟨rfl, rfl⟩ ⟨rfl, rfl⟩ ⟨rfl, rfl⟩ ⟨rfl, rfl⟩
  all_goals exact ⟨rfl, rfl⟩

/-- The codes that the grid marks undefined. -/
abbrev UndefinedOpcode (n : Nat) : Prop :=
  n = 0x1E ∨ n = 0x1F ∨ n = 0x2F ∨ (0x4A ≤ n ∧ n ≤ 0x4F) ∨ n = 0x56 ∨ n = 0x57 ∨ (0x64 ≤ n ∧ n ≤ 0x67) ∨ (0x6A ≤ n ∧ n ≤ 0x6F) ∨ n = 0x7F ∨
    (0x81 ≤ n ∧ n ≤ 0x87) ∨ (0x92 ≤ n ∧ n ≤ 0x97) ∨ (0x9A ≤ n ∧ n ≤ 0x9F) ∨ n = 0xA7 ∨ n = 0xAA ∨ n = 0xAB ∨ n = 0xAE ∨ n = 0xAF ∨
    (0xB9 ≤ n ∧ n ≤ 0xDF) ∨ 0xE4 ≤ n

/-- A code that stands for an instruction is not among the undefined ones. -/
theorem not_undefinedOpcode_of_ofOpcode {n : Nat} {o : SlotOps} {i : Instr} (h : ofOpcode n o = some i) : ¬ UndefinedOpcode n := by
  revert h
  fun_cases ofOpcode n o <;> rintro ⟨⟩ <;> decide

/-- A code in a run of codes that each stand for an instruction does. -/
theorem exists_ofOpcode_of_mem {first count n : Nat} {o : SlotOps} (hall : (List.range' first count).all (fun n => (ofOpcode n o).isSome) = true)
    (hn : n ∈ List.range' first count) : ∃ i, ofOpcode n o = some i := Option.isSome_iff_exists.1 (List.all_eq_true.1 hall n hn)

/-- A code that is not undefined lies in one of the runs of codes between the undefined ones, each of which stands for an instruction. -/
theorem exists_ofOpcode_of_not_undefinedOpcode {n : Nat} (o : SlotOps) (h : ¬ UndefinedOpcode n) : ∃ i, ofOpcode n o = some i := by
  have hruns : n ∈ List.range' 0x00 30 ∨ n ∈ List.range' 0x20 15 ∨ n ∈ List.range' 0x30 26 ∨ n ∈ List.range' 0x50 6 ∨ n ∈ List.range' 0x58 12 ∨
      n ∈ List.range' 0x68 2 ∨ n ∈ List.range' 0x70 15 ∨ n ∈ List.range' 0x80 1 ∨ n ∈ List.range' 0x88 10 ∨ n ∈ List.range' 0x98 2 ∨
      n ∈ List.range' 0xA0 7 ∨ n ∈ List.range' 0xA8 2 ∨ n ∈ List.range' 0xAC 2 ∨ n ∈ List.range' 0xB0 9 ∨ n ∈ List.range' 0xE0 4 := by
    simp only [List.mem_range'_1]
    omega
  rcases hruns with hn | hn | hn | hn | hn | hn | hn | hn | hn | hn | hn | hn | hn | hn | hn <;> exact exists_ofOpcode_of_mem rfl hn

/-! ## The statements -/

/-- Settles O3: the instruction of a code is encoded with that code and its fields, and those are all of the word. -/
theorem slotWordHasOneMeaning : Obligations.SlotWordHasOneMeaning := by
  intro w i h
  obtain ⟨hword, hops⟩ := encodes_of_ofOpcode (decodeSlot_eq_ok_iff.1 h)
  exact ⟨by rw [hword, word_ofWord], _, hops⟩

/-- Settles O5: no undefined code stands for an instruction, and every other does. -/
theorem undefinedOpcodesAreRefused : Obligations.UndefinedOpcodesAreRefused := by
  refine fun w => ⟨fun (hundef : UndefinedOpcode (slotOpc w)) => ?undefined, fun (hdef : ¬ UndefinedOpcode (slotOpc w)) => ?defined⟩
  case undefined => exact decodeSlot_of_none (Option.eq_none_iff_forall_ne_some.2 fun _ hi => not_undefinedOpcode_of_ofOpcode hi hundef)
  case defined =>
    obtain ⟨i, hi⟩ := exists_ofOpcode_of_not_undefinedOpcode (SlotOps.ofWord w) hdef
    exact ⟨i, decodeSlot_eq_ok_iff.2 hi⟩

/-- Settles O1: each word is taken apart by R273, and its OPC found in the grid. -/
theorem specExampleWordsDecode : Obligations.SpecExampleWordsDecode := ⟨rfl, rfl, rfl, rfl, rfl, rfl, rfl⟩

end Sys2Proof.Machine
end

section
/-! PROOFS. Queue words (R291 to R293, R383, R384): where the decoder reads the fields of a head word and of its extension words, and the queue
instructions that it reads back from them. -/

namespace Sys2Proof.Machine

open Sys2Proof

/-! ## Fields of a concatenation -/

/-- A field above the low part of a concatenation is a field of its high part. -/
theorem extractLsb'_append_of_high {a b start len : Nat} {x : BitVec a} {y : BitVec b} {f : BitVec len} (h : x.extractLsb' start len = f) :
    (x ++ y).extractLsb' (start + b) len = f := by
  rw [BitVec.extractLsb'_append_eq_of_le (Nat.le_add_left b start), Nat.add_sub_cancel, h]

/-- A bit above the low part of a concatenation is a bit of its high part. -/
theorem getLsbD_append_of_high {a b i : Nat} {x : BitVec a} {y : BitVec b} {f : Bool} (h : x.getLsbD i = f) : (x ++ y).getLsbD (i + b) = f := by
  rw [BitVec.getLsbD_append, if_neg (by omega), Nat.add_sub_cancel, h]

theorem getLsbD_append_ofBool {a : Nat} (x : BitVec a) (f : Bool) : (x ++ BitVec.ofBool f).getLsbD 0 = f := by
  rw [BitVec.getLsbD_append, if_pos Nat.zero_lt_one]
  cases f <;> rfl

/-! ## The parts of a word (R291) -/

section
variable (opc : Nat) {body : BitVec 56}

theorem extractLsb'_qhead {start len : Nat} {f : BitVec len} (hle : start + len ≤ 56) (h : body.extractLsb' start len = f) :
    (qhead opc body).extractLsb' start len = f := (BitVec.extractLsb'_append_eq_of_add_le hle).trans h

theorem setWidth_qhead {n : Nat} {f : BitVec n} (hle : n ≤ 56) (h : body.setWidth n = f) : (qhead opc body).setWidth n = f := by
  rw [BitVec.setWidth_eq_extractLsb' (by omega)]
  exact extractLsb'_qhead opc (by omega) ((BitVec.setWidth_eq_extractLsb' hle).symm.trans h)

theorem getLsbD_qhead {i : Nat} {f : Bool} (hlt : i < 56) (h : body.getLsbD i = f) : (qhead opc body).getLsbD i = f :=
  (BitVec.getLsbD_append.trans (if_pos hlt)).trans h

variable (body)

@[simp] theorem qkind_qhead : qkind (qhead opc body) = 0 := (extractLsb'_append_of_high BitVec.extractLsb'_append_eq_left :)

theorem qopc_qhead (h : opc < 64) : qopc (qhead opc body) = opc := by
  have hfield : (qhead opc body).extractLsb' 56 6 = BitVec.ofNat 6 opc := (extractLsb'_append_of_high BitVec.extractLsb'_append_eq_right :)
  rw [qopc, hfield, BitVec.toNat_ofNat, Nat.mod_eq_of_lt h]

end

@[simp] theorem qkind_qext {n : Nat} (v : BitVec n) : qkind (qext v) = 1 := BitVec.extractLsb'_append_eq_left

/-- An operand of an extension word (R384). -/
theorem setWidth_qext {n : Nat} (v : BitVec n) (h : n ≤ 62) : (qext v).setWidth n = v := by
  rw [qext, BitVec.setWidth_eq_extractLsb' (by omega), BitVec.extractLsb'_append_eq_of_add_le (by omega), ← BitVec.setWidth_eq_extractLsb' h,
    BitVec.setWidth_setWidth_of_le _ h, BitVec.setWidth_eq]

/-- An operand of two extension words (R383). -/
theorem qval64_qext (v : W64) : qval64 (qext (v.setWidth 32)) (qext (v.extractLsb' 32 32)) = v := by
  rw [qval64, setWidth_qext _ (by decide), setWidth_qext _ (by decide), BitVec.setWidth_eq_extractLsb' (by decide),
    BitVec.extractLsb'_append_extractLsb'_eq_extractLsb' (by decide), BitVec.extractLsb'_eq_self]

/-! ## The fields of the head words (R383, R384) -/

section
open BitVec (extractLsb'_append_eq_left extractLsb'_append_eq_right setWidth_append_eq_right)
variable (opc : Nat) (sem : BitVec 10)

/-- The head word of QLNCH and QLOAD. -/
theorem fields_sem_sg_addv (sg : Bool) (addv : BitVec 32) :
    let h := qhead opc (sem ++ BitVec.ofBool sg ++ (0 : BitVec 13) ++ addv)
    qsem h = sem ∧ h.getLsbD 45 = sg ∧ h.setWidth 32 = addv :=
  ⟨extractLsb'_qhead _ (by decide) (extractLsb'_append_of_high (extractLsb'_append_of_high extractLsb'_append_eq_left)),
   getLsbD_qhead _ (by decide) (getLsbD_append_of_high (getLsbD_append_of_high (getLsbD_append_ofBool _ _))),
   setWidth_qhead _ (by decide) setWidth_append_eq_right⟩

/-- The head word of QCOPY. -/
theorem fields_sem_sg_sh_addv (sg sh : Bool) (addv : BitVec 32) :
    let h := qhead opc (sem ++ BitVec.ofBool sg ++ BitVec.ofBool sh ++ (0 : BitVec 12) ++ addv)
    qsem h = sem ∧ h.getLsbD 45 = sg ∧ h.getLsbD 44 = sh ∧ h.setWidth 32 = addv :=
  ⟨extractLsb'_qhead _ (by decide) (extractLsb'_append_of_high (extractLsb'_append_of_high (extractLsb'_append_of_high extractLsb'_append_eq_left))),
   getLsbD_qhead _ (by decide) (getLsbD_append_of_high (getLsbD_append_of_high (getLsbD_append_of_high (getLsbD_append_ofBool _ _)))),
   getLsbD_qhead _ (by decide) (getLsbD_append_of_high (getLsbD_append_of_high (getLsbD_append_ofBool _ _))),
   setWidth_qhead _ (by decide) setWidth_append_eq_right⟩

/-- The head word of QWGE, QWEQ and QSET. -/
theorem field_sem : qsem (qhead opc (sem ++ (0 : BitVec 46))) = sem := extractLsb'_qhead _ (by decide) extractLsb'_append_eq_left

/-- The head word of QSIG. -/
theorem fields_sem_scope (scope : BitVec 4) :
    let h := qhead opc (sem ++ scope ++ (0 : BitVec 42))
    qsem h = sem ∧ h.extractLsb' 42 4 = scope :=
  ⟨extractLsb'_qhead _ (by decide) (extractLsb'_append_of_high extractLsb'_append_eq_left),
   extractLsb'_qhead _ (by decide) (extractLsb'_append_of_high extractLsb'_append_eq_right)⟩

/-- The head word of QINTR. -/
theorem fields_vec_code (vec : BitVec 11) (code : BitVec 32) :
    let h := qhead opc (vec ++ (0 : BitVec 13) ++ code)
    h.extractLsb' 45 11 = vec ∧ h.setWidth 32 = code :=
  ⟨extractLsb'_qhead _ (by decide) (extractLsb'_append_of_high extractLsb'_append_eq_left),
   setWidth_qhead _ (by decide) setWidth_append_eq_right⟩

/-- The head word of QJNZ. -/
theorem fields_sem_dec_target (dec : Bool) (target : BitVec 16) :
    let h := qhead opc (sem ++ BitVec.ofBool dec ++ (0 : BitVec 29) ++ target)
    qsem h = sem ∧ h.getLsbD 45 = dec ∧ h.setWidth 16 = target :=
  ⟨extractLsb'_qhead _ (by decide) (extractLsb'_append_of_high (extractLsb'_append_of_high extractLsb'_append_eq_left)),
   getLsbD_qhead _ (by decide) (getLsbD_append_of_high (getLsbD_append_of_high (getLsbD_append_ofBool _ _))),
   setWidth_qhead _ (by decide) setWidth_append_eq_right⟩

/-- The head word of QFNC. -/
theorem field_scope (scope : BitVec 4) : (qhead opc ((0 : BitVec 10) ++ scope ++ (0 : BitVec 42))).extractLsb' 42 4 = scope :=
  extractLsb'_qhead _ (by decide) (extractLsb'_append_of_high extractLsb'_append_eq_right)

/-- The head word of QTMR. -/
theorem fields_sem_tid_delay (tid : BitVec 3) (delay : BitVec 40) :
    let h := qhead opc (sem ++ tid ++ (0 : BitVec 3) ++ delay)
    qsem h = sem ∧ h.extractLsb' 43 3 = tid ∧ h.setWidth 40 = delay :=
  ⟨extractLsb'_qhead _ (by decide) (extractLsb'_append_of_high (extractLsb'_append_of_high extractLsb'_append_eq_left)),
   extractLsb'_qhead _ (by decide) (extractLsb'_append_of_high (extractLsb'_append_of_high extractLsb'_append_eq_right)),
   setWidth_qhead _ (by decide) setWidth_append_eq_right⟩

/-- The head word of QSAVE and QREST. -/
theorem fields_sem_sg_qn_addv (sg : Bool) (qn : BitVec 6) (addv : BitVec 32) :
    let h := qhead opc (sem ++ BitVec.ofBool sg ++ qn ++ (0 : BitVec 7) ++ addv)
    qsem h = sem ∧ h.getLsbD 45 = sg ∧ h.extractLsb' 39 6 = qn ∧ h.setWidth 32 = addv :=
  ⟨extractLsb'_qhead _ (by decide) (extractLsb'_append_of_high (extractLsb'_append_of_high (extractLsb'_append_of_high extractLsb'_append_eq_left))),
   getLsbD_qhead _ (by decide) (getLsbD_append_of_high (getLsbD_append_of_high (getLsbD_append_of_high (getLsbD_append_ofBool _ _)))),
   extractLsb'_qhead _ (by decide) (extractLsb'_append_of_high (extractLsb'_append_of_high extractLsb'_append_eq_right)),
   setWidth_qhead _ (by decide) setWidth_append_eq_right⟩

end

/-! ## Decoding (R293) -/

/-- Extension words are found in their places, whatever follows them. -/
theorem badExt_of_qkind {ext : List W64} (h : ∀ w ∈ ext, qkind w = 1) (k : Nat) (rest : List W64) : badExt k ext.length (ext ++ rest) = none := by
  induction ext generalizing k with
  | nil => rfl
  | cons w ws ih =>
    obtain ⟨hw, hws⟩ := List.forall_mem_cons.1 h
    simp only [List.length_cons, List.cons_append, badExt, hw, if_true, ih hws]

/-- An instruction whose words are a head word and as many extension words as its QOPC has is read back from them when its fields are. -/
theorem decodeQueue_encode {i j : Instr} {opc : Nat} {body : BitVec 56} {ext : List W64} (he : encode i = qhead opc body :: ext) (hopc : opc < 64)
    (hn : qexts opc = some ext.length) (hext : ∀ w ∈ ext, qkind w = 1) (hj : ofQueue opc (qhead opc body) ext = some j) (hji : j = i)
    (rest : List W64) : decodeQueue (encode i ++ rest) = .ok (i, rest) := by
  rw [he, List.cons_append]
  simp [decodeQueue, qopc_qhead opc body hopc, hn, badExt_of_qkind hext, hj, hji]

/-- A queue instruction, which has words and no slot fields, is read back from them. -/
theorem decodeQueue_encode_of_queueWord {i : Instr} (hword : ((encode i).isEmpty || i.ops?.isSome) = false) (rest : List W64) :
    decodeQueue (encode i ++ rest) = .ok (i, rest) := by
  cases i with
  | qnop => exact decodeQueue_encode rfl (by decide) rfl (by simp) rfl rfl rest
  | qlnch sem sg addv img va arg =>
    obtain ⟨hsem, hsg, haddv⟩ := fields_sem_sg_addv 0x01 sem sg addv
    exact decodeQueue_encode rfl (by decide) rfl (by simp) rfl
      (by rw [hsem, hsg, haddv, qval64_qext, setWidth_qext va (by decide), setWidth_qext arg (by decide)]) rest
  | qcopy sem sg sh addv src dst len =>
    obtain ⟨hsem, hsg, hsh, haddv⟩ := fields_sem_sg_sh_addv 0x02 sem sg sh addv
    exact decodeQueue_encode rfl (by decide) rfl (by simp) rfl
      (by rw [hsem, hsg, hsh, haddv, setWidth_qext src (by decide), setWidth_qext dst (by decide), setWidth_qext len (by decide)]) rest
  | qwge sem val =>
    exact decodeQueue_encode rfl (by decide) rfl (by simp) rfl (by rw [field_sem, qval64_qext]) rest
  | qweq sem val =>
    exact decodeQueue_encode rfl (by decide) rfl (by simp) rfl (by rw [field_sem, qval64_qext]) rest
  | qsig sem scope val =>
    obtain ⟨hsem, hscope⟩ := fields_sem_scope 0x05 sem scope
    exact decodeQueue_encode rfl (by decide) rfl (by simp) rfl (by rw [hsem, hscope, qval64_qext]) rest
  | qset sem val =>
    exact decodeQueue_encode rfl (by decide) rfl (by simp) rfl (by rw [field_sem, qval64_qext]) rest
  | qintr vec code =>
    obtain ⟨hvec, hcode⟩ := fields_vec_code 0x07 vec code
    exact decodeQueue_encode rfl (by decide) rfl (by simp) rfl (by rw [hvec, hcode]) rest
  | qjmp target =>
    have htarget := setWidth_qhead 0x08 (by decide) (BitVec.setWidth_append_eq_right (a := (0 : BitVec 40)) (b := target))
    exact decodeQueue_encode rfl (by decide) rfl (by simp) rfl (congrArg _ htarget) rest
  | qjnz sem dec target =>
    obtain ⟨hsem, hdec, htarget⟩ := fields_sem_dec_target 0x09 sem dec target
    exact decodeQueue_encode rfl (by decide) rfl (by simp) rfl (by rw [hsem, hdec, htarget]) rest
  | qfnc scope => exact decodeQueue_encode rfl (by decide) rfl (by simp) rfl (by rw [field_scope]) rest
  | qload sem sg addv img va report =>
    obtain ⟨hsem, hsg, haddv⟩ := fields_sem_sg_addv 0x0B sem sg addv
    exact decodeQueue_encode rfl (by decide) rfl (by simp) rfl
      (by rw [hsem, hsg, haddv, qval64_qext, setWidth_qext va (by decide), setWidth_qext report (by decide)]) rest
  | qend code =>
    have hcode := setWidth_qhead 0x0C (by decide) (BitVec.setWidth_append_eq_right (a := (0 : BitVec 24)) (b := code))
    exact decodeQueue_encode rfl (by decide) rfl (by simp) rfl (congrArg _ hcode) rest
  | qtmr sem tid delay =>
    obtain ⟨hsem, htid, hdelay⟩ := fields_sem_tid_delay 0x0D sem tid delay
    exact decodeQueue_encode rfl (by decide) rfl (by simp) rfl (by rw [hsem, htid, hdelay]) rest
  | qeng e =>
    have he := setWidth_qhead 0x0E (by decide) (BitVec.setWidth_append_eq_right (a := (0 : BitVec 8)) (b := e))
    exact decodeQueue_encode rfl (by decide) rfl (by simp) rfl (congrArg _ he) rest
  | qsave sem sg qn addv =>
    obtain ⟨hsem, hsg, hqn, haddv⟩ := fields_sem_sg_qn_addv 0x0F sem sg qn addv
    exact decodeQueue_encode rfl (by decide) rfl (by simp) rfl (by rw [hsem, hsg, hqn, haddv]) rest
  | qrest sem sg qn addv =>
    obtain ⟨hsem, hsg, hqn, haddv⟩ := fields_sem_sg_qn_addv 0x10 sem sg qn addv
    exact decodeQueue_encode rfl (by decide) rfl (by simp) rfl (by rw [hsem, hsg, hqn, haddv]) rest
  | _ => exact absurd hword nofun

/-- Settles O4: every field of a queue instruction stands in its place of a head word or of an extension word, where the decoder reads it. -/
theorem queueWordRoundTrip : Obligations.QueueWordRoundTrip := fun i rest hne hops =>
  decodeQueue_encode_of_queueWord (by simp [hne, hops]) rest

end Sys2Proof.Machine
end

section
/-! PROOFS. A queue word that may not execute (R293): the record that the queue stops with. -/

namespace Sys2Proof.Machine

open Sys2Proof

/-- The record with which a queue stops (R293). -/
def stopRecord (q : Queue) (c : Cause) (idx seq : Nat) : FaultRec :=
  { cause := c.code, part := q.vdr.part, vdid := q.vdr.vd, bent := 0, raiseid := 0xFFFFFFFF, ecx := 0, ecy := 0, eng := false,
    unit := 0, blk := 0, slot := 0, port := 0, tag := 0, addr := idx, level := 0, wr := false, park := false, j := 0, refc := 0,
    fire := 0, sub := 0, grp := 0, kstep := 0, acc := 0, seq := seq, aux := q.q, cycle := 0 }

/-- The state in which a queue is stopped, before its record is written. -/
def State.haltQueue (s : State) (q : Queue) : State := s.updQueue q.vdr q.q (fun x => { x with state := .stopped, work := none })

theorem State.stopQueue_of_vdev {s : State} {x : Queue} {d : Vdev} (hd : s.vdev? x.vdr = some d) (c : Cause) (idx : Nat) :
    s.stopQueue x c idx = (s.haltQueue x).pushRecord d.home x.vdr.part (stopRecord x c idx) := by
  have hd' : (s.haltQueue x).vdev? x.vdr = some d := hd
  simp only [State.stopQueue, State.haltQueue] at hd' ⊢
  simp only [hd']
  rfl

theorem State.queue?_pushRecord (s : State) (pkg : Pkg) (part : Nat) (f : Nat → FaultRec) (v : VdRef) (q : Nat) :
    (s.pushRecord pkg part f).queue? v q = s.queue? v q := by
  obtain ⟨m, e, c, ps, qs, h⟩ := s.pushRecord_eq pkg part f
  rw [h]; rfl

theorem takeWord_of_bad {run : Instr → State → Host.Outcome State Fault Refusal} {s : State} {v : VdRef} {q : Nat} {x : Queue} {e : DecodeErr}
    {c : Cause} {k : Nat} (hx : s.queue? v q = some x) (htakes : x.takes = true) (hslot : s.inSlot v = true)
    (he : decodeQueue (x.prog.drop x.qptr) = .error e)
    (hc : (e = .queueMisaligned k ∧ c = .queueMisaligned) ∨ (e = .queueUndefined k ∧ c = .queueUndefined)) :
    takeWord run s v q = .next (s.stopQueue x c (x.qptr + k)) := by
  rcases hc with ⟨rfl, rfl⟩ | ⟨rfl, rfl⟩ <;> simp only [takeWord, hx, htakes, hslot, he, Bool.and_self, if_true]

/-- Settles O7: the word's error names its cause and its offset, and the record changes no queue. -/
theorem badQueueWordStopsTheQueue : Obligations.BadQueueWordStopsTheQueue := by
  intro s v q x d e c k hx hd htakes hslot he hc
  obtain ⟨rfl, rfl⟩ := Queue.key_of_queue? hx
  refine ⟨_, takeWord_of_bad hx htakes hslot he hc, ?queue, fun p hp =>
    ⟨stopRecord x c (x.qptr + k) ((s.haltQueue x).nextSeq d.home), ?record, rfl, rfl, rfl, rfl, rfl, rfl, rfl, rfl, rfl, rfl, rfl⟩⟩
  case queue =>
    rw [State.stopQueue_of_vdev hd, State.queue?_pushRecord, State.haltQueue, State.queue?_updQueue, if_pos ⟨rfl, rfl⟩, hx]
    · rfl
    · exact fun _ => ⟨rfl, rfl⟩
  case record =>
    have hp' : (s.haltQueue x).part? x.vdr.part = some p := hp
    rw [State.stopQueue_of_vdev hd, State.part?_pushRecord hp']
    rfl

end Sys2Proof.Machine
end

section
/-! PROOFS. The lane instructions (R314, R377, R378, R402, R403, R417, R440) as they fire. -/

namespace Sys2Proof.Machine

open Sys2Proof Claims

/-- Settles O17: each instruction is the result of its lanes at a firing that runs. -/
theorem laneInstructionsComplete : Obligations.LaneInstructionsComplete := by
  intro o s c h
  have hrun (f : Ctx → Result) : s.compute o f = .next (s.deliver o c (f c)) := State.compute_of_runs h f
  exact ⟨hrun _, hrun _, hrun _, hrun _, hrun _, hrun _⟩

end Sys2Proof.Machine
end
